-- ==== Sys2Proof/Word.lean ====
section
/-! DEFINITION. The word and byte types and their plainest arithmetic. -/

namespace Sys2Proof

/-- A 64-bit register value (R197). -/
abbrev Word := BitVec 64

/-- A byte of memory. -/
abbrev Byte := BitVec 8

/-- A 256-bit vector register value (R309). -/
abbrev VWord := BitVec 256

/-- `SignExt(x, n)` of R198 for an n-bit pattern. -/
def sext64 {n : Nat} (x : BitVec n) : Word := x.signExtend 64

/-- `ZeroExt(x, n)` of R198 for an n-bit pattern. -/
def zext64 {n : Nat} (x : BitVec n) : Word := x.zeroExtend 64

end Sys2Proof
end

