-- ==== Sys2Proof/Syntax.lean ====
section
/-! DEFINITION. The instructions of the part: one constructor for each row of the opcode table.
The 230 encoded rows carry exactly the fields of their word (spec/07_encoding.md R173 to R187); the 80 rows without an
encoding are the steps of the device itself, and carry what distinguishes one such step from another (which die, core,
slot, queue or list entry it acts on, or the value that arrives from outside). -/

namespace Sys2Proof

/-- A participant of a collective on another device (R351): device number, lane, whether it agrees in command, NDEV, PPD, OP, FMT,
COUNT and list, whether its launch runs at level 1 or 2, and its operand elements. -/
structure FarPart where
  dev : Nat
  lane : Nat
  same : Bool
  ordered : Bool
  elems : List Nat
  deriving DecidableEq, Repr

/-- One constructor per row of the opcode table (R179 to R187; the steps of the other chapters). -/
inductive Instr where
  /-- TRAP (R214) -/
  | trap (k : BitVec 10)
  /-- ERET (R215) -/
  | eret
  /-- MFS (R216) -/
  | mfs (d : BitVec 5) (sc : BitVec 10)
  /-- MTS (R216) -/
  | mts (a : BitVec 5) (sc : BitVec 10)
  /-- MFK (R217) -/
  | mfk (d : BitVec 5) (k : BitVec 4)
  /-- MTK (R217) -/
  | mtk (k : BitVec 4) (a : BitVec 5)
  /-- CCTL_WB (R99) -/
  | cctlWb (a : BitVec 5)
  /-- CCTL_INV (R99) -/
  | cctlInv (a : BitVec 5)
  /-- CCTL_DROP (R99) -/
  | cctlDrop (a : BitVec 5)
  /-- CCTL_FLASH (R99) -/
  | cctlFlash
  /-- CCTL_IINV (R99) -/
  | cctlIinv
  /-- TLBINV (R219) -/
  | tlbinv (a : BitVec 5) (b : BitVec 5) (l : BitVec 1) (k : BitVec 3)
  /-- BRK (R214) -/
  | brk (k : BitVec 10)
  /-- WAITEV (R220) -/
  | waitev (d : BitVec 5) (a : BitVec 5)
  /-- ADD (R201) -/
  | add (d : BitVec 5) (a : BitVec 5) (b : BitVec 5)
  /-- SUB (R201) -/
  | sub (d : BitVec 5) (a : BitVec 5) (b : BitVec 5)
  /-- AND (R201) -/
  | and (d : BitVec 5) (a : BitVec 5) (b : BitVec 5)
  /-- OR (R201) -/
  | or (d : BitVec 5) (a : BitVec 5) (b : BitVec 5)
  /-- XOR (R201) -/
  | xor (d : BitVec 5) (a : BitVec 5) (b : BitVec 5)
  /-- SLL (R201) -/
  | sll (d : BitVec 5) (a : BitVec 5) (b : BitVec 5)
  /-- SRL (R201) -/
  | srl (d : BitVec 5) (a : BitVec 5) (b : BitVec 5)
  /-- SRA (R201) -/
  | sra (d : BitVec 5) (a : BitVec 5) (b : BitVec 5)
  /-- SLT (R201) -/
  | slt (d : BitVec 5) (a : BitVec 5) (b : BitVec 5)
  /-- SLTN (R201) -/
  | sltn (d : BitVec 5) (a : BitVec 5) (b : BitVec 5)
  /-- MIN (R201) -/
  | min (d : BitVec 5) (a : BitVec 5) (b : BitVec 5)
  /-- MAX (R201) -/
  | max (d : BitVec 5) (a : BitVec 5) (b : BitVec 5)
  /-- MINN (R201) -/
  | minn (d : BitVec 5) (a : BitVec 5) (b : BitVec 5)
  /-- MAXN (R201) -/
  | maxn (d : BitVec 5) (a : BitVec 5) (b : BitVec 5)
  /-- MUL (R201) -/
  | mul (d : BitVec 5) (a : BitVec 5) (b : BitVec 5)
  /-- MULH (R201) -/
  | mulh (d : BitVec 5) (a : BitVec 5) (b : BitVec 5)
  /-- MULHN (R201) -/
  | mulhn (d : BitVec 5) (a : BitVec 5) (b : BitVec 5)
  /-- DIV (R202) -/
  | div (d : BitVec 5) (a : BitVec 5) (b : BitVec 5)
  /-- DIVN (R202) -/
  | divn (d : BitVec 5) (a : BitVec 5) (b : BitVec 5)
  /-- REM (R202) -/
  | rem (d : BitVec 5) (a : BitVec 5) (b : BitVec 5)
  /-- REMN (R202) -/
  | remn (d : BitVec 5) (a : BitVec 5) (b : BitVec 5)
  /-- CLZ (R201) -/
  | clz (d : BitVec 5) (a : BitVec 5)
  /-- CTZ (R201) -/
  | ctz (d : BitVec 5) (a : BitVec 5)
  /-- POPC (R201) -/
  | popc (d : BitVec 5) (a : BitVec 5)
  /-- SEL (R201) -/
  | sel (d : BitVec 5) (a : BitVec 5) (b : BitVec 5) (c : BitVec 5)
  /-- ADDSH (R201) -/
  | addsh (d : BitVec 5) (a : BitVec 5) (b : BitVec 5) (sc : BitVec 5)
  /-- ADDI (R203) -/
  | addi (d : BitVec 5) (a : BitVec 5) (imm : BitVec 16)
  /-- ANDI (R203) -/
  | andi (d : BitVec 5) (a : BitVec 5) (imm : BitVec 16)
  /-- ORI (R203) -/
  | ori (d : BitVec 5) (a : BitVec 5) (imm : BitVec 16)
  /-- XORI (R203) -/
  | xori (d : BitVec 5) (a : BitVec 5) (imm : BitVec 16)
  /-- SLTI (R203) -/
  | slti (d : BitVec 5) (a : BitVec 5) (imm : BitVec 16)
  /-- SLLI (R204) -/
  | slli (d : BitVec 5) (a : BitVec 5) (n : BitVec 6)
  /-- SRLI (R204) -/
  | srli (d : BitVec 5) (a : BitVec 5) (n : BitVec 6)
  /-- SRAI (R204) -/
  | srai (d : BitVec 5) (a : BitVec 5) (n : BitVec 6)
  /-- EXT (R204) -/
  | ext (d : BitVec 5) (a : BitVec 5) (p : BitVec 6) (l : BitVec 6)
  /-- INS (R204) -/
  | ins (d : BitVec 5) (a : BitVec 5) (p : BitVec 6) (l : BitVec 6)
  /-- LDI (R205) -/
  | ldi (d : BitVec 5) (imm : BitVec 21)
  /-- LDHI (R205) -/
  | ldhi (d : BitVec 5) (imm : BitVec 21)
  /-- LDXH (R205) -/
  | ldxh (d : BitVec 5) (imm : BitVec 21)
  /-- BEQ (R206) -/
  | beq (a : BitVec 5) (b : BitVec 5) (o : BitVec 16)
  /-- BNE (R206) -/
  | bne (a : BitVec 5) (b : BitVec 5) (o : BitVec 16)
  /-- BLT (R206) -/
  | blt (a : BitVec 5) (b : BitVec 5) (o : BitVec 16)
  /-- BGE (R206) -/
  | bge (a : BitVec 5) (b : BitVec 5) (o : BitVec 16)
  /-- BLTN (R206) -/
  | bltn (a : BitVec 5) (b : BitVec 5) (o : BitVec 16)
  /-- BGEN (R206) -/
  | bgen (a : BitVec 5) (b : BitVec 5) (o : BitVec 16)
  /-- JMP (R207) -/
  | jmp (o : BitVec 26)
  /-- CALL (R209) -/
  | call (o : BitVec 26)
  /-- JR (R208) -/
  | jr (a : BitVec 5)
  /-- CALLR (R209) -/
  | callr (a : BitVec 5)
  /-- RET (R210) -/
  | ret
  /-- LDB (R255) -/
  | ldb (d : BitVec 5) (a : BitVec 5) (imm : BitVec 16)
  /-- LDBN (R255) -/
  | ldbn (d : BitVec 5) (a : BitVec 5) (imm : BitVec 16)
  /-- LDH (R255) -/
  | ldh (d : BitVec 5) (a : BitVec 5) (imm : BitVec 16)
  /-- LDHN (R255) -/
  | ldhn (d : BitVec 5) (a : BitVec 5) (imm : BitVec 16)
  /-- LDW (R255) -/
  | ldw (d : BitVec 5) (a : BitVec 5) (imm : BitVec 16)
  /-- LDWN (R255) -/
  | ldwn (d : BitVec 5) (a : BitVec 5) (imm : BitVec 16)
  /-- LDD (R255) -/
  | ldd (d : BitVec 5) (a : BitVec 5) (imm : BitVec 16)
  /-- STB (R256) -/
  | stb (b : BitVec 5) (a : BitVec 5) (imm : BitVec 16)
  /-- STH (R256) -/
  | sth (b : BitVec 5) (a : BitVec 5) (imm : BitVec 16)
  /-- STW (R256) -/
  | stw (b : BitVec 5) (a : BitVec 5) (imm : BitVec 16)
  /-- STD (R256) -/
  | std (b : BitVec 5) (a : BitVec 5) (imm : BitVec 16)
  /-- VLD (R258) -/
  | vld (d : BitVec 4) (a : BitVec 5) (imm : BitVec 16)
  /-- VST (R258) -/
  | vst (b : BitVec 4) (a : BitVec 5) (imm : BitVec 16)
  /-- FLDD (R257) -/
  | fldd (d : BitVec 5) (a : BitVec 5) (imm : BitVec 16)
  /-- FLDS (R257) -/
  | flds (d : BitVec 5) (a : BitVec 5) (imm : BitVec 16)
  /-- FSTD (R257) -/
  | fstd (b : BitVec 5) (a : BitVec 5) (imm : BitVec 16)
  /-- FSTS (R257) -/
  | fsts (b : BitVec 5) (a : BitVec 5) (imm : BitVec 16)
  /-- LDX (R260) -/
  | ldx (d : BitVec 5) (a : BitVec 5) (b : BitVec 5) (h : BitVec 2) (n : BitVec 1) (sc : BitVec 2)
  /-- STX (R260) -/
  | stx (d : BitVec 5) (a : BitVec 5) (b : BitVec 5) (h : BitVec 2) (sc : BitVec 2)
  /-- LDT (R261) -/
  | ldt (d : BitVec 5) (a : BitVec 5) (b : BitVec 5) (n : BitVec 1) (sc : BitVec 2)
  /-- STT (R262) -/
  | stt (d : BitVec 5) (a : BitVec 5) (b : BitVec 5) (sc : BitVec 2)
  /-- PROMOTE (R47) -/
  | promote (d : BitVec 5) (a : BitVec 5) (p : BitVec 1)
  /-- DEMOTE (R49) -/
  | demote (d : BitVec 5) (a : BitVec 5)
  /-- PREF (R264) -/
  | pref (a : BitVec 5)
  /-- LEAP (R265) -/
  | leap (d : BitVec 5) (a : BitVec 5)
  /-- FENCE (R121) -/
  | fence (sc : BitVec 3)
  /-- ACQ (R120) -/
  | acq (sc : BitVec 3)
  /-- REL (R119) -/
  | rel (sc : BitVec 3)
  /-- AMOADD (R268) -/
  | amoadd (d : BitVec 5) (a : BitVec 5) (b : BitVec 5) (r : BitVec 1) (q : BitVec 1) (sc : BitVec 1)
  /-- AMOAND (R268) -/
  | amoand (d : BitVec 5) (a : BitVec 5) (b : BitVec 5) (r : BitVec 1) (q : BitVec 1) (sc : BitVec 1)
  /-- AMOOR (R268) -/
  | amoor (d : BitVec 5) (a : BitVec 5) (b : BitVec 5) (r : BitVec 1) (q : BitVec 1) (sc : BitVec 1)
  /-- AMOXOR (R268) -/
  | amoxor (d : BitVec 5) (a : BitVec 5) (b : BitVec 5) (r : BitVec 1) (q : BitVec 1) (sc : BitVec 1)
  /-- AMOMIN (R268) -/
  | amomin (d : BitVec 5) (a : BitVec 5) (b : BitVec 5) (r : BitVec 1) (q : BitVec 1) (sc : BitVec 1)
  /-- AMOMAX (R268) -/
  | amomax (d : BitVec 5) (a : BitVec 5) (b : BitVec 5) (r : BitVec 1) (q : BitVec 1) (sc : BitVec 1)
  /-- AMOMINN (R268) -/
  | amominn (d : BitVec 5) (a : BitVec 5) (b : BitVec 5) (r : BitVec 1) (q : BitVec 1) (sc : BitVec 1)
  /-- AMOMAXN (R268) -/
  | amomaxn (d : BitVec 5) (a : BitVec 5) (b : BitVec 5) (r : BitVec 1) (q : BitVec 1) (sc : BitVec 1)
  /-- AMOSWAP (R268) -/
  | amoswap (d : BitVec 5) (a : BitVec 5) (b : BitVec 5) (r : BitVec 1) (q : BitVec 1) (sc : BitVec 1)
  /-- AMOCAS (R269) -/
  | amocas (d : BitVec 5) (a : BitVec 5) (b : BitVec 5) (r : BitVec 1) (q : BitVec 1) (sc : BitVec 1)
  /-- AMOFADD (R270) -/
  | amofadd (d : BitVec 5) (a : BitVec 5) (b : BitVec 5) (r : BitVec 1) (q : BitVec 1) (sc : BitVec 1)
  /-- AMOFMAX (R270) -/
  | amofmax (d : BitVec 5) (a : BitVec 5) (b : BitVec 5) (r : BitVec 1) (q : BitVec 1) (sc : BitVec 1)
  /-- ARRIVE (R274) -/
  | arrive (d : BitVec 5) (a : BitVec 5)
  /-- WAITB (R275) -/
  | waitb (a : BitVec 5) (b : BitVec 5)
  /-- BAR (R276) -/
  | bar (a : BitVec 5)
  /-- BINIT (R273) -/
  | binit (a : BitVec 5) (b : BitVec 5)
  /-- TSLEEP (R277) -/
  | tsleep (a : BitVec 5)
  /-- WPSET (R279) -/
  | wpset (d : BitVec 5) (a : BitVec 5)
  /-- WPCLR (R281) -/
  | wpclr (a : BitVec 5)
  /-- SPAWN (R228) -/
  | spawn (d : BitVec 5) (a : BitVec 5) (b : BitVec 5)
  /-- SPAWNQ (R229) -/
  | spawnq (a : BitVec 5) (b : BitVec 5) (c : BitVec 5)
  /-- FORK (R229) -/
  | fork (a : BitVec 5) (c : BitVec 5)
  /-- QUIT (R231) -/
  | quit
  /-- MSG (R230) -/
  | msg (a : BitVec 5) (b : BitVec 5)
  /-- FILL (R234) -/
  | fill (d : BitVec 5) (a : BitVec 5) (b : BitVec 5)
  /-- EMPTY (R236) -/
  | empty (d : BitVec 5) (k : BitVec 2)
  /-- TAKE (R237) -/
  | take (d : BitVec 5) (a : BitVec 5) (k : BitVec 2)
  /-- RSTATE (R238) -/
  | rstate (d : BitVec 5) (a : BitVec 5) (k : BitVec 2)
  /-- AWAIT (R239) -/
  | await (d : BitVec 5) (a : BitVec 5)
  /-- FTEST (R240) -/
  | ftest (d : BitVec 5) (a : BitVec 5)
  /-- FCANCEL (R241) -/
  | fcancel (a : BitVec 5)
  /-- FWD (R242) -/
  | fwd (d : BitVec 5) (a : BitVec 5) (b : BitVec 5)
  /-- PIPE (R243) -/
  | pipe (d : BitVec 5) (a : BitVec 5)
  /-- JNEW (R385) -/
  | jnew (d : BitVec 5) (a : BitVec 5) (b : BitVec 5) (c : BitVec 5)
  /-- JREG (R386) -/
  | jreg (d : BitVec 5) (a : BitVec 5) (b : BitVec 5) (c : BitVec 5)
  /-- JVAL (R387) -/
  | jval (d : BitVec 5) (a : BitVec 5) (b : BitVec 5) (imm : BitVec 2)
  /-- JDROP (R392) -/
  | jdrop (d : BitVec 5) (a : BitVec 5) (imm : BitVec 2)
  /-- WCHK (R392) -/
  | wchk (d : BitVec 5) (a : BitVec 5) (imm : BitVec 2)
  /-- JFREE (R392) -/
  | jfree (d : BitVec 5) (a : BitVec 5)
  /-- FADD (R302) -/
  | fadd (d : BitVec 5) (a : BitVec 5) (b : BitVec 5) (f : BitVec 2)
  /-- FSUB (R302) -/
  | fsub (d : BitVec 5) (a : BitVec 5) (b : BitVec 5) (f : BitVec 2)
  /-- FMUL (R302) -/
  | fmul (d : BitVec 5) (a : BitVec 5) (b : BitVec 5) (f : BitVec 2)
  /-- FDIV (R302) -/
  | fdiv (d : BitVec 5) (a : BitVec 5) (b : BitVec 5) (f : BitVec 2)
  /-- FMA (R302) -/
  | fma (d : BitVec 5) (a : BitVec 5) (b : BitVec 5) (c : BitVec 5) (f : BitVec 2)
  /-- FNMA (R302) -/
  | fnma (d : BitVec 5) (a : BitVec 5) (b : BitVec 5) (c : BitVec 5) (f : BitVec 2)
  /-- FSQRT (R302) -/
  | fsqrt (d : BitVec 5) (a : BitVec 5) (f : BitVec 2)
  /-- FMIN (R303) -/
  | fmin (d : BitVec 5) (a : BitVec 5) (b : BitVec 5) (f : BitVec 2)
  /-- FMAX (R303) -/
  | fmax (d : BitVec 5) (a : BitVec 5) (b : BitVec 5) (f : BitVec 2)
  /-- FEQ (R303) -/
  | feq (d : BitVec 5) (a : BitVec 5) (b : BitVec 5) (f : BitVec 2)
  /-- FLT (R303) -/
  | flt (d : BitVec 5) (a : BitVec 5) (b : BitVec 5) (f : BitVec 2)
  /-- FLE (R303) -/
  | fle (d : BitVec 5) (a : BitVec 5) (b : BitVec 5) (f : BitVec 2)
  /-- FSGN (R302) -/
  | fsgn (d : BitVec 5) (a : BitVec 5) (b : BitVec 5) (m : BitVec 2) (f : BitVec 2)
  /-- FCLASS (R303) -/
  | fclass (d : BitVec 5) (a : BitVec 5) (f : BitVec 2)
  /-- FEXP2 (R296) -/
  | fexp2 (d : BitVec 5) (a : BitVec 5) (f : BitVec 2)
  /-- FLOG2 (R296) -/
  | flog2 (d : BitVec 5) (a : BitVec 5) (f : BitVec 2)
  /-- FCVT (R305) -/
  | fcvt (d : BitVec 5) (a : BitVec 5) (b : BitVec 5) (c : BitVec 5)
  /-- FCVTI (R306) -/
  | fcvti (d : BitVec 5) (a : BitVec 5) (b : BitVec 5) (c : BitVec 5)
  /-- ICVTF (R307) -/
  | icvtf (d : BitVec 5) (a : BitVec 5) (b : BitVec 5) (c : BitVec 5)
  /-- FMVGF (R308) -/
  | fmvgf (d : BitVec 5) (a : BitVec 5)
  /-- FMVFG (R308) -/
  | fmvfg (d : BitVec 5) (a : BitVec 5)
  /-- FRCP (R308) -/
  | frcp (d : BitVec 5) (a : BitVec 5) (f : BitVec 2)
  /-- FRSQRT (R308) -/
  | frsqrt (d : BitVec 5) (a : BitVec 5) (f : BitVec 2)
  /-- SCFG (R245) -/
  | scfg (a : BitVec 5) (n : BitVec 3)
  /-- SBIND (R246) -/
  | sbind (r : BitVec 2) (k : BitVec 1) (n : BitVec 3)
  /-- SUNBIND (R249) -/
  | sunbind (r : BitVec 2) (k : BitVec 1)
  /-- SSTAT (R250) -/
  | sstat (d : BitVec 5) (n : BitVec 3)
  /-- VADD (R311) -/
  | vadd (d : BitVec 4) (a : BitVec 4) (b : BitVec 4)
  /-- VSUB (R311) -/
  | vsub (d : BitVec 4) (a : BitVec 4) (b : BitVec 4)
  /-- VMUL (R311) -/
  | vmul (d : BitVec 4) (a : BitVec 4) (b : BitVec 4)
  /-- VFMA (R311) -/
  | vfma (d : BitVec 4) (a : BitVec 4) (b : BitVec 4) (c : BitVec 4)
  /-- VMIN (R311) -/
  | vmin (d : BitVec 4) (a : BitVec 4) (b : BitVec 4)
  /-- VMAX (R311) -/
  | vmax (d : BitVec 4) (a : BitVec 4) (b : BitVec 4)
  /-- VABS (R311) -/
  | vabs (d : BitVec 4) (a : BitVec 4)
  /-- VNEG (R311) -/
  | vneg (d : BitVec 4) (a : BitVec 4)
  /-- VCEQ (R311) -/
  | vceq (d : BitVec 4) (a : BitVec 4) (b : BitVec 4)
  /-- VCLT (R311) -/
  | vclt (d : BitVec 4) (a : BitVec 4) (b : BitVec 4)
  /-- VCLE (R311) -/
  | vcle (d : BitVec 4) (a : BitVec 4) (b : BitVec 4)
  /-- VSEL (R311) -/
  | vsel (d : BitVec 4) (a : BitVec 4) (b : BitVec 4) (c : BitVec 4)
  /-- VAND (R311) -/
  | vand (d : BitVec 4) (a : BitVec 4) (b : BitVec 4)
  /-- VOR (R311) -/
  | vor (d : BitVec 4) (a : BitVec 4) (b : BitVec 4)
  /-- VXOR (R311) -/
  | vxor (d : BitVec 4) (a : BitVec 4) (b : BitVec 4)
  /-- VSHL (R311) -/
  | vshl (d : BitVec 4) (a : BitVec 4) (b : BitVec 4)
  /-- VSHR (R311) -/
  | vshr (d : BitVec 4) (a : BitVec 4) (b : BitVec 4)
  /-- VSRA (R311) -/
  | vsra (d : BitVec 4) (a : BitVec 4) (b : BitVec 4)
  /-- VDIV (R311) -/
  | vdiv (d : BitVec 4) (a : BitVec 4) (b : BitVec 4)
  /-- VSQRT (R311) -/
  | vsqrt (d : BitVec 4) (a : BitVec 4)
  /-- VEXP2 (R311) -/
  | vexp2 (d : BitVec 4) (a : BitVec 4)
  /-- VLOG2 (R311) -/
  | vlog2 (d : BitVec 4) (a : BitVec 4)
  /-- VRCP (R311) -/
  | vrcp (d : BitVec 4) (a : BitVec 4)
  /-- VRSQRT (R311) -/
  | vrsqrt (d : BitVec 4) (a : BitVec 4)
  /-- VSCALE (R311) -/
  | vscale (d : BitVec 4) (a : BitVec 4) (b : BitVec 4)
  /-- VBCAST (R313) -/
  | vbcast (d : BitVec 4) (a : BitVec 5)
  /-- VEXTR (R313) -/
  | vextr (d : BitVec 5) (a : BitVec 4) (b : BitVec 5)
  /-- VINSR (R313) -/
  | vinsr (d : BitVec 4) (a : BitVec 5) (b : BitVec 5)
  /-- VPERM (R313) -/
  | vperm (d : BitVec 4) (a : BitVec 4) (b : BitVec 4)
  /-- VSLIDE (R313) -/
  | vslide (d : BitVec 4) (a : BitVec 4) (b : BitVec 4) (c : BitVec 5)
  /-- VZIP (R313) -/
  | vzip (d : BitVec 4) (a : BitVec 4) (b : BitVec 4) (h : BitVec 1)
  /-- VUNZIP (R313) -/
  | vunzip (d : BitVec 4) (a : BitVec 4) (b : BitVec 4) (h : BitVec 1)
  /-- VREDSUM (R315) -/
  | vredsum (d : BitVec 5) (a : BitVec 4)
  /-- VREDMAX (R315) -/
  | vredmax (d : BitVec 5) (a : BitVec 4)
  /-- VREDMIN (R315) -/
  | vredmin (d : BitVec 5) (a : BitVec 4)
  /-- VMERGEK (R316) -/
  | vmergek (d : BitVec 4) (a : BitVec 4) (b : BitVec 4)
  /-- VCVT (R314) -/
  | vcvt (d : BitVec 4) (a : BitVec 4) (p : BitVec 4)
  /-- VMOV (R313) -/
  | vmov (d : BitVec 4) (a : BitVec 4)
  /-- VDOT (R318) -/
  | vdot (d : BitVec 4) (a : BitVec 4) (b : BitVec 4) (c : BitVec 5) (p : BitVec 6)
  /-- MMA (R335) -/
  | mma (d : BitVec 5) (a : BitVec 5) (p : BitVec 4)
  /-- MMV (R338) -/
  | mmv (d : BitVec 5) (a : BitVec 5) (b : BitVec 5)
  /-- MCLR (R339) -/
  | mclr (d : BitVec 5) (a : BitVec 5)
  /-- MLD (R339) -/
  | mld (d : BitVec 5) (a : BitVec 5) (b : BitVec 5)
  /-- MST (R339) -/
  | mst (d : BitVec 5) (a : BitVec 5) (b : BitVec 5)
  /-- COPY (R341) -/
  | copy (d : BitVec 5) (a : BitVec 5) (b : BitVec 5)
  /-- FILLT (R343) -/
  | fillt (d : BitVec 5) (a : BitVec 5) (b : BitVec 5)
  /-- GATHER (R344) -/
  | gather (d : BitVec 5) (a : BitVec 5) (b : BitVec 5)
  /-- SCATTER (R344) -/
  | scatter (d : BitVec 5) (a : BitVec 5) (b : BitVec 5)
  /-- TOPK (R348) -/
  | topk (d : BitVec 5) (a : BitVec 5) (b : BitVec 5)
  /-- MERGEL (R349) -/
  | mergel (d : BitVec 5) (a : BitVec 5) (b : BitVec 5)
  /-- ALLRED (R351) -/
  | allred (d : BitVec 5) (a : BitVec 5) (b : BitVec 5)
  /-- BCAST (R352) -/
  | bcast (d : BitVec 5) (a : BitVec 5) (b : BitVec 5)
  /-- TJINS (R368) -/
  | tjins (d : BitVec 5)
  /-- TJAPP (R369) -/
  | tjapp (d : BitVec 5) (a : BitVec 5) (b : BitVec 5)
  /-- TJCLS (R370) -/
  | tjcls (d : BitVec 5) (a : BitVec 5) (b : BitVec 5)
  /-- TJSMP (R371) -/
  | tjsmp (d : BitVec 5) (a : BitVec 5) (b : BitVec 5)
  /-- TJGET (R374) -/
  | tjget (d : BitVec 5) (a : BitVec 5) (b : BitVec 5)
  /-- TJPRI (R375) -/
  | tjpri (d : BitVec 5) (a : BitVec 5) (b : BitVec 5)
  /-- TJEVI (R376) -/
  | tjevi (d : BitVec 5) (a : BitVec 5)
  /-- TJVER (R377) -/
  | tjver (d : BitVec 5) (a : BitVec 5) (b : BitVec 5)
  /-- TJSTAT (R378) -/
  | tjstat (d : BitVec 5) (b : BitVec 5)
  /-- ESET (R187) -/
  | eset (a : BitVec 5) (er : BitVec 10)
  /-- EGET (R187) -/
  | eget (d : BitVec 5) (er : BitVec 10)
  /-- TSET (R320) -/
  | tset (a : BitVec 5) (t : BitVec 6)
  /-- TSTATE (R320) -/
  | tstate (d : BitVec 5) (t : BitVec 6)
  /-- TWAIT (R320) -/
  | twait (a : BitVec 5) (t : BitVec 6)
  /-- TRING (R321) -/
  | tring (a : BitVec 5) (r : BitVec 4)
  /-- RINGHD (R322) -/
  | ringhd (d : BitVec 5) (a : BitVec 5) (r : BitVec 4)
  /-- RINGTL (R322) -/
  | ringtl (d : BitVec 5) (a : BitVec 5) (r : BitVec 4)
  /-- VLDT (R323) -/
  | vldt (d : BitVec 4) (a : BitVec 5) (t : BitVec 6)
  /-- VSTT (R323) -/
  | vstt (d : BitVec 4) (a : BitVec 5) (t : BitVec 6)
  /-- TMARK (R324) -/
  | tmark (a : BitVec 5) (t : BitVec 6)
  /-- DEADLINE (R150), a step of the device -/
  | deadline
  /-- WITHDRAWN (R390), a step of the device -/
  | withdrawn
  /-- TABLE_WALK (R23), a step of the device -/
  | tableWalk (die : Nat)
  /-- FAULT_POST_DEFERRED (R32), a step of the device -/
  | faultPostDeferred (die : Nat)
  /-- FQTAIL (R33), a step of the device -/
  | fqTail (die : Nat) (v : Word)
  /-- FQREPLAY_REPLAY (R34), a step of the device -/
  | fqReplayReplay (die : Nat) (e : BitVec 10)
  /-- FQREPLAY_FAIL (R34), a step of the device -/
  | fqReplayFail (die : Nat) (e : BitVec 10)
  /-- FQREPLAY_DENY (R34), a step of the device -/
  | fqReplayDeny (die : Nat) (e : BitVec 10)
  /-- FQREPLAY_GONE (R34), a step of the device -/
  | fqReplayGone (die : Nat) (e : BitVec 10)
  /-- CXL_RELEASE (R37), a step of the device -/
  | cxlRelease (base : Nat) (size : Nat)
  /-- CXL_RELEASE_ACK (R37), a step of the device -/
  | cxlReleaseAck (base : Nat) (size : Nat)
  /-- CXL_FORCED_RELEASE (R38), a step of the device -/
  | cxlForcedRelease (base : Nat) (size : Nat)
  /-- DRAM_ACCESS (R56), a step of the device -/
  | dramAccess (pa : Nat) (wr : Bool) (lc : BitVec 2)
  /-- AUTO_PROMOTION (R53), a step of the device -/
  | autoPromotion (ch : Nat) (bank : Nat)
  /-- REFRESH (R62), a step of the device -/
  | refresh (ch : Nat) (bank : Nat)
  /-- BUS_CODE_WINDOW_END (R60), a step of the device -/
  | busCodeWindowEnd (ch : Nat)
  /-- PATROL_SCRUB (R63), a step of the device -/
  | patrolScrub (ch : Nat) (row : Nat) (fixed : Nat) (bad : List Nat)
  /-- CHCODE_PIN (R61), a step of the device -/
  | chcodePin (ch : Nat) (code : BitVec 2)
  /-- CHCODE_UNPIN (R61), a step of the device -/
  | chcodeUnpin (ch : Nat)
  /-- REMOTE_WORD_ACCESS (R81), a step of the device -/
  | remoteWordAccess (core : Nat) (slot : Nat)
  /-- LEAP_ARRIVAL (R90), a step of the device -/
  | leapArrival (core : Nat) (slot : Nat)
  /-- RDC_WRITEBACK (R95), a step of the device -/
  | rdcWriteback (die : Nat) (line : Nat) (evict : Bool)
  /-- STORE_DRAIN (R113), a step of the device -/
  | storeDrain (core : Nat) (slot : Nat)
  /-- POSTED_ACCEPT (R118), a step of the device -/
  | postedAccept (idx : Nat)
  /-- FAR_STORE_ACK (R114), a step of the device -/
  | farStoreAck (idx : Nat)
  /-- PROBE_ECHO (R119), a step of the device -/
  | probeEcho (core : Nat) (slot : Nat) (grp : Nat)
  /-- TIMED_STORE_ARRIVAL (R146), a step of the device -/
  | timedStoreArrival (core : Nat) (slot : Nat)
  /-- CALENDAR_APPLY (R147), a step of the device -/
  | calendarApply (core : Nat)
  /-- TIMED_LOAD_ARRIVAL (R148), a step of the device -/
  | timedLoadArrival (core : Nat) (slot : Nat)
  /-- VERDICT_RETURN (R151), a step of the device -/
  | verdictReturn (core : Nat) (slot : Nat)
  /-- TSLEEP_WAKE (R152), a step of the device -/
  | tsleepWake (core : Nat) (slot : Nat)
  /-- TIME_EXCHANGE (R141), a step of the device -/
  | timeExchange (die : Nat) (off : Int) (ok : Bool)
  /-- DOMAIN_JOIN (R143), a step of the device -/
  | domainJoin (gmt : Nat)
  /-- LAUNCH_START (R159), a step of the device -/
  | launchStart (key : Nat)
  /-- LAUNCH_END (R163), a step of the device -/
  | launchEnd (key : Nat)
  /-- DISPATCH_POP (R164), a step of the device -/
  | dispatchPop (core : Nat)
  /-- REMOTE_PUSH (R165), a step of the device -/
  | remotePush (idx : Nat)
  /-- STEAL_REQUEST (R166), a step of the device -/
  | stealRequest (core : Nat)
  /-- STEAL_REPLY (R166), a step of the device -/
  | stealReply (core : Nat)
  /-- STEAL_RETRY (R166), a step of the device -/
  | stealRetry (core : Nat)
  /-- MESSAGE_START (R167), a step of the device -/
  | messageStart (core : Nat)
  /-- FILL_DELIVERY (R235), a step of the device -/
  | fillDelivery (core : Nat) (idx : Nat)
  /-- COMPLETION_DELIVERY (R225), a step of the device -/
  | completionDelivery (idx : Nat)
  /-- STREAM_ELEMENT_LOAD (R247), a step of the device -/
  | streamElementLoad (core : Nat) (slot : Nat) (str : Nat)
  /-- WITHDRAWAL_NOTICE (R390), a step of the device -/
  | withdrawalNotice (idx : Nat)
  /-- JOIN_REREGISTRATION (R391), a step of the device -/
  | joinReregistration (core : Nat) (slot : Nat)
  /-- ENGINE_OP_BEGIN (R329), a step of the device -/
  | engineOpBegin (core : Nat) (eng : Nat)
  /-- MMA_STEP (R335), a step of the device -/
  | mmaStep (core : Nat)
  /-- ENGINE_OP_COMPLETE (R132), a step of the device -/
  | engineOpComplete (core : Nat) (tag : BitVec 12)
  /-- COLLECTIVE_COMBINE (R353), a step of the device -/
  | collectiveCombine (tag : BitVec 32) (far : List FarPart)
  /-- PREEMPT (R400), a step of the device -/
  | preempt (key : Nat)
  /-- SAVE_COMPLETE (R401), a step of the device -/
  | saveComplete (core : Nat)
  /-- RESUME (R405), a step of the device -/
  | resume (key : Nat)
  /-- POND_DESTROY (R356), a step of the device -/
  | pondDestroy (die : Nat) (store : Nat)
  /-- LAUNCH (R412), a step of the device -/
  | launch (q : Nat)
  /-- SETLEVEL (R406), a step of the device -/
  | setlevel (q : Nat)
  /-- QFENCE (R411), a step of the device -/
  | qfence (q : Nat)
  /-- SIGNAL (R411), a step of the device -/
  | signal (q : Nat)
  /-- WAITVAL (R411), a step of the device -/
  | waitval (q : Nat)
  /-- WAITVAL_SATISFIED (R411), a step of the device -/
  | waitvalSatisfied (q : Nat)
  /-- PONDCFG (R413), a step of the device -/
  | pondcfg (q : Nat)
  /-- PONDCFG_DESTROY (R413), a step of the device -/
  | pondcfgDestroy (q : Nat)
  /-- RESYNC (R414), a step of the device -/
  | resync (q : Nat)
  /-- QTAIL (R410), a step of the device -/
  | qtail (q : Nat) (v : Word)
  /-- TCAP (R418), a step of the device -/
  | tcap (die : Nat) (v : Word)
  /-- REGISTER_WRITE (R17), a step of the device -/
  | registerWrite (pa : Nat) (v : Word)
  /-- HOST_ACCESS (R136), a step of the device -/
  | hostAccess (wr : Bool) (pa : Nat) (data : List Byte)
  /-- THROTTLE_STEP_CHANGE (R140), a step of the device -/
  | throttleStepChange (die : Nat) (stp : BitVec 2)
  /-- DOMAIN_BRINGUP (R415), a step of the device -/
  | domainBringup (dev : BitVec 11) (reach : List Nat) (gm : Bool)
  /-- LINK_FAILURE (R415), a step of the device -/
  | linkFailure (lost : Nat × List Nat)
  /-- SECURITY_ALARM (R417), a step of the device -/
  | securityAlarm
  /-- ATTESTATION_REQUEST (R417), a step of the device -/
  | attestationRequest (nonce : List Byte)
  /-- COLD_RESET (R416), a step of the device -/
  | coldReset
  /-- WARM_RESET (R416), a step of the device -/
  | warmReset
  /-- ILLOP (R176), a step of the device -/
  | illop (w : BitVec 32)
  /-- QCFG (R409), a step of the device -/
  | qcfg (q : Nat) (v : Word)
  /-- SPAWN_REQUEST (R228), a step of the device -/
  | spawnRequest (idx : Nat)
  /-- JOIN_EVENT (R382), a step of the device -/
  | joinEvent (idx : Nat)
  /-- REROUTE_COMPLETE (R415), a step of the device -/
  | rerouteComplete
  /-- DARNING_MAP_ENTRY (R65), a step of the device -/
  | darningMapEntry (stk : Nat) (ent : Nat)
  deriving DecidableEq, Repr, Inhabited

end Sys2Proof
end

