-- ==== Sys2Proof/Config.lean ====
section
/-! DEFINITION. What the device's agents may choose (a turn), and the values the spec leaves open, as constants without a body. -/

namespace Sys2Proof

/-- A loss of cached contents, which the spec allows at any time and in no fixed order (R26, R83, R91, R95, R98), or an uncorrectable
error (R66, R101). -/
inductive Evict where
  | coreTlb (core n : Nat)     -- entry n of a core's TLB
  | dieTlb (die n : Nat)       -- entry n of a die's TLB
  | fetch (core sector : Nat)  -- one sector of a fetch buffer
  | upsetFetch (core sector : Nat)   -- one sector of a fetch buffer, by an uncorrectable error
  | rdc (die line : Nat)       -- one line of a remote-data cache, dirty bytes written back
  | rdcClean (die sector : Nat)-- the clean bytes of one sector of a remote-data cache, by an uncorrectable error
  | homeClean (sector : Nat)   -- the clean bytes of one sector of a home cache, by an uncorrectable error
  | home (line : Nat)          -- a line of a home cache, its masked bytes to the memory-side cache
  | msc (line : Nat)           -- a line of a memory-side cache, its dirty sectors to DRAM or the CXL device
  | upset (sector : Nat)       -- a sector of DRAM becomes uncorrectable
  | upsetHome (word : Nat)     -- an 8-byte word of scratchpad, or the dirty bytes of one of a home cache
  | upsetRdc (die word : Nat)  -- the dirty bytes of an 8-byte word of a remote-data cache
  deriving DecidableEq, Repr, Inhabited

/-- Which agent moves next: the ordering machine (R104) and the barrel (R157) take one step at a time. -/
inductive Turn where
  | cycle (core : Nat)                    -- a cycle of a core's arithmetic clock
  | pass (dt : Nat) (slew : List Int)     -- time passes; one slew for each die (R138)
  | event (i : Instr)                     -- a step of the device
  | evict (e : Evict)
  deriving DecidableEq, Repr, Inhabited

/-- DESIGN CHOICE (log 3): the turn taken when none is on the agenda. Nothing is known of it. -/
opaque Config.freeTurn : Nat → Turn

/-- The set of a line, by line number, in a home cache (R83), a remote-data cache (R91) and a memory-side cache (R64): not architected. -/
opaque Config.homeSet : Nat → Nat
opaque Config.rdcSet : Nat → Nat
opaque Config.mscSet : Nat → Nat

/-- The time unit of a die of another device, in ten-thousandths of a nanosecond, when a timed access first meets it, and whether it is LOCKED
then (log 2). -/
opaque Config.farClock : Nat → Nat
opaque Config.farLocked : Nat → Bool

/-- A number the spec leaves open, for the n-th time one is needed (log 4). -/
opaque Config.freeNat : Nat → Nat

/-- The number of corrected errors, energy in microjoules and the like that one step adds (log 4). -/
opaque Config.freeCount : Nat → Nat

end Sys2Proof
end

