-- ==== Sys2Proof/WellFormed.lean ====
section
/-! DEFINITION. The checks on operand values that make a word an instruction (R175 to R177, R181 to R188 and the forms' own
entries): `Instr.check` names the first that fails, `Instr.WellFormed` says that none does. -/

namespace Sys2Proof

/-- Why a word is no instruction (R176), one name for each ground. -/
inductive DecodeError where
  | unlistedMajor       -- major 0x00 or 0x34 to 0x3F
  | unlistedFunction    -- fn or SEL not in the map of its major
  | unlistedCommand     -- eng or cmd not in R185
  | mustBeZero          -- a must-be-zero field is not zero
  | vectorRegister      -- bit 4 of a v (or k) register field is set
  | placementHint       -- hint 11
  | scopeCode           -- scope 6 or 7
  | formatCode          -- a format code with no format, or outside the form's column
  | formatPair          -- a pair outside R184
  | specialRegister     -- number not in R186
  | readOnlyRegister    -- MTS to a read-only register
  | engineRegister      -- number not defined for its engine
  | bitRange            -- POS + AMT + 1 > 64
  | registerClass       -- class code 11
  | sameRegister        -- TAKE with d = a
  | registerGroup       -- a group past v15, or a partial overlap
  | signMode            -- FSGN m = 3
  | tlbKind             -- TLBINV KIND 4 to 7
  deriving DecidableEq, Repr

/-- Format codes of floating values (R304): 1 to 7 and 18. -/
def isFloatCode (c : BitVec 5) : Bool := (1 ≤ c.toNat && c.toNat ≤ 7) || c.toNat == 18

/-- Format codes of integer and fixed-point values (R304): 8 to 17 and 19. -/
def isIntCode (c : BitVec 5) : Bool := (8 ≤ c.toNat && c.toNat ≤ 17) || c.toNat == 19

/-- The special-register numbers of R186. -/
def isSpecial (n : BitVec 10) : Bool := n.toNat ≤ 0x16 || (0x20 ≤ n.toNat && n.toNat ≤ 0x27)

/-- The read-only special registers of R186: s.tbm, s.sid, s.atime, s.rasd, s.launch, s.dl. -/
def isReadOnlySpecial (n : BitVec 10) : Bool :=
  n == 0x005 || n == 0x006 || n == 0x009 || n == 0x00F || n == 0x012 || n == 0x013

/-- The engine registers of R187: e0.0 to e0.5, e1.0 to e1.26, e2.0 to e2.2, e3.0 to e3.3, e4.0 to e4.3. -/
def isEngineReg (n : BitVec 10) : Bool :=
  match (n >>> 7).toNat, (n &&& 0x7F#10).toNat with
  | 0, i => i < 6
  | 1, i => i < 27
  | 2, i => i < 3
  | 3, i => i < 4
  | 4, i => i < 4
  | _, _ => false

/-- The format pairs of R184 that VDOT takes. -/
def isDotPair (p : Nat) : Bool := p < 4 || (5 ≤ p && p ≤ 9)

/-- The format pairs of R184 that MMA takes. -/
def isMmaPair (p : Nat) : Bool := p < 4 || (5 ≤ p && p ≤ 11)

/-- `b` holds, or the named ground refuses. -/
def need (b : Bool) (e : DecodeError) : Option DecodeError := if b then none else some e

/-- A class field and a register of that class (R236). -/
def checkClass (k : BitVec 2) (r : BitVec 5) : Option DecodeError :=
  if k == 3 then some .registerClass else need (!(k == 2 && r.getLsbD 4)) .vectorRegister

/-- The hint and size fields of LDX and STX (R181). -/
def checkHint (h : BitVec 2) : Option DecodeError := need (h != 3) .placementHint

/-- VMERGEK's register groups of two (R177, R316): d with a, or d with b, may coincide exactly and not in part. -/
def checkMerge (d a b : BitVec 4) : Option DecodeError :=
  let part (x y : BitVec 4) : Bool := x.toNat + 1 == y.toNat || y.toNat + 1 == x.toNat
  need (!(d == 15 || a == 15 || b == 15 || part d a || part d b)) .registerGroup

/-- The first operand check of R176 that an instruction fails, if any. -/
def Instr.check : Instr → Option DecodeError
  | .mfs _ n => need (isSpecial n) .specialRegister
  | .mts _ n => if isSpecial n then need (!isReadOnlySpecial n) .readOnlyRegister else some .specialRegister
  | .tlbinv _ _ _ k => need (k.toNat < 4) .tlbKind
  | .ext _ _ p l => need (p.toNat + l.toNat + 1 ≤ 64) .bitRange
  | .ins _ _ p l => need (p.toNat + l.toNat + 1 ≤ 64) .bitRange
  | .ldx _ _ _ h n sc => if h == 3 then some .placementHint else need (!(n == 1 && sc == 3)) .mustBeZero
  | .stx _ _ _ h _ => checkHint h
  | .ldt _ _ _ n sc => need (!(n == 1 && sc == 3)) .mustBeZero
  | .fence sc => need (sc.toNat < 6) .scopeCode
  | .acq sc => need (sc.toNat < 6) .scopeCode
  | .rel sc => need (sc.toNat < 6) .scopeCode
  | .empty d k => checkClass k d
  | .take d a k =>
    match checkClass k d with
    | some e => some e
    | none => match checkClass k a with
      | some e => some e
      | none => need (d != a) .sameRegister
  | .rstate _ a k => checkClass k a
  | .fsgn _ _ _ m _ => need (m != 3) .signMode
  | .fexp2 _ _ f => need (f != 0) .unlistedFunction
  | .flog2 _ _ f => need (f != 0) .unlistedFunction
  | .fcvt _ _ b c => need (isFloatCode b && isFloatCode c) .formatCode
  | .fcvti _ _ b c => need (isIntCode b && isFloatCode c) .formatCode
  | .icvtf _ _ b c => need (isFloatCode b && isIntCode c) .formatCode
  | .vmergek d a b => checkMerge d a b
  | .vdot _ _ _ _ p => need (isDotPair p.toNat) .formatPair
  | .mma _ _ p => need (isMmaPair p.toNat) .formatPair
  | .eset _ n => need (isEngineReg n) .engineRegister
  | .eget _ n => need (isEngineReg n) .engineRegister
  | _ => none

/-- An instruction none of whose operand checks fails. -/
def Instr.WellFormed (i : Instr) : Prop := i.check = none

end Sys2Proof
end

