-- ==== Sys2Proof/Decode.lean ====
section
/-! DEFINITION. From a 32-bit word to an instruction or the name of the ground on which it is refused (R172 to R188), and back.
A register, immediate or code field is read here once; `decode` is total. -/

namespace Sys2Proof

/-- The `n` bits of a word from bit `lo` upward. -/
def fld (w : BitVec 32) (lo n : Nat) : BitVec n := w.extractLsb' lo n

/-- A form's word: its must-be-zero fields (lowest bit, width) and the bit 4 of its v register fields must be clear (R174, R176). -/
def form (w : BitVec 32) (zs : List (Nat × Nat)) (vs : List Nat) (i : Instr) : Except DecodeError Instr :=
  if zs.all (fun p => fld w p.1 p.2 == 0) then
    if vs.all (fun b => fld w b 1 == 0) then .ok i else .error .vectorRegister
  else .error .mustBeZero

/-- CCTL by its operation code (R99). -/
def decodeCctl (w : BitVec 32) : Except DecodeError Instr :=
  match (fld w 6 5).toNat with
  | 0 => form w [(11, 5), (21, 5)] [] (.cctlWb (fld w 16 5))
  | 1 => form w [(11, 5), (21, 5)] [] (.cctlInv (fld w 16 5))
  | 2 => form w [(11, 5), (21, 5)] [] (.cctlDrop (fld w 16 5))
  | 3 => form w [(11, 5), (16, 5), (21, 5)] [] (.cctlFlash)
  | 4 => form w [(11, 5), (16, 5), (21, 5)] [] (.cctlIinv)
  | _ => .error .unlistedFunction

/-- The Sys group by its selector (R180). -/
def decodeSys (w : BitVec 32) : Except DecodeError Instr :=
  match (fld w 0 6).toNat with
  | 0x00 => form w [(16, 5), (21, 5)] [] (.trap (fld w 6 10))
  | 0x01 => form w [(6, 5), (11, 5), (16, 5), (21, 5)] [] (.eret)
  | 0x02 => form w [(16, 5)] [] (.mfs (fld w 21 5) (fld w 6 10))
  | 0x03 => form w [(21, 5)] [] (.mts (fld w 16 5) (fld w 6 10))
  | 0x04 => form w [(6, 5), (11, 5)] [20] (.mfk (fld w 21 5) (fld w 16 4))
  | 0x05 => form w [(6, 5), (11, 5)] [25] (.mtk (fld w 21 4) (fld w 16 5))
  | 0x06 => decodeCctl w
  | 0x07 => form w [(10, 1), (21, 5)] [] (.tlbinv (fld w 16 5) (fld w 11 5) (fld w 9 1) (fld w 6 3))
  | 0x08 => form w [(16, 5), (21, 5)] [] (.brk (fld w 6 10))
  | 0x09 => form w [(6, 5), (11, 5)] [] (.waitev (fld w 21 5) (fld w 16 5))
  | _ => .error .unlistedFunction

/-- The Alu group by its selector (R180). -/
def decodeAlu (w : BitVec 32) : Except DecodeError Instr :=
  match (fld w 0 6).toNat with
  | 0x00 => form w [(6, 5)] [] (.add (fld w 21 5) (fld w 16 5) (fld w 11 5))
  | 0x01 => form w [(6, 5)] [] (.sub (fld w 21 5) (fld w 16 5) (fld w 11 5))
  | 0x02 => form w [(6, 5)] [] (.and (fld w 21 5) (fld w 16 5) (fld w 11 5))
  | 0x03 => form w [(6, 5)] [] (.or (fld w 21 5) (fld w 16 5) (fld w 11 5))
  | 0x04 => form w [(6, 5)] [] (.xor (fld w 21 5) (fld w 16 5) (fld w 11 5))
  | 0x05 => form w [(6, 5)] [] (.sll (fld w 21 5) (fld w 16 5) (fld w 11 5))
  | 0x06 => form w [(6, 5)] [] (.srl (fld w 21 5) (fld w 16 5) (fld w 11 5))
  | 0x07 => form w [(6, 5)] [] (.sra (fld w 21 5) (fld w 16 5) (fld w 11 5))
  | 0x08 => form w [(6, 5)] [] (.slt (fld w 21 5) (fld w 16 5) (fld w 11 5))
  | 0x09 => form w [(6, 5)] [] (.sltn (fld w 21 5) (fld w 16 5) (fld w 11 5))
  | 0x0A => form w [(6, 5)] [] (.min (fld w 21 5) (fld w 16 5) (fld w 11 5))
  | 0x0B => form w [(6, 5)] [] (.max (fld w 21 5) (fld w 16 5) (fld w 11 5))
  | 0x0C => form w [(6, 5)] [] (.minn (fld w 21 5) (fld w 16 5) (fld w 11 5))
  | 0x0D => form w [(6, 5)] [] (.maxn (fld w 21 5) (fld w 16 5) (fld w 11 5))
  | 0x0E => form w [(6, 5)] [] (.mul (fld w 21 5) (fld w 16 5) (fld w 11 5))
  | 0x0F => form w [(6, 5)] [] (.mulh (fld w 21 5) (fld w 16 5) (fld w 11 5))
  | 0x10 => form w [(6, 5)] [] (.mulhn (fld w 21 5) (fld w 16 5) (fld w 11 5))
  | 0x11 => form w [(6, 5)] [] (.div (fld w 21 5) (fld w 16 5) (fld w 11 5))
  | 0x12 => form w [(6, 5)] [] (.divn (fld w 21 5) (fld w 16 5) (fld w 11 5))
  | 0x13 => form w [(6, 5)] [] (.rem (fld w 21 5) (fld w 16 5) (fld w 11 5))
  | 0x14 => form w [(6, 5)] [] (.remn (fld w 21 5) (fld w 16 5) (fld w 11 5))
  | 0x15 => form w [(6, 5), (11, 5)] [] (.clz (fld w 21 5) (fld w 16 5))
  | 0x16 => form w [(6, 5), (11, 5)] [] (.ctz (fld w 21 5) (fld w 16 5))
  | 0x17 => form w [(6, 5), (11, 5)] [] (.popc (fld w 21 5) (fld w 16 5))
  | 0x18 => .ok (.sel (fld w 21 5) (fld w 16 5) (fld w 11 5) (fld w 6 5))
  | 0x19 => .ok (.addsh (fld w 21 5) (fld w 16 5) (fld w 11 5) (fld w 6 5))
  | _ => .error .unlistedFunction

/-- The ImmOps group by its selector (R180, R175). -/
def decodeImmOps (w : BitVec 32) : Except DecodeError Instr :=
  match (fld w 12 4).toNat with
  | 0x00 => form w [(6, 5), (11, 1)] [] (.slli (fld w 21 5) (fld w 16 5) (fld w 0 6))
  | 0x01 => form w [(6, 5), (11, 1)] [] (.srli (fld w 21 5) (fld w 16 5) (fld w 0 6))
  | 0x02 => form w [(6, 5), (11, 1)] [] (.srai (fld w 21 5) (fld w 16 5) (fld w 0 6))
  | 0x03 => .ok (.ext (fld w 21 5) (fld w 16 5) (fld w 6 6) (fld w 0 6))
  | 0x04 => .ok (.ins (fld w 21 5) (fld w 16 5) (fld w 6 6) (fld w 0 6))
  | _ => .error .unlistedFunction

/-- The Jreg group by its selector (R180). -/
def decodeJreg (w : BitVec 32) : Except DecodeError Instr :=
  match (fld w 0 6).toNat with
  | 0x00 => form w [(6, 5), (11, 5), (21, 5)] [] (.jr (fld w 16 5))
  | 0x01 => form w [(6, 5), (11, 5), (21, 5)] [] (.callr (fld w 16 5))
  | 0x02 => form w [(6, 5), (11, 5), (16, 5), (21, 5)] [] (.ret)
  | _ => .error .unlistedFunction

/-- The Memx group by its selector (R180). -/
def decodeMemx (w : BitVec 32) : Except DecodeError Instr :=
  match (fld w 0 6).toNat with
  | 0x00 => .ok (.ldx (fld w 21 5) (fld w 16 5) (fld w 11 5) (fld w 9 2) (fld w 8 1) (fld w 6 2))
  | 0x01 => form w [(8, 1)] [] (.stx (fld w 21 5) (fld w 16 5) (fld w 11 5) (fld w 9 2) (fld w 6 2))
  | 0x02 => form w [(9, 2)] [] (.ldt (fld w 21 5) (fld w 16 5) (fld w 11 5) (fld w 8 1) (fld w 6 2))
  | 0x03 => form w [(8, 3)] [] (.stt (fld w 21 5) (fld w 16 5) (fld w 11 5) (fld w 6 2))
  | 0x04 => form w [(7, 4), (11, 5)] [] (.promote (fld w 21 5) (fld w 16 5) (fld w 6 1))
  | 0x05 => form w [(6, 5), (11, 5)] [] (.demote (fld w 21 5) (fld w 16 5))
  | 0x06 => form w [(6, 5), (11, 5), (21, 5)] [] (.pref (fld w 16 5))
  | 0x07 => form w [(6, 5), (11, 5)] [] (.leap (fld w 21 5) (fld w 16 5))
  | 0x08 => form w [(9, 2), (11, 5), (16, 5), (21, 5)] [] (.fence (fld w 6 3))
  | 0x09 => form w [(9, 2), (11, 5), (16, 5), (21, 5)] [] (.acq (fld w 6 3))
  | 0x0A => form w [(9, 2), (11, 5), (16, 5), (21, 5)] [] (.rel (fld w 6 3))
  | _ => .error .unlistedFunction

/-- The Amo group by its selector (R180). -/
def decodeAmo (w : BitVec 32) : Except DecodeError Instr :=
  match (fld w 0 6).toNat with
  | 0x00 => form w [(9, 2)] [] (.amoadd (fld w 21 5) (fld w 16 5) (fld w 11 5) (fld w 8 1) (fld w 7 1) (fld w 6 1))
  | 0x01 => form w [(9, 2)] [] (.amoand (fld w 21 5) (fld w 16 5) (fld w 11 5) (fld w 8 1) (fld w 7 1) (fld w 6 1))
  | 0x02 => form w [(9, 2)] [] (.amoor (fld w 21 5) (fld w 16 5) (fld w 11 5) (fld w 8 1) (fld w 7 1) (fld w 6 1))
  | 0x03 => form w [(9, 2)] [] (.amoxor (fld w 21 5) (fld w 16 5) (fld w 11 5) (fld w 8 1) (fld w 7 1) (fld w 6 1))
  | 0x04 => form w [(9, 2)] [] (.amomin (fld w 21 5) (fld w 16 5) (fld w 11 5) (fld w 8 1) (fld w 7 1) (fld w 6 1))
  | 0x05 => form w [(9, 2)] [] (.amomax (fld w 21 5) (fld w 16 5) (fld w 11 5) (fld w 8 1) (fld w 7 1) (fld w 6 1))
  | 0x06 => form w [(9, 2)] [] (.amominn (fld w 21 5) (fld w 16 5) (fld w 11 5) (fld w 8 1) (fld w 7 1) (fld w 6 1))
  | 0x07 => form w [(9, 2)] [] (.amomaxn (fld w 21 5) (fld w 16 5) (fld w 11 5) (fld w 8 1) (fld w 7 1) (fld w 6 1))
  | 0x08 => form w [(9, 2)] [] (.amoswap (fld w 21 5) (fld w 16 5) (fld w 11 5) (fld w 8 1) (fld w 7 1) (fld w 6 1))
  | 0x09 => form w [(9, 2)] [] (.amocas (fld w 21 5) (fld w 16 5) (fld w 11 5) (fld w 8 1) (fld w 7 1) (fld w 6 1))
  | 0x0A => form w [(9, 2)] [] (.amofadd (fld w 21 5) (fld w 16 5) (fld w 11 5) (fld w 8 1) (fld w 7 1) (fld w 6 1))
  | 0x0B => form w [(9, 2)] [] (.amofmax (fld w 21 5) (fld w 16 5) (fld w 11 5) (fld w 8 1) (fld w 7 1) (fld w 6 1))
  | _ => .error .unlistedFunction

/-- The Sync group by its selector (R180). -/
def decodeSync (w : BitVec 32) : Except DecodeError Instr :=
  match (fld w 0 6).toNat with
  | 0x00 => form w [(6, 5), (11, 5)] [] (.arrive (fld w 21 5) (fld w 16 5))
  | 0x01 => form w [(6, 5), (21, 5)] [] (.waitb (fld w 16 5) (fld w 11 5))
  | 0x02 => form w [(6, 5), (11, 5), (21, 5)] [] (.bar (fld w 16 5))
  | 0x03 => form w [(6, 5), (21, 5)] [] (.binit (fld w 16 5) (fld w 11 5))
  | 0x04 => form w [(6, 5), (11, 5), (21, 5)] [] (.tsleep (fld w 16 5))
  | 0x05 => form w [(6, 5), (11, 5)] [] (.wpset (fld w 21 5) (fld w 16 5))
  | 0x06 => form w [(6, 5), (11, 5), (21, 5)] [] (.wpclr (fld w 16 5))
  | _ => .error .unlistedFunction

/-- The Strand group by its selector (R180). -/
def decodeStrand (w : BitVec 32) : Except DecodeError Instr :=
  match (fld w 0 6).toNat with
  | 0x00 => form w [(6, 5)] [] (.spawn (fld w 21 5) (fld w 16 5) (fld w 11 5))
  | 0x01 => form w [(21, 5)] [] (.spawnq (fld w 16 5) (fld w 11 5) (fld w 6 5))
  | 0x02 => form w [(11, 5), (21, 5)] [] (.fork (fld w 16 5) (fld w 6 5))
  | 0x03 => form w [(6, 5), (11, 5), (16, 5), (21, 5)] [] (.quit)
  | 0x04 => form w [(6, 5), (21, 5)] [] (.msg (fld w 16 5) (fld w 11 5))
  | 0x05 => form w [(6, 5)] [] (.fill (fld w 21 5) (fld w 16 5) (fld w 11 5))
  | 0x06 => form w [(8, 3), (11, 5), (16, 5)] [] (.empty (fld w 21 5) (fld w 6 2))
  | 0x07 => form w [(8, 3), (11, 5)] [] (.take (fld w 21 5) (fld w 16 5) (fld w 6 2))
  | 0x08 => form w [(8, 3), (11, 5)] [] (.rstate (fld w 21 5) (fld w 16 5) (fld w 6 2))
  | 0x09 => form w [(6, 5), (11, 5)] [] (.await (fld w 21 5) (fld w 16 5))
  | 0x0A => form w [(6, 5), (11, 5)] [] (.ftest (fld w 21 5) (fld w 16 5))
  | 0x0B => form w [(6, 5), (11, 5), (21, 5)] [] (.fcancel (fld w 16 5))
  | 0x0C => form w [(6, 5)] [] (.fwd (fld w 21 5) (fld w 16 5) (fld w 11 5))
  | 0x0D => form w [(6, 5), (11, 5)] [] (.pipe (fld w 21 5) (fld w 16 5))
  | _ => .error .unlistedFunction

/-- The Join group by its selector (R180). -/
def decodeJoin (w : BitVec 32) : Except DecodeError Instr :=
  match (fld w 0 6).toNat with
  | 0x00 => .ok (.jnew (fld w 21 5) (fld w 16 5) (fld w 11 5) (fld w 6 5))
  | 0x01 => .ok (.jreg (fld w 21 5) (fld w 16 5) (fld w 11 5) (fld w 6 5))
  | 0x02 => form w [(8, 3)] [] (.jval (fld w 21 5) (fld w 16 5) (fld w 11 5) (fld w 6 2))
  | 0x03 => form w [(8, 3), (11, 5)] [] (.jdrop (fld w 21 5) (fld w 16 5) (fld w 6 2))
  | 0x04 => form w [(8, 3), (11, 5)] [] (.wchk (fld w 21 5) (fld w 16 5) (fld w 6 2))
  | 0x05 => form w [(6, 5), (11, 5)] [] (.jfree (fld w 21 5) (fld w 16 5))
  | _ => .error .unlistedFunction

/-- The Fpu group by its selector (R180, R183). -/
def decodeFpu (w : BitVec 32) : Except DecodeError Instr :=
  match (fld w 2 4).toNat with
  | 0x00 => form w [(6, 5)] [] (.fadd (fld w 21 5) (fld w 16 5) (fld w 11 5) (fld w 0 2))
  | 0x01 => form w [(6, 5)] [] (.fsub (fld w 21 5) (fld w 16 5) (fld w 11 5) (fld w 0 2))
  | 0x02 => form w [(6, 5)] [] (.fmul (fld w 21 5) (fld w 16 5) (fld w 11 5) (fld w 0 2))
  | 0x03 => form w [(6, 5)] [] (.fdiv (fld w 21 5) (fld w 16 5) (fld w 11 5) (fld w 0 2))
  | 0x04 => .ok (.fma (fld w 21 5) (fld w 16 5) (fld w 11 5) (fld w 6 5) (fld w 0 2))
  | 0x05 => .ok (.fnma (fld w 21 5) (fld w 16 5) (fld w 11 5) (fld w 6 5) (fld w 0 2))
  | 0x06 => form w [(6, 5), (11, 5)] [] (.fsqrt (fld w 21 5) (fld w 16 5) (fld w 0 2))
  | 0x07 => form w [(6, 5)] [] (.fmin (fld w 21 5) (fld w 16 5) (fld w 11 5) (fld w 0 2))
  | 0x08 => form w [(6, 5)] [] (.fmax (fld w 21 5) (fld w 16 5) (fld w 11 5) (fld w 0 2))
  | 0x09 => form w [(6, 5)] [] (.feq (fld w 21 5) (fld w 16 5) (fld w 11 5) (fld w 0 2))
  | 0x0A => form w [(6, 5)] [] (.flt (fld w 21 5) (fld w 16 5) (fld w 11 5) (fld w 0 2))
  | 0x0B => form w [(6, 5)] [] (.fle (fld w 21 5) (fld w 16 5) (fld w 11 5) (fld w 0 2))
  | 0x0C => form w [(8, 3)] [] (.fsgn (fld w 21 5) (fld w 16 5) (fld w 11 5) (fld w 6 2) (fld w 0 2))
  | 0x0D => form w [(6, 5), (11, 5)] [] (.fclass (fld w 21 5) (fld w 16 5) (fld w 0 2))
  | 0x0E => form w [(6, 5), (11, 5)] [] (.fexp2 (fld w 21 5) (fld w 16 5) (fld w 0 2))
  | 0x0F => form w [(6, 5), (11, 5)] [] (.flog2 (fld w 21 5) (fld w 16 5) (fld w 0 2))
  | _ => .error .unlistedFunction

/-- The Fcvt group by its selector (R180). -/
def decodeFcvt (w : BitVec 32) : Except DecodeError Instr :=
  match (fld w 0 6).toNat with
  | 0x00 => .ok (.fcvt (fld w 21 5) (fld w 16 5) (fld w 11 5) (fld w 6 5))
  | 0x01 => .ok (.fcvti (fld w 21 5) (fld w 16 5) (fld w 11 5) (fld w 6 5))
  | 0x02 => .ok (.icvtf (fld w 21 5) (fld w 16 5) (fld w 11 5) (fld w 6 5))
  | 0x03 => form w [(6, 5), (11, 5)] [] (.fmvgf (fld w 21 5) (fld w 16 5))
  | 0x04 => form w [(6, 5), (11, 5)] [] (.fmvfg (fld w 21 5) (fld w 16 5))
  | 0x05 => form w [(8, 3), (11, 5)] [] (.frcp (fld w 21 5) (fld w 16 5) (fld w 6 2))
  | 0x06 => form w [(8, 3), (11, 5)] [] (.frsqrt (fld w 21 5) (fld w 16 5) (fld w 6 2))
  | _ => .error .unlistedFunction

/-- The Stream group by its selector (R180). -/
def decodeStream (w : BitVec 32) : Except DecodeError Instr :=
  match (fld w 0 6).toNat with
  | 0x00 => form w [(9, 2), (11, 5), (21, 5)] [] (.scfg (fld w 16 5) (fld w 6 3))
  | 0x01 => form w [(10, 1), (11, 5), (16, 5), (23, 3)] [] (.sbind (fld w 21 2) (fld w 9 1) (fld w 6 3))
  | 0x02 => form w [(6, 3), (10, 1), (11, 5), (16, 5), (23, 3)] [] (.sunbind (fld w 21 2) (fld w 9 1))
  | 0x03 => form w [(9, 2), (11, 5), (16, 5)] [] (.sstat (fld w 21 5) (fld w 6 3))
  | _ => .error .unlistedFunction

/-- The Valu group by its selector (R180). -/
def decodeValu (w : BitVec 32) : Except DecodeError Instr :=
  match (fld w 0 6).toNat with
  | 0x00 => form w [(6, 5)] [25, 20, 15] (.vadd (fld w 21 4) (fld w 16 4) (fld w 11 4))
  | 0x01 => form w [(6, 5)] [25, 20, 15] (.vsub (fld w 21 4) (fld w 16 4) (fld w 11 4))
  | 0x02 => form w [(6, 5)] [25, 20, 15] (.vmul (fld w 21 4) (fld w 16 4) (fld w 11 4))
  | 0x03 => form w [] [25, 20, 15, 10] (.vfma (fld w 21 4) (fld w 16 4) (fld w 11 4) (fld w 6 4))
  | 0x04 => form w [(6, 5)] [25, 20, 15] (.vmin (fld w 21 4) (fld w 16 4) (fld w 11 4))
  | 0x05 => form w [(6, 5)] [25, 20, 15] (.vmax (fld w 21 4) (fld w 16 4) (fld w 11 4))
  | 0x06 => form w [(6, 5), (11, 5)] [25, 20] (.vabs (fld w 21 4) (fld w 16 4))
  | 0x07 => form w [(6, 5), (11, 5)] [25, 20] (.vneg (fld w 21 4) (fld w 16 4))
  | 0x08 => form w [(6, 5)] [25, 20, 15] (.vceq (fld w 21 4) (fld w 16 4) (fld w 11 4))
  | 0x09 => form w [(6, 5)] [25, 20, 15] (.vclt (fld w 21 4) (fld w 16 4) (fld w 11 4))
  | 0x0A => form w [(6, 5)] [25, 20, 15] (.vcle (fld w 21 4) (fld w 16 4) (fld w 11 4))
  | 0x0B => form w [] [25, 20, 15, 10] (.vsel (fld w 21 4) (fld w 16 4) (fld w 11 4) (fld w 6 4))
  | 0x0C => form w [(6, 5)] [25, 20, 15] (.vand (fld w 21 4) (fld w 16 4) (fld w 11 4))
  | 0x0D => form w [(6, 5)] [25, 20, 15] (.vor (fld w 21 4) (fld w 16 4) (fld w 11 4))
  | 0x0E => form w [(6, 5)] [25, 20, 15] (.vxor (fld w 21 4) (fld w 16 4) (fld w 11 4))
  | 0x0F => form w [(6, 5)] [25, 20, 15] (.vshl (fld w 21 4) (fld w 16 4) (fld w 11 4))
  | 0x10 => form w [(6, 5)] [25, 20, 15] (.vshr (fld w 21 4) (fld w 16 4) (fld w 11 4))
  | 0x11 => form w [(6, 5)] [25, 20, 15] (.vsra (fld w 21 4) (fld w 16 4) (fld w 11 4))
  | 0x12 => form w [(6, 5)] [25, 20, 15] (.vdiv (fld w 21 4) (fld w 16 4) (fld w 11 4))
  | 0x13 => form w [(6, 5), (11, 5)] [25, 20] (.vsqrt (fld w 21 4) (fld w 16 4))
  | 0x14 => form w [(6, 5), (11, 5)] [25, 20] (.vexp2 (fld w 21 4) (fld w 16 4))
  | 0x15 => form w [(6, 5), (11, 5)] [25, 20] (.vlog2 (fld w 21 4) (fld w 16 4))
  | 0x16 => form w [(6, 5), (11, 5)] [25, 20] (.vrcp (fld w 21 4) (fld w 16 4))
  | 0x17 => form w [(6, 5), (11, 5)] [25, 20] (.vrsqrt (fld w 21 4) (fld w 16 4))
  | 0x18 => form w [(6, 5)] [25, 20, 15] (.vscale (fld w 21 4) (fld w 16 4) (fld w 11 4))
  | _ => .error .unlistedFunction

/-- The Vperm group by its selector (R180). -/
def decodeVperm (w : BitVec 32) : Except DecodeError Instr :=
  match (fld w 0 6).toNat with
  | 0x00 => form w [(6, 5), (11, 5)] [25] (.vbcast (fld w 21 4) (fld w 16 5))
  | 0x01 => form w [(6, 5)] [20] (.vextr (fld w 21 5) (fld w 16 4) (fld w 11 5))
  | 0x02 => form w [(6, 5)] [25] (.vinsr (fld w 21 4) (fld w 16 5) (fld w 11 5))
  | 0x03 => form w [(6, 5)] [25, 20, 15] (.vperm (fld w 21 4) (fld w 16 4) (fld w 11 4))
  | 0x04 => form w [] [25, 20, 15] (.vslide (fld w 21 4) (fld w 16 4) (fld w 11 4) (fld w 6 5))
  | 0x05 => form w [(7, 4)] [25, 20, 15] (.vzip (fld w 21 4) (fld w 16 4) (fld w 11 4) (fld w 6 1))
  | 0x06 => form w [(7, 4)] [25, 20, 15] (.vunzip (fld w 21 4) (fld w 16 4) (fld w 11 4) (fld w 6 1))
  | 0x07 => form w [(6, 5), (11, 5)] [20] (.vredsum (fld w 21 5) (fld w 16 4))
  | 0x08 => form w [(6, 5), (11, 5)] [20] (.vredmax (fld w 21 5) (fld w 16 4))
  | 0x09 => form w [(6, 5), (11, 5)] [20] (.vredmin (fld w 21 5) (fld w 16 4))
  | 0x0A => form w [(6, 5)] [25, 20, 15] (.vmergek (fld w 21 4) (fld w 16 4) (fld w 11 4))
  | 0x0B => form w [(10, 1), (11, 5)] [25, 20] (.vcvt (fld w 21 4) (fld w 16 4) (fld w 6 4))
  | 0x0C => form w [(6, 5), (11, 5)] [25, 20] (.vmov (fld w 21 4) (fld w 16 4))
  | _ => .error .unlistedFunction

/-- ENG words by engine and command (R185). -/
def decodeEng (w : BitVec 32) : Except DecodeError Instr :=
  match (fld w 8 3).toNat, (fld w 0 8).toNat with
  | 0, 0x00 => form w [(11, 5)] [] (.mma (fld w 21 5) (fld w 16 5) (fld w 0 4))
  | 0, 0x01 => form w [(11, 5)] [] (.mma (fld w 21 5) (fld w 16 5) (fld w 0 4))
  | 0, 0x02 => form w [(11, 5)] [] (.mma (fld w 21 5) (fld w 16 5) (fld w 0 4))
  | 0, 0x03 => form w [(11, 5)] [] (.mma (fld w 21 5) (fld w 16 5) (fld w 0 4))
  | 0, 0x05 => form w [(11, 5)] [] (.mma (fld w 21 5) (fld w 16 5) (fld w 0 4))
  | 0, 0x06 => form w [(11, 5)] [] (.mma (fld w 21 5) (fld w 16 5) (fld w 0 4))
  | 0, 0x07 => form w [(11, 5)] [] (.mma (fld w 21 5) (fld w 16 5) (fld w 0 4))
  | 0, 0x08 => form w [(11, 5)] [] (.mma (fld w 21 5) (fld w 16 5) (fld w 0 4))
  | 0, 0x09 => form w [(11, 5)] [] (.mma (fld w 21 5) (fld w 16 5) (fld w 0 4))
  | 0, 0x0A => form w [(11, 5)] [] (.mma (fld w 21 5) (fld w 16 5) (fld w 0 4))
  | 0, 0x0B => form w [(11, 5)] [] (.mma (fld w 21 5) (fld w 16 5) (fld w 0 4))
  | 0, 0x10 => .ok (.mmv (fld w 21 5) (fld w 16 5) (fld w 11 5))
  | 0, 0x11 => form w [(11, 5)] [] (.mclr (fld w 21 5) (fld w 16 5))
  | 0, 0x12 => .ok (.mld (fld w 21 5) (fld w 16 5) (fld w 11 5))
  | 0, 0x13 => .ok (.mst (fld w 21 5) (fld w 16 5) (fld w 11 5))
  | 1, 0x00 => .ok (.copy (fld w 21 5) (fld w 16 5) (fld w 11 5))
  | 1, 0x01 => .ok (.fillt (fld w 21 5) (fld w 16 5) (fld w 11 5))
  | 1, 0x02 => .ok (.gather (fld w 21 5) (fld w 16 5) (fld w 11 5))
  | 1, 0x03 => .ok (.scatter (fld w 21 5) (fld w 16 5) (fld w 11 5))
  | 2, 0x00 => .ok (.topk (fld w 21 5) (fld w 16 5) (fld w 11 5))
  | 2, 0x01 => .ok (.mergel (fld w 21 5) (fld w 16 5) (fld w 11 5))
  | 3, 0x00 => .ok (.allred (fld w 21 5) (fld w 16 5) (fld w 11 5))
  | 3, 0x01 => .ok (.bcast (fld w 21 5) (fld w 16 5) (fld w 11 5))
  | 4, 0x00 => form w [(11, 5), (16, 5)] [] (.tjins (fld w 21 5))
  | 4, 0x01 => .ok (.tjapp (fld w 21 5) (fld w 16 5) (fld w 11 5))
  | 4, 0x02 => .ok (.tjcls (fld w 21 5) (fld w 16 5) (fld w 11 5))
  | 4, 0x03 => .ok (.tjsmp (fld w 21 5) (fld w 16 5) (fld w 11 5))
  | 4, 0x04 => .ok (.tjget (fld w 21 5) (fld w 16 5) (fld w 11 5))
  | 4, 0x05 => .ok (.tjpri (fld w 21 5) (fld w 16 5) (fld w 11 5))
  | 4, 0x06 => form w [(11, 5)] [] (.tjevi (fld w 21 5) (fld w 16 5))
  | 4, 0x07 => .ok (.tjver (fld w 21 5) (fld w 16 5) (fld w 11 5))
  | 4, 0x08 => form w [(16, 5)] [] (.tjstat (fld w 21 5) (fld w 11 5))
  | _, _ => .error .unlistedCommand

/-- The Ereg group by its selector (R180). -/
def decodeEreg (w : BitVec 32) : Except DecodeError Instr :=
  match (fld w 0 6).toNat with
  | 0x00 => form w [(21, 5)] [] (.eset (fld w 16 5) (fld w 6 10))
  | 0x01 => form w [(16, 5)] [] (.eget (fld w 21 5) (fld w 6 10))
  | _ => .error .unlistedFunction

/-- The Tile group by its selector (R180). -/
def decodeTile (w : BitVec 32) : Except DecodeError Instr :=
  match (fld w 0 6).toNat with
  | 0x00 => form w [(12, 4), (21, 5)] [] (.tset (fld w 16 5) (fld w 6 6))
  | 0x01 => form w [(12, 4), (16, 5)] [] (.tstate (fld w 21 5) (fld w 6 6))
  | 0x02 => form w [(12, 4), (21, 5)] [] (.twait (fld w 16 5) (fld w 6 6))
  | 0x03 => form w [(10, 1), (11, 5), (21, 5)] [] (.tring (fld w 16 5) (fld w 6 4))
  | 0x04 => form w [(10, 1), (11, 5)] [] (.ringhd (fld w 21 5) (fld w 16 5) (fld w 6 4))
  | 0x05 => form w [(10, 1), (11, 5)] [] (.ringtl (fld w 21 5) (fld w 16 5) (fld w 6 4))
  | 0x06 => form w [(12, 4)] [25] (.vldt (fld w 21 4) (fld w 16 5) (fld w 6 6))
  | 0x07 => form w [(12, 4)] [25] (.vstt (fld w 21 4) (fld w 16 5) (fld w 6 6))
  | 0x08 => form w [(12, 4), (21, 5)] [] (.tmark (fld w 16 5) (fld w 6 6))
  | _ => .error .unlistedFunction

/-- The instruction a word lays out, by its major opcode (R179), before the checks on operand values. -/
def decodeFields (w : BitVec 32) : Except DecodeError Instr :=
  match (fld w 26 6).toNat with
  | 0x01 => decodeSys w
  | 0x02 => decodeAlu w
  | 0x03 => .ok (.addi (fld w 21 5) (fld w 16 5) (fld w 0 16))
  | 0x04 => .ok (.andi (fld w 21 5) (fld w 16 5) (fld w 0 16))
  | 0x05 => .ok (.ori (fld w 21 5) (fld w 16 5) (fld w 0 16))
  | 0x06 => .ok (.xori (fld w 21 5) (fld w 16 5) (fld w 0 16))
  | 0x07 => .ok (.slti (fld w 21 5) (fld w 16 5) (fld w 0 16))
  | 0x08 => decodeImmOps w
  | 0x09 => .ok (.ldi (fld w 21 5) (fld w 0 21))
  | 0x0A => .ok (.ldhi (fld w 21 5) (fld w 0 21))
  | 0x0B => .ok (.ldxh (fld w 21 5) (fld w 0 21))
  | 0x0C => .ok (.beq (fld w 21 5) (fld w 16 5) (fld w 0 16))
  | 0x0D => .ok (.bne (fld w 21 5) (fld w 16 5) (fld w 0 16))
  | 0x0E => .ok (.blt (fld w 21 5) (fld w 16 5) (fld w 0 16))
  | 0x0F => .ok (.bge (fld w 21 5) (fld w 16 5) (fld w 0 16))
  | 0x10 => .ok (.bltn (fld w 21 5) (fld w 16 5) (fld w 0 16))
  | 0x11 => .ok (.bgen (fld w 21 5) (fld w 16 5) (fld w 0 16))
  | 0x12 => .ok (.jmp (fld w 0 26))
  | 0x13 => .ok (.call (fld w 0 26))
  | 0x14 => decodeJreg w
  | 0x15 => .ok (.ldb (fld w 21 5) (fld w 16 5) (fld w 0 16))
  | 0x16 => .ok (.ldbn (fld w 21 5) (fld w 16 5) (fld w 0 16))
  | 0x17 => .ok (.ldh (fld w 21 5) (fld w 16 5) (fld w 0 16))
  | 0x18 => .ok (.ldhn (fld w 21 5) (fld w 16 5) (fld w 0 16))
  | 0x19 => .ok (.ldw (fld w 21 5) (fld w 16 5) (fld w 0 16))
  | 0x1A => .ok (.ldwn (fld w 21 5) (fld w 16 5) (fld w 0 16))
  | 0x1B => .ok (.ldd (fld w 21 5) (fld w 16 5) (fld w 0 16))
  | 0x1C => .ok (.stb (fld w 21 5) (fld w 16 5) (fld w 0 16))
  | 0x1D => .ok (.sth (fld w 21 5) (fld w 16 5) (fld w 0 16))
  | 0x1E => .ok (.stw (fld w 21 5) (fld w 16 5) (fld w 0 16))
  | 0x1F => .ok (.std (fld w 21 5) (fld w 16 5) (fld w 0 16))
  | 0x20 => form w [] [25] (.vld (fld w 21 4) (fld w 16 5) (fld w 0 16))
  | 0x21 => form w [] [25] (.vst (fld w 21 4) (fld w 16 5) (fld w 0 16))
  | 0x22 => .ok (.fldd (fld w 21 5) (fld w 16 5) (fld w 0 16))
  | 0x23 => .ok (.flds (fld w 21 5) (fld w 16 5) (fld w 0 16))
  | 0x24 => .ok (.fstd (fld w 21 5) (fld w 16 5) (fld w 0 16))
  | 0x25 => .ok (.fsts (fld w 21 5) (fld w 16 5) (fld w 0 16))
  | 0x26 => decodeMemx w
  | 0x27 => decodeAmo w
  | 0x28 => decodeSync w
  | 0x29 => decodeStrand w
  | 0x2A => decodeJoin w
  | 0x2B => decodeFpu w
  | 0x2C => decodeFcvt w
  | 0x2D => decodeStream w
  | 0x2E => decodeValu w
  | 0x2F => decodeVperm w
  | 0x30 => form w [] [25, 20, 15] (.vdot (fld w 21 4) (fld w 16 4) (fld w 11 4) (fld w 6 5) (fld w 0 6))
  | 0x31 => decodeEng w
  | 0x32 => decodeEreg w
  | 0x33 => decodeTile w
  | _ => .error .unlistedMajor

/-- The instruction a word is, or the ground on which it is none (R176). -/
def decode (w : BitVec 32) : Except DecodeError Instr :=
  match decodeFields w with
  | .error e => .error e
  | .ok i => match i.check with
    | none => .ok i
    | some e => .error e

/-- The four bytes of a word as it lies in memory, the lowest address first (R172). -/
def wordBytes (w : BitVec 32) : List Byte := [fld w 0 8, fld w 8 8, fld w 16 8, fld w 24 8]

/-- The word that four bytes of memory are (R172). -/
def bytesWord : List Byte → BitVec 32
  | [b0, b1, b2, b3] => b3 ++ b2 ++ b1 ++ b0
  | _ => 0

/-- The instruction the decoder reads from an instruction whose bits are `w`, numbered as the opcode table numbers them. -/
def decodeTableWord (_nbits w : Nat) : Option Instr :=
  match decode (bytesWord (wordBytes (BitVec.ofNat 32 w))) with
  | .ok i => some i
  | .error _ => none

/-- The word of an instruction, fields from the most significant (R173); none for a step that has no word. -/
def encode : Instr → Option (BitVec 32)
  | .trap k => some (0x1#6 ++ 0x0#5 ++ 0x0#5 ++ k ++ 0x0#6)
  | .eret => some (0x1#6 ++ 0x0#5 ++ 0x0#5 ++ 0x0#5 ++ 0x0#5 ++ 0x1#6)
  | .mfs d sc => some (0x1#6 ++ d ++ 0x0#5 ++ sc ++ 0x2#6)
  | .mts a sc => some (0x1#6 ++ 0x0#5 ++ a ++ sc ++ 0x3#6)
  | .mfk d k => some (0x1#6 ++ d ++ 0x0#1 ++ k ++ 0x0#5 ++ 0x0#5 ++ 0x4#6)
  | .mtk k a => some (0x1#6 ++ 0x0#1 ++ k ++ a ++ 0x0#5 ++ 0x0#5 ++ 0x5#6)
  | .cctlWb a => some (0x1#6 ++ 0x0#5 ++ a ++ 0x0#5 ++ 0x0#5 ++ 0x6#6)
  | .cctlInv a => some (0x1#6 ++ 0x0#5 ++ a ++ 0x0#5 ++ 0x1#5 ++ 0x6#6)
  | .cctlDrop a => some (0x1#6 ++ 0x0#5 ++ a ++ 0x0#5 ++ 0x2#5 ++ 0x6#6)
  | .cctlFlash => some (0x1#6 ++ 0x0#5 ++ 0x0#5 ++ 0x0#5 ++ 0x3#5 ++ 0x6#6)
  | .cctlIinv => some (0x1#6 ++ 0x0#5 ++ 0x0#5 ++ 0x0#5 ++ 0x4#5 ++ 0x6#6)
  | .tlbinv a b l k => some (0x1#6 ++ 0x0#5 ++ a ++ b ++ 0x0#1 ++ l ++ k ++ 0x7#6)
  | .brk k => some (0x1#6 ++ 0x0#5 ++ 0x0#5 ++ k ++ 0x8#6)
  | .waitev d a => some (0x1#6 ++ d ++ a ++ 0x0#5 ++ 0x0#5 ++ 0x9#6)
  | .add d a b => some (0x2#6 ++ d ++ a ++ b ++ 0x0#5 ++ 0x0#6)
  | .sub d a b => some (0x2#6 ++ d ++ a ++ b ++ 0x0#5 ++ 0x1#6)
  | .and d a b => some (0x2#6 ++ d ++ a ++ b ++ 0x0#5 ++ 0x2#6)
  | .or d a b => some (0x2#6 ++ d ++ a ++ b ++ 0x0#5 ++ 0x3#6)
  | .xor d a b => some (0x2#6 ++ d ++ a ++ b ++ 0x0#5 ++ 0x4#6)
  | .sll d a b => some (0x2#6 ++ d ++ a ++ b ++ 0x0#5 ++ 0x5#6)
  | .srl d a b => some (0x2#6 ++ d ++ a ++ b ++ 0x0#5 ++ 0x6#6)
  | .sra d a b => some (0x2#6 ++ d ++ a ++ b ++ 0x0#5 ++ 0x7#6)
  | .slt d a b => some (0x2#6 ++ d ++ a ++ b ++ 0x0#5 ++ 0x8#6)
  | .sltn d a b => some (0x2#6 ++ d ++ a ++ b ++ 0x0#5 ++ 0x9#6)
  | .min d a b => some (0x2#6 ++ d ++ a ++ b ++ 0x0#5 ++ 0xa#6)
  | .max d a b => some (0x2#6 ++ d ++ a ++ b ++ 0x0#5 ++ 0xb#6)
  | .minn d a b => some (0x2#6 ++ d ++ a ++ b ++ 0x0#5 ++ 0xc#6)
  | .maxn d a b => some (0x2#6 ++ d ++ a ++ b ++ 0x0#5 ++ 0xd#6)
  | .mul d a b => some (0x2#6 ++ d ++ a ++ b ++ 0x0#5 ++ 0xe#6)
  | .mulh d a b => some (0x2#6 ++ d ++ a ++ b ++ 0x0#5 ++ 0xf#6)
  | .mulhn d a b => some (0x2#6 ++ d ++ a ++ b ++ 0x0#5 ++ 0x10#6)
  | .div d a b => some (0x2#6 ++ d ++ a ++ b ++ 0x0#5 ++ 0x11#6)
  | .divn d a b => some (0x2#6 ++ d ++ a ++ b ++ 0x0#5 ++ 0x12#6)
  | .rem d a b => some (0x2#6 ++ d ++ a ++ b ++ 0x0#5 ++ 0x13#6)
  | .remn d a b => some (0x2#6 ++ d ++ a ++ b ++ 0x0#5 ++ 0x14#6)
  | .clz d a => some (0x2#6 ++ d ++ a ++ 0x0#5 ++ 0x0#5 ++ 0x15#6)
  | .ctz d a => some (0x2#6 ++ d ++ a ++ 0x0#5 ++ 0x0#5 ++ 0x16#6)
  | .popc d a => some (0x2#6 ++ d ++ a ++ 0x0#5 ++ 0x0#5 ++ 0x17#6)
  | .sel d a b c => some (0x2#6 ++ d ++ a ++ b ++ c ++ 0x18#6)
  | .addsh d a b sc => some (0x2#6 ++ d ++ a ++ b ++ sc ++ 0x19#6)
  | .addi d a imm => some (0x3#6 ++ d ++ a ++ imm)
  | .andi d a imm => some (0x4#6 ++ d ++ a ++ imm)
  | .ori d a imm => some (0x5#6 ++ d ++ a ++ imm)
  | .xori d a imm => some (0x6#6 ++ d ++ a ++ imm)
  | .slti d a imm => some (0x7#6 ++ d ++ a ++ imm)
  | .slli d a n => some (0x8#6 ++ d ++ a ++ 0x0#5 ++ 0x0#5 ++ n)
  | .srli d a n => some (0x8#6 ++ d ++ a ++ 0x2#5 ++ 0x0#5 ++ n)
  | .srai d a n => some (0x8#6 ++ d ++ a ++ 0x4#5 ++ 0x0#5 ++ n)
  | .ext d a p l => some (0x8#6 ++ d ++ a ++ 0x3#4 ++ p ++ l)
  | .ins d a p l => some (0x8#6 ++ d ++ a ++ 0x4#4 ++ p ++ l)
  | .ldi d imm => some (0x9#6 ++ d ++ imm)
  | .ldhi d imm => some (0xa#6 ++ d ++ imm)
  | .ldxh d imm => some (0xb#6 ++ d ++ imm)
  | .beq a b o => some (0xc#6 ++ a ++ b ++ o)
  | .bne a b o => some (0xd#6 ++ a ++ b ++ o)
  | .blt a b o => some (0xe#6 ++ a ++ b ++ o)
  | .bge a b o => some (0xf#6 ++ a ++ b ++ o)
  | .bltn a b o => some (0x10#6 ++ a ++ b ++ o)
  | .bgen a b o => some (0x11#6 ++ a ++ b ++ o)
  | .jmp o => some (0x12#6 ++ o)
  | .call o => some (0x13#6 ++ o)
  | .jr a => some (0x14#6 ++ 0x0#5 ++ a ++ 0x0#5 ++ 0x0#5 ++ 0x0#6)
  | .callr a => some (0x14#6 ++ 0x0#5 ++ a ++ 0x0#5 ++ 0x0#5 ++ 0x1#6)
  | .ret => some (0x14#6 ++ 0x0#5 ++ 0x0#5 ++ 0x0#5 ++ 0x0#5 ++ 0x2#6)
  | .ldb d a imm => some (0x15#6 ++ d ++ a ++ imm)
  | .ldbn d a imm => some (0x16#6 ++ d ++ a ++ imm)
  | .ldh d a imm => some (0x17#6 ++ d ++ a ++ imm)
  | .ldhn d a imm => some (0x18#6 ++ d ++ a ++ imm)
  | .ldw d a imm => some (0x19#6 ++ d ++ a ++ imm)
  | .ldwn d a imm => some (0x1a#6 ++ d ++ a ++ imm)
  | .ldd d a imm => some (0x1b#6 ++ d ++ a ++ imm)
  | .stb b a imm => some (0x1c#6 ++ b ++ a ++ imm)
  | .sth b a imm => some (0x1d#6 ++ b ++ a ++ imm)
  | .stw b a imm => some (0x1e#6 ++ b ++ a ++ imm)
  | .std b a imm => some (0x1f#6 ++ b ++ a ++ imm)
  | .vld d a imm => some (0x20#6 ++ 0x0#1 ++ d ++ a ++ imm)
  | .vst b a imm => some (0x21#6 ++ 0x0#1 ++ b ++ a ++ imm)
  | .fldd d a imm => some (0x22#6 ++ d ++ a ++ imm)
  | .flds d a imm => some (0x23#6 ++ d ++ a ++ imm)
  | .fstd b a imm => some (0x24#6 ++ b ++ a ++ imm)
  | .fsts b a imm => some (0x25#6 ++ b ++ a ++ imm)
  | .ldx d a b h n sc => some (0x26#6 ++ d ++ a ++ b ++ h ++ n ++ sc ++ 0x0#6)
  | .stx d a b h sc => some (0x26#6 ++ d ++ a ++ b ++ h ++ 0x0#1 ++ sc ++ 0x1#6)
  | .ldt d a b n sc => some (0x26#6 ++ d ++ a ++ b ++ 0x0#2 ++ n ++ sc ++ 0x2#6)
  | .stt d a b sc => some (0x26#6 ++ d ++ a ++ b ++ 0x0#3 ++ sc ++ 0x3#6)
  | .promote d a p => some (0x26#6 ++ d ++ a ++ 0x0#5 ++ 0x0#4 ++ p ++ 0x4#6)
  | .demote d a => some (0x26#6 ++ d ++ a ++ 0x0#5 ++ 0x0#5 ++ 0x5#6)
  | .pref a => some (0x26#6 ++ 0x0#5 ++ a ++ 0x0#5 ++ 0x0#5 ++ 0x6#6)
  | .leap d a => some (0x26#6 ++ d ++ a ++ 0x0#5 ++ 0x0#5 ++ 0x7#6)
  | .fence sc => some (0x26#6 ++ 0x0#5 ++ 0x0#5 ++ 0x0#5 ++ 0x0#2 ++ sc ++ 0x8#6)
  | .acq sc => some (0x26#6 ++ 0x0#5 ++ 0x0#5 ++ 0x0#5 ++ 0x0#2 ++ sc ++ 0x9#6)
  | .rel sc => some (0x26#6 ++ 0x0#5 ++ 0x0#5 ++ 0x0#5 ++ 0x0#2 ++ sc ++ 0xa#6)
  | .amoadd d a b r q sc => some (0x27#6 ++ d ++ a ++ b ++ 0x0#2 ++ r ++ q ++ sc ++ 0x0#6)
  | .amoand d a b r q sc => some (0x27#6 ++ d ++ a ++ b ++ 0x0#2 ++ r ++ q ++ sc ++ 0x1#6)
  | .amoor d a b r q sc => some (0x27#6 ++ d ++ a ++ b ++ 0x0#2 ++ r ++ q ++ sc ++ 0x2#6)
  | .amoxor d a b r q sc => some (0x27#6 ++ d ++ a ++ b ++ 0x0#2 ++ r ++ q ++ sc ++ 0x3#6)
  | .amomin d a b r q sc => some (0x27#6 ++ d ++ a ++ b ++ 0x0#2 ++ r ++ q ++ sc ++ 0x4#6)
  | .amomax d a b r q sc => some (0x27#6 ++ d ++ a ++ b ++ 0x0#2 ++ r ++ q ++ sc ++ 0x5#6)
  | .amominn d a b r q sc => some (0x27#6 ++ d ++ a ++ b ++ 0x0#2 ++ r ++ q ++ sc ++ 0x6#6)
  | .amomaxn d a b r q sc => some (0x27#6 ++ d ++ a ++ b ++ 0x0#2 ++ r ++ q ++ sc ++ 0x7#6)
  | .amoswap d a b r q sc => some (0x27#6 ++ d ++ a ++ b ++ 0x0#2 ++ r ++ q ++ sc ++ 0x8#6)
  | .amocas d a b r q sc => some (0x27#6 ++ d ++ a ++ b ++ 0x0#2 ++ r ++ q ++ sc ++ 0x9#6)
  | .amofadd d a b r q sc => some (0x27#6 ++ d ++ a ++ b ++ 0x0#2 ++ r ++ q ++ sc ++ 0xa#6)
  | .amofmax d a b r q sc => some (0x27#6 ++ d ++ a ++ b ++ 0x0#2 ++ r ++ q ++ sc ++ 0xb#6)
  | .arrive d a => some (0x28#6 ++ d ++ a ++ 0x0#5 ++ 0x0#5 ++ 0x0#6)
  | .waitb a b => some (0x28#6 ++ 0x0#5 ++ a ++ b ++ 0x0#5 ++ 0x1#6)
  | .bar a => some (0x28#6 ++ 0x0#5 ++ a ++ 0x0#5 ++ 0x0#5 ++ 0x2#6)
  | .binit a b => some (0x28#6 ++ 0x0#5 ++ a ++ b ++ 0x0#5 ++ 0x3#6)
  | .tsleep a => some (0x28#6 ++ 0x0#5 ++ a ++ 0x0#5 ++ 0x0#5 ++ 0x4#6)
  | .wpset d a => some (0x28#6 ++ d ++ a ++ 0x0#5 ++ 0x0#5 ++ 0x5#6)
  | .wpclr a => some (0x28#6 ++ 0x0#5 ++ a ++ 0x0#5 ++ 0x0#5 ++ 0x6#6)
  | .spawn d a b => some (0x29#6 ++ d ++ a ++ b ++ 0x0#5 ++ 0x0#6)
  | .spawnq a b c => some (0x29#6 ++ 0x0#5 ++ a ++ b ++ c ++ 0x1#6)
  | .fork a c => some (0x29#6 ++ 0x0#5 ++ a ++ 0x0#5 ++ c ++ 0x2#6)
  | .quit => some (0x29#6 ++ 0x0#5 ++ 0x0#5 ++ 0x0#5 ++ 0x0#5 ++ 0x3#6)
  | .msg a b => some (0x29#6 ++ 0x0#5 ++ a ++ b ++ 0x0#5 ++ 0x4#6)
  | .fill d a b => some (0x29#6 ++ d ++ a ++ b ++ 0x0#5 ++ 0x5#6)
  | .empty d k => some (0x29#6 ++ d ++ 0x0#5 ++ 0x0#5 ++ 0x0#3 ++ k ++ 0x6#6)
  | .take d a k => some (0x29#6 ++ d ++ a ++ 0x0#5 ++ 0x0#3 ++ k ++ 0x7#6)
  | .rstate d a k => some (0x29#6 ++ d ++ a ++ 0x0#5 ++ 0x0#3 ++ k ++ 0x8#6)
  | .await d a => some (0x29#6 ++ d ++ a ++ 0x0#5 ++ 0x0#5 ++ 0x9#6)
  | .ftest d a => some (0x29#6 ++ d ++ a ++ 0x0#5 ++ 0x0#5 ++ 0xa#6)
  | .fcancel a => some (0x29#6 ++ 0x0#5 ++ a ++ 0x0#5 ++ 0x0#5 ++ 0xb#6)
  | .fwd d a b => some (0x29#6 ++ d ++ a ++ b ++ 0x0#5 ++ 0xc#6)
  | .pipe d a => some (0x29#6 ++ d ++ a ++ 0x0#5 ++ 0x0#5 ++ 0xd#6)
  | .jnew d a b c => some (0x2a#6 ++ d ++ a ++ b ++ c ++ 0x0#6)
  | .jreg d a b c => some (0x2a#6 ++ d ++ a ++ b ++ c ++ 0x1#6)
  | .jval d a b imm => some (0x2a#6 ++ d ++ a ++ b ++ 0x0#3 ++ imm ++ 0x2#6)
  | .jdrop d a imm => some (0x2a#6 ++ d ++ a ++ 0x0#5 ++ 0x0#3 ++ imm ++ 0x3#6)
  | .wchk d a imm => some (0x2a#6 ++ d ++ a ++ 0x0#5 ++ 0x0#3 ++ imm ++ 0x4#6)
  | .jfree d a => some (0x2a#6 ++ d ++ a ++ 0x0#5 ++ 0x0#5 ++ 0x5#6)
  | .fadd d a b f => some (0x2b#6 ++ d ++ a ++ b ++ 0x0#5 ++ 0x0#4 ++ f)
  | .fsub d a b f => some (0x2b#6 ++ d ++ a ++ b ++ 0x0#5 ++ 0x1#4 ++ f)
  | .fmul d a b f => some (0x2b#6 ++ d ++ a ++ b ++ 0x0#5 ++ 0x2#4 ++ f)
  | .fdiv d a b f => some (0x2b#6 ++ d ++ a ++ b ++ 0x0#5 ++ 0x3#4 ++ f)
  | .fma d a b c f => some (0x2b#6 ++ d ++ a ++ b ++ c ++ 0x4#4 ++ f)
  | .fnma d a b c f => some (0x2b#6 ++ d ++ a ++ b ++ c ++ 0x5#4 ++ f)
  | .fsqrt d a f => some (0x2b#6 ++ d ++ a ++ 0x0#5 ++ 0x0#5 ++ 0x6#4 ++ f)
  | .fmin d a b f => some (0x2b#6 ++ d ++ a ++ b ++ 0x0#5 ++ 0x7#4 ++ f)
  | .fmax d a b f => some (0x2b#6 ++ d ++ a ++ b ++ 0x0#5 ++ 0x8#4 ++ f)
  | .feq d a b f => some (0x2b#6 ++ d ++ a ++ b ++ 0x0#5 ++ 0x9#4 ++ f)
  | .flt d a b f => some (0x2b#6 ++ d ++ a ++ b ++ 0x0#5 ++ 0xa#4 ++ f)
  | .fle d a b f => some (0x2b#6 ++ d ++ a ++ b ++ 0x0#5 ++ 0xb#4 ++ f)
  | .fsgn d a b m f => some (0x2b#6 ++ d ++ a ++ b ++ 0x0#3 ++ m ++ 0xc#4 ++ f)
  | .fclass d a f => some (0x2b#6 ++ d ++ a ++ 0x0#5 ++ 0x0#5 ++ 0xd#4 ++ f)
  | .fexp2 d a f => some (0x2b#6 ++ d ++ a ++ 0x0#5 ++ 0x0#5 ++ 0xe#4 ++ f)
  | .flog2 d a f => some (0x2b#6 ++ d ++ a ++ 0x0#5 ++ 0x0#5 ++ 0xf#4 ++ f)
  | .fcvt d a b c => some (0x2c#6 ++ d ++ a ++ b ++ c ++ 0x0#6)
  | .fcvti d a b c => some (0x2c#6 ++ d ++ a ++ b ++ c ++ 0x1#6)
  | .icvtf d a b c => some (0x2c#6 ++ d ++ a ++ b ++ c ++ 0x2#6)
  | .fmvgf d a => some (0x2c#6 ++ d ++ a ++ 0x0#5 ++ 0x0#5 ++ 0x3#6)
  | .fmvfg d a => some (0x2c#6 ++ d ++ a ++ 0x0#5 ++ 0x0#5 ++ 0x4#6)
  | .frcp d a f => some (0x2c#6 ++ d ++ a ++ 0x0#5 ++ 0x0#3 ++ f ++ 0x5#6)
  | .frsqrt d a f => some (0x2c#6 ++ d ++ a ++ 0x0#5 ++ 0x0#3 ++ f ++ 0x6#6)
  | .scfg a n => some (0x2d#6 ++ 0x0#5 ++ a ++ 0x0#5 ++ 0x0#2 ++ n ++ 0x0#6)
  | .sbind r k n => some (0x2d#6 ++ 0x0#3 ++ r ++ 0x0#5 ++ 0x0#5 ++ 0x0#1 ++ k ++ n ++ 0x1#6)
  | .sunbind r k => some (0x2d#6 ++ 0x0#3 ++ r ++ 0x0#5 ++ 0x0#5 ++ 0x0#1 ++ k ++ 0x0#3 ++ 0x2#6)
  | .sstat d n => some (0x2d#6 ++ d ++ 0x0#5 ++ 0x0#5 ++ 0x0#2 ++ n ++ 0x3#6)
  | .vadd d a b => some (0x2e#6 ++ 0x0#1 ++ d ++ 0x0#1 ++ a ++ 0x0#1 ++ b ++ 0x0#5 ++ 0x0#6)
  | .vsub d a b => some (0x2e#6 ++ 0x0#1 ++ d ++ 0x0#1 ++ a ++ 0x0#1 ++ b ++ 0x0#5 ++ 0x1#6)
  | .vmul d a b => some (0x2e#6 ++ 0x0#1 ++ d ++ 0x0#1 ++ a ++ 0x0#1 ++ b ++ 0x0#5 ++ 0x2#6)
  | .vfma d a b c => some (0x2e#6 ++ 0x0#1 ++ d ++ 0x0#1 ++ a ++ 0x0#1 ++ b ++ 0x0#1 ++ c ++ 0x3#6)
  | .vmin d a b => some (0x2e#6 ++ 0x0#1 ++ d ++ 0x0#1 ++ a ++ 0x0#1 ++ b ++ 0x0#5 ++ 0x4#6)
  | .vmax d a b => some (0x2e#6 ++ 0x0#1 ++ d ++ 0x0#1 ++ a ++ 0x0#1 ++ b ++ 0x0#5 ++ 0x5#6)
  | .vabs d a => some (0x2e#6 ++ 0x0#1 ++ d ++ 0x0#1 ++ a ++ 0x0#5 ++ 0x0#5 ++ 0x6#6)
  | .vneg d a => some (0x2e#6 ++ 0x0#1 ++ d ++ 0x0#1 ++ a ++ 0x0#5 ++ 0x0#5 ++ 0x7#6)
  | .vceq d a b => some (0x2e#6 ++ 0x0#1 ++ d ++ 0x0#1 ++ a ++ 0x0#1 ++ b ++ 0x0#5 ++ 0x8#6)
  | .vclt d a b => some (0x2e#6 ++ 0x0#1 ++ d ++ 0x0#1 ++ a ++ 0x0#1 ++ b ++ 0x0#5 ++ 0x9#6)
  | .vcle d a b => some (0x2e#6 ++ 0x0#1 ++ d ++ 0x0#1 ++ a ++ 0x0#1 ++ b ++ 0x0#5 ++ 0xa#6)
  | .vsel d a b c => some (0x2e#6 ++ 0x0#1 ++ d ++ 0x0#1 ++ a ++ 0x0#1 ++ b ++ 0x0#1 ++ c ++ 0xb#6)
  | .vand d a b => some (0x2e#6 ++ 0x0#1 ++ d ++ 0x0#1 ++ a ++ 0x0#1 ++ b ++ 0x0#5 ++ 0xc#6)
  | .vor d a b => some (0x2e#6 ++ 0x0#1 ++ d ++ 0x0#1 ++ a ++ 0x0#1 ++ b ++ 0x0#5 ++ 0xd#6)
  | .vxor d a b => some (0x2e#6 ++ 0x0#1 ++ d ++ 0x0#1 ++ a ++ 0x0#1 ++ b ++ 0x0#5 ++ 0xe#6)
  | .vshl d a b => some (0x2e#6 ++ 0x0#1 ++ d ++ 0x0#1 ++ a ++ 0x0#1 ++ b ++ 0x0#5 ++ 0xf#6)
  | .vshr d a b => some (0x2e#6 ++ 0x0#1 ++ d ++ 0x0#1 ++ a ++ 0x0#1 ++ b ++ 0x0#5 ++ 0x10#6)
  | .vsra d a b => some (0x2e#6 ++ 0x0#1 ++ d ++ 0x0#1 ++ a ++ 0x0#1 ++ b ++ 0x0#5 ++ 0x11#6)
  | .vdiv d a b => some (0x2e#6 ++ 0x0#1 ++ d ++ 0x0#1 ++ a ++ 0x0#1 ++ b ++ 0x0#5 ++ 0x12#6)
  | .vsqrt d a => some (0x2e#6 ++ 0x0#1 ++ d ++ 0x0#1 ++ a ++ 0x0#5 ++ 0x0#5 ++ 0x13#6)
  | .vexp2 d a => some (0x2e#6 ++ 0x0#1 ++ d ++ 0x0#1 ++ a ++ 0x0#5 ++ 0x0#5 ++ 0x14#6)
  | .vlog2 d a => some (0x2e#6 ++ 0x0#1 ++ d ++ 0x0#1 ++ a ++ 0x0#5 ++ 0x0#5 ++ 0x15#6)
  | .vrcp d a => some (0x2e#6 ++ 0x0#1 ++ d ++ 0x0#1 ++ a ++ 0x0#5 ++ 0x0#5 ++ 0x16#6)
  | .vrsqrt d a => some (0x2e#6 ++ 0x0#1 ++ d ++ 0x0#1 ++ a ++ 0x0#5 ++ 0x0#5 ++ 0x17#6)
  | .vscale d a b => some (0x2e#6 ++ 0x0#1 ++ d ++ 0x0#1 ++ a ++ 0x0#1 ++ b ++ 0x0#5 ++ 0x18#6)
  | .vbcast d a => some (0x2f#6 ++ 0x0#1 ++ d ++ a ++ 0x0#5 ++ 0x0#5 ++ 0x0#6)
  | .vextr d a b => some (0x2f#6 ++ d ++ 0x0#1 ++ a ++ b ++ 0x0#5 ++ 0x1#6)
  | .vinsr d a b => some (0x2f#6 ++ 0x0#1 ++ d ++ a ++ b ++ 0x0#5 ++ 0x2#6)
  | .vperm d a b => some (0x2f#6 ++ 0x0#1 ++ d ++ 0x0#1 ++ a ++ 0x0#1 ++ b ++ 0x0#5 ++ 0x3#6)
  | .vslide d a b c => some (0x2f#6 ++ 0x0#1 ++ d ++ 0x0#1 ++ a ++ 0x0#1 ++ b ++ c ++ 0x4#6)
  | .vzip d a b h => some (0x2f#6 ++ 0x0#1 ++ d ++ 0x0#1 ++ a ++ 0x0#1 ++ b ++ 0x0#4 ++ h ++ 0x5#6)
  | .vunzip d a b h => some (0x2f#6 ++ 0x0#1 ++ d ++ 0x0#1 ++ a ++ 0x0#1 ++ b ++ 0x0#4 ++ h ++ 0x6#6)
  | .vredsum d a => some (0x2f#6 ++ d ++ 0x0#1 ++ a ++ 0x0#5 ++ 0x0#5 ++ 0x7#6)
  | .vredmax d a => some (0x2f#6 ++ d ++ 0x0#1 ++ a ++ 0x0#5 ++ 0x0#5 ++ 0x8#6)
  | .vredmin d a => some (0x2f#6 ++ d ++ 0x0#1 ++ a ++ 0x0#5 ++ 0x0#5 ++ 0x9#6)
  | .vmergek d a b => some (0x2f#6 ++ 0x0#1 ++ d ++ 0x0#1 ++ a ++ 0x0#1 ++ b ++ 0x0#5 ++ 0xa#6)
  | .vcvt d a p => some (0x2f#6 ++ 0x0#1 ++ d ++ 0x0#1 ++ a ++ 0x0#5 ++ 0x0#1 ++ p ++ 0xb#6)
  | .vmov d a => some (0x2f#6 ++ 0x0#1 ++ d ++ 0x0#1 ++ a ++ 0x0#5 ++ 0x0#5 ++ 0xc#6)
  | .vdot d a b c p => some (0x30#6 ++ 0x0#1 ++ d ++ 0x0#1 ++ a ++ 0x0#1 ++ b ++ c ++ p)
  | .mma d a p => some (0x31#6 ++ d ++ a ++ 0x0#5 ++ 0x0#5 ++ 0x0#2 ++ p)
  | .mmv d a b => some (0x31#6 ++ d ++ a ++ b ++ 0x0#5 ++ 0x10#6)
  | .mclr d a => some (0x31#6 ++ d ++ a ++ 0x0#5 ++ 0x0#5 ++ 0x11#6)
  | .mld d a b => some (0x31#6 ++ d ++ a ++ b ++ 0x0#5 ++ 0x12#6)
  | .mst d a b => some (0x31#6 ++ d ++ a ++ b ++ 0x0#5 ++ 0x13#6)
  | .copy d a b => some (0x31#6 ++ d ++ a ++ b ++ 0x4#5 ++ 0x0#6)
  | .fillt d a b => some (0x31#6 ++ d ++ a ++ b ++ 0x4#5 ++ 0x1#6)
  | .gather d a b => some (0x31#6 ++ d ++ a ++ b ++ 0x4#5 ++ 0x2#6)
  | .scatter d a b => some (0x31#6 ++ d ++ a ++ b ++ 0x4#5 ++ 0x3#6)
  | .topk d a b => some (0x31#6 ++ d ++ a ++ b ++ 0x8#5 ++ 0x0#6)
  | .mergel d a b => some (0x31#6 ++ d ++ a ++ b ++ 0x8#5 ++ 0x1#6)
  | .allred d a b => some (0x31#6 ++ d ++ a ++ b ++ 0xc#5 ++ 0x0#6)
  | .bcast d a b => some (0x31#6 ++ d ++ a ++ b ++ 0xc#5 ++ 0x1#6)
  | .tjins d => some (0x31#6 ++ d ++ 0x0#5 ++ 0x0#5 ++ 0x10#5 ++ 0x0#6)
  | .tjapp d a b => some (0x31#6 ++ d ++ a ++ b ++ 0x10#5 ++ 0x1#6)
  | .tjcls d a b => some (0x31#6 ++ d ++ a ++ b ++ 0x10#5 ++ 0x2#6)
  | .tjsmp d a b => some (0x31#6 ++ d ++ a ++ b ++ 0x10#5 ++ 0x3#6)
  | .tjget d a b => some (0x31#6 ++ d ++ a ++ b ++ 0x10#5 ++ 0x4#6)
  | .tjpri d a b => some (0x31#6 ++ d ++ a ++ b ++ 0x10#5 ++ 0x5#6)
  | .tjevi d a => some (0x31#6 ++ d ++ a ++ 0x0#5 ++ 0x10#5 ++ 0x6#6)
  | .tjver d a b => some (0x31#6 ++ d ++ a ++ b ++ 0x10#5 ++ 0x7#6)
  | .tjstat d b => some (0x31#6 ++ d ++ 0x0#5 ++ b ++ 0x10#5 ++ 0x8#6)
  | .eset a er => some (0x32#6 ++ 0x0#5 ++ a ++ er ++ 0x0#6)
  | .eget d er => some (0x32#6 ++ d ++ 0x0#5 ++ er ++ 0x1#6)
  | .tset a t => some (0x33#6 ++ 0x0#5 ++ a ++ 0x0#4 ++ t ++ 0x0#6)
  | .tstate d t => some (0x33#6 ++ d ++ 0x0#5 ++ 0x0#4 ++ t ++ 0x1#6)
  | .twait a t => some (0x33#6 ++ 0x0#5 ++ a ++ 0x0#4 ++ t ++ 0x2#6)
  | .tring a r => some (0x33#6 ++ 0x0#5 ++ a ++ 0x0#5 ++ 0x0#1 ++ r ++ 0x3#6)
  | .ringhd d a r => some (0x33#6 ++ d ++ a ++ 0x0#5 ++ 0x0#1 ++ r ++ 0x4#6)
  | .ringtl d a r => some (0x33#6 ++ d ++ a ++ 0x0#5 ++ 0x0#1 ++ r ++ 0x5#6)
  | .vldt d a t => some (0x33#6 ++ 0x0#1 ++ d ++ a ++ 0x0#4 ++ t ++ 0x6#6)
  | .vstt d a t => some (0x33#6 ++ 0x0#1 ++ d ++ a ++ 0x0#4 ++ t ++ 0x7#6)
  | .tmark a t => some (0x33#6 ++ 0x0#5 ++ a ++ 0x0#4 ++ t ++ 0x8#6)
  | .deadline => none
  | .withdrawn => none
  | .tableWalk _ => none
  | .faultPostDeferred _ => none
  | .fqTail _ _ => none
  | .fqReplayReplay _ _ => none
  | .fqReplayFail _ _ => none
  | .fqReplayDeny _ _ => none
  | .fqReplayGone _ _ => none
  | .cxlRelease _ _ => none
  | .cxlReleaseAck _ _ => none
  | .cxlForcedRelease _ _ => none
  | .dramAccess _ _ _ => none
  | .autoPromotion _ _ => none
  | .refresh _ _ => none
  | .busCodeWindowEnd _ => none
  | .patrolScrub _ _ _ _ => none
  | .chcodePin _ _ => none
  | .chcodeUnpin _ => none
  | .remoteWordAccess _ _ => none
  | .leapArrival _ _ => none
  | .rdcWriteback _ _ _ => none
  | .storeDrain _ _ => none
  | .postedAccept _ => none
  | .farStoreAck _ => none
  | .probeEcho _ _ _ => none
  | .timedStoreArrival _ _ => none
  | .calendarApply _ => none
  | .timedLoadArrival _ _ => none
  | .verdictReturn _ _ => none
  | .tsleepWake _ _ => none
  | .timeExchange _ _ _ => none
  | .domainJoin _ => none
  | .launchStart _ => none
  | .launchEnd _ => none
  | .dispatchPop _ => none
  | .remotePush _ => none
  | .stealRequest _ => none
  | .stealReply _ => none
  | .stealRetry _ => none
  | .messageStart _ => none
  | .fillDelivery _ _ => none
  | .completionDelivery _ => none
  | .streamElementLoad _ _ _ => none
  | .withdrawalNotice _ => none
  | .joinReregistration _ _ => none
  | .engineOpBegin _ _ => none
  | .mmaStep _ => none
  | .engineOpComplete _ _ => none
  | .collectiveCombine _ _ => none
  | .preempt _ => none
  | .saveComplete _ => none
  | .resume _ => none
  | .pondDestroy _ _ => none
  | .launch _ => none
  | .setlevel _ => none
  | .qfence _ => none
  | .signal _ => none
  | .waitval _ => none
  | .waitvalSatisfied _ => none
  | .pondcfg _ => none
  | .pondcfgDestroy _ => none
  | .resync _ => none
  | .qtail _ _ => none
  | .tcap _ _ => none
  | .registerWrite _ _ => none
  | .hostAccess _ _ _ => none
  | .throttleStepChange _ _ => none
  | .domainBringup _ _ _ => none
  | .linkFailure _ => none
  | .securityAlarm => none
  | .attestationRequest _ => none
  | .coldReset => none
  | .warmReset => none
  | .illop _ => none
  | .qcfg _ _ => none
  | .spawnRequest _ => none
  | .joinEvent _ => none
  | .rerouteComplete => none
  | .darningMapEntry _ _ => none

end Sys2Proof
end

