-- ==== Sys2Proof/Machine/State.lean ====
section
/-! DEFINITION. The state of the machine as plain data: every piece of state the spec gives the device, and the state after
reset. The list with rule numbers and reset values is INVENTORY.md, State. -/

namespace Sys2Proof.Machine

/-- A table of records by number, keys strictly rising. -/
abbrev Tab (α : Type) := List (Nat × α)

/-- Bytes by address, keys strictly rising. For memories an unlisted byte reads as zero and no listed byte is zero (R68, R72). -/
abbrev Memory := List Host.Cell

/-- What stops a step. No exception of the spec is among these: those are taken. -/
inductive Fault where
  /-- Raised by `step` when the chosen turn names a core, or as a device step an instruction, that the device does not have.
  Safe: the machine stops where the device would not have made that step. -/
  | noSuchAgent
  deriving DecidableEq, Repr

/-- Why an instruction has no meaning here. -/
inductive Refusal where
  /-- Raised by `exec` for an instruction whose meaning is not written yet. Safe. -/
  | notModelled (mnemonic : String)
  deriving DecidableEq, Repr

/-- The state of a g, f or v register (R221). A handle is a 12-bit tag; `report` tells a delivery report's from an engine's. -/
inductive RState where
  | full
  | empty
  | pending (tag : BitVec 12) (report : Bool)
  | dead
  deriving DecidableEq, Repr

/-- A register: value, state, and the scope of the acquire its first reader still owes (R124, R132). -/
structure Reg (w : Nat) where
  val : BitVec w
  st  : RState
  owe : Option Nat
  deriving DecidableEq, Repr

/-- The access kinds of R30, in the order of their codes. -/
inductive Kind where
  | load | store | fetch | atomic | timedLoad | timedStore | engineRead | engineWrite
  deriving DecidableEq, Repr

/-- Where a line is performed: a core of this device, a control block of this device, or another device (R80). -/
inductive Place where
  | core (c : Nat)
  | control
  | device (d h : Nat)      -- the device's number, and the die there that homes the line
  deriving DecidableEq, Repr

/-- A leaf held in a TLB (R22, R26): the raw entry, its page (VA >> 16 down to the page's first 64 KiB), size and level. -/
structure TlbEnt where
  ctx   : Nat
  va    : Nat          -- first virtual address of the page
  level : Nat          -- level of the leaf: 0, 1 or 2
  leaf  : Word
  deriving DecidableEq, Repr

/-- What a translated access carries on: physical address, place of performance, latency class and ROS of the leaf. -/
structure Access where
  pa    : Nat
  place : Place
  lc    : BitVec 2
  ros   : Bool
  deriving DecidableEq, Repr

/-- An entry of a store FIFO (R110). -/
structure FifoEntry where
  va    : Nat
  ctx   : Nat
  acc   : Access
  data  : List Byte
  timed : Option Word      -- the time of a timed store
  pol   : Bool             -- s.late.POL at entry (R149)
  sent  : Bool             -- on its way to the calendar
  late  : Option Bool      -- the verdict, once given
  deriving DecidableEq, Repr

/-- What a memory request asks of the home, and where the answer goes (R81, R115, R148). -/
inductive Dest where
  | none
  | g (n : Nat) (bytes : Nat) (signed : Bool)
  | f (n : Nat) (bytes : Nat)
  | v (n : Nat)
  | element (str size va : Nat) (a : Access)   -- the next element of a write stream, its store checked at issue (R248, R254)
  deriving DecidableEq, Repr

/-- The integer and floating atomics (R268 to R270). -/
inductive AmoOp where
  | add | and | or | xor | min | max | minn | maxn | swap | cas | fadd | fmax
  deriving DecidableEq, Repr

/-- A request carried to a home, awaited by its strand. -/
inductive Request where
  | read (a : Access) (n : Nat) (dest : Dest) (got : List Byte)
  | amo (a : Access) (n : Nat) (op : AmoOp) (b cmp : Word) (dest : Dest) (acqScope : Option Nat)
  | timedRead (a : Access) (n : Nat) (t : Word) (dest : Dest) (arrived : Bool)
  deriving DecidableEq, Repr

/-- Why a strand is PARKED (R155, R420). -/
inductive Park where
  | reg (cls n : Nat)               -- a source that is EMPTY or PENDING
  | queue                           -- an empty pipeline queue, or one whose oldest place is held
  | queueFull                       -- a full pipeline queue
  | stream (n : Nat)                -- an element not loaded yet
  | fifoFull
  | fifoEmpty                       -- an atomic, CCTL, TLBINV, QUIT, TSET before it acts
  | covered (pa n : Nat)            -- a load waiting for covering FIFO entries
  | release (scope : Nat)
  | relKept (scope : Nat)           -- a release that no boundary report abandons (R420): before a strand's creation, a JVAL, an atomic or a leap
  | path (core : Nat)               -- a full posted path
  | engine                          -- a full engine queue, pegs, an overlapping FIFO entry
  | tile (t : Nat)                  -- a tile, its owner mark or a ring
  | ring (r : Nat)
  | kHeld (k : Nat)                 -- an MFK behind an MTK, or an MTK behind either
  | await (mask : BitVec 32)
  | latch (mask : BitVec 5)
  | barrier (unit : Nat) (phase : BitVec 32)
  | barArrived (unit : Nat) (phase : BitVec 32)   -- a BAR whose arrival is counted
  | stopped                         -- stopped by pre-emption in a park: the instruction issues again at resume (R400, R403)
  | sleep (t : Word)
  | reroute                         -- routes being recomputed (R415)
  | walk (va : Nat) (kind : Kind) (ras upd : Bool)   -- `upd`: a walk made only for an update of R25
  | fault (die e : Nat) (va : Nat) (kind : Kind) (ras : Bool)
  | faultWait (die : Nat) (va : Nat) (kind : Kind) (reason level : Nat) (ras : Bool)
  | answer                          -- an answer already sent for
  | timedLoad (r : Request)         -- an LDT carried to its home
  | memory (r : Request)            -- a remote word access or atomic carried to its home
  | tlbinv (a : Word) (ctx : Nat) (all : Bool) (kind : Nat)
  deriving DecidableEq, Repr

/-- Slot states (R155). -/
inductive SlotState where
  | free | ready | reserved
  | parked (p : Park)
  deriving DecidableEq, Repr

/-- A stream descriptor with position, binding and loaded elements (R244 to R251). -/
structure Stream where
  base   : BitVec 57
  stride : Word
  count  : BitVec 32
  esize  : BitVec 2
  wr     : Bool
  cfg    : Bool
  done   : Bool
  pos    : BitVec 32
  bound  : Option (Nat × Nat)      -- class (1 f, 2 v) and register
  loaded : List VWord              -- elements performed and not yet in the register
  failed : Option (Option (BitVec 8 × Word))   -- the next element's trap, or none inside for a translation fault
  deriving DecidableEq, Repr

/-- A strand's context (R160, R403), with the slot's own state and generation. -/
structure Strand where
  st      : SlotState
  gen     : BitVec 8
  pc      : Word
  g       : Vector (Reg 64) 32
  f       : Vector (Reg 64) 32
  v       : Vector (Reg 256) 16
  dt      : Bool
  wt      : Bool
  bm      : Bool
  hu      : Bool
  sup     : Bool
  efmt    : Word
  fcr     : Word
  dmask   : Word
  vmask   : BitVec 16
  tbm     : Word
  lane    : Word
  nlane   : Word
  tvec    : Word
  epc     : Word
  einfo   : Word
  cause   : Word
  rasp    : Word
  rasb    : Word
  ras     : List Word           -- return-address store, oldest first
  wd      : Word
  rng     : Word
  launch  : BitVec 24
  dl      : BitVec 2
  mig     : BitVec 3
  late    : Word
  hpm     : Vector Word 8
  latch   : BitVec 5
  fifo    : List FifoEntry      -- oldest first
  exits   : Nat                 -- exit count (R114)
  eregs   : Vector Word 44      -- e0.0-5, e1.0-26, e2.0-2, e3.0-3, e4.0-3
  streams : Vector Stream 8
  prods   : List Nat            -- producer list (R391), at most four
  report  : Option Word         -- pending late report: its time (R150)
  wdRep   : Bool                -- pending withdrawal report (R390)
  mrec    : Option (Nat × Nat)  -- LASTPC index and LASTHOME (R88)
  seq     : Nat                 -- ordered-atomic sequence number (R271)
  lastCyc : Option Nat          -- cycle of its previous issue (R157)
  hold    : Option (BitVec 12 × Nat)   -- an FWD that waits: the handle whose completion it redirects, the register that is DEAD since (R242)
  rereg   : Nat                 -- joins still to answer a re-registration (R391)
  leapt   : Option Word         -- the instruction whose access caused its leap, until it has made that access (R88)
  going   : Option (Nat × Nat)  -- core and slot reserved for a leap that has been chosen (R89)
  counted : Option (Word × Nat × BitVec 32)   -- a BAR at this PC whose arrival in this phase of a unit is counted, saved in its wait (R276)
  popped  : List (Nat × Word)   -- what its present instruction has popped from the queues, by port (R168, R396)
  acq     : List (Nat × Nat × Nat)   -- owed acquires its present instruction has made: class, register, scope (R124)
  deriving DecidableEq, Repr

/-- A peg (R129). -/
structure Peg where
  w    : Bool
  ctx  : Nat
  base : Nat
  len  : Nat
  op   : BitVec 8                 -- the low bits of its operation's tag, which no other operation of the core shares
  deriving DecidableEq, Repr

/-- Where an engine operation stands. -/
inductive OpState where
  | queued
  | begun
  | walk                   -- waiting for a table walk
  | fault (die e : Nat)    -- parked as an engine waiter (R34)
  | faultWait (die vpage : Nat)   -- its fault waits for a free entry (R32)
  | ready (ok : Bool)      -- resumed after a fault: ok to retry, else complete with error
  deriving DecidableEq, Repr

/-- Where a delivery report goes (R234). -/
structure Report where
  core : Nat
  slot : Nat
  gen  : BitVec 8
  reg  : Nat
  tag  : BitVec 12
  deriving DecidableEq, Repr

/-- What a pond turn leaves to be written after it (R363): the status word, byte runs by virtual address, holds, a tile image. -/
structure OpResult where
  status : Nat
  count  : Nat
  writes : List (Nat × List Byte)
  unit   : Nat                    -- writes for each counted unit
  holds  : List Nat               -- held slots of a TJGET; the devices of a collective
  tile   : List Byte
  deriving DecidableEq, Repr

/-- A collective whose group has begun combining (R351, R355): the participants of other devices, and this one's list and source once they
have been read. -/
structure Comb where
  far : List FarPart
  got : Option (List Nat × List Nat)
  deriving DecidableEq, Repr

/-- An engine operation with its snapshot (R326, R327). -/
structure EngOp where
  eng   : Nat
  cmd   : Nat
  tag   : BitVec 12
  slot  : Nat
  gen   : BitVec 8
  dest  : Nat                     -- g register of the handle; 0 for none
  fwd   : Option (Word × Option Report)   -- fill address, and the report owed for it (R242)
  regs  : List Word
  ga    : Word
  gb    : Word
  efmt  : Word
  lane  : Word
  key   : BitVec 24
  ctx   : Nat
  user  : Bool
  lvl   : Nat
  scope : Nat
  z     : Nat                     -- TJAPP's step size taken at issue, 0 with no store there (R369)
  st    : OpState
  step  : Nat                     -- units done
  zero  : Bool                    -- every byte its fill has written is zero (R74)
  fill  : Option Nat              -- tile it fills
  claim : Option (Nat × Nat)      -- ring and position claimed for filling (R79)
  src   : Option Nat              -- tile it drains
  pop   : Option Nat              -- ring whose head it drains (R79)
  owes  : List Nat                -- rings with an owed unread pop (R337)
  takes : List Nat                -- rings whose head tiles the present step of an MMA is reading (R335)
  part  : List Nat                -- the bytes it has written of an aligned 8-byte piece that is not whole yet (R107)
  comb  : Option Comb
  cancel : Option Nat             -- STATUS to complete with: 1 error, 2 cancelled, 3 withdrawn
  joins : List Nat                -- join records it is registered with (R386)
  res   : Option OpResult
  deriving DecidableEq, Repr

/-- A task record (R164). -/
structure TaskRec where
  pc    : Word
  a     : List Word
  jref  : Nat
  pmask : BitVec 4
  cons  : Bool
  prod  : Bool
  opidx : BitVec 2
  key   : BitVec 24               -- LGEN and LID
  deriving DecidableEq, Repr

/-- What waits in a message buffer (R167): a message, or a fill with the scope its reader acquires at and its report. -/
inductive Msg where
  | msg (r : TaskRec) (scope : Nat)
  | fill (slot : Nat) (gen : BitVec 8) (cls reg : Nat) (val : Word) (scope : Nat) (rep : Option Report)
  deriving DecidableEq, Repr

/-- A deferred floating atomic (R271). -/
structure OaEntry where
  acc  : Access
  n    : Nat
  max  : Bool
  b    : Word
  lane : Word
  seq  : Nat
  core : Nat
  slot : Nat
  deriving DecidableEq, Repr

/-- A timed store at its home: accepted or waiting (R145, R146). -/
structure CalEntry where
  t    : Word
  acc  : Access
  va   : Nat
  ctx  : Nat
  data : List Byte
  pol  : Bool
  core : Nat
  slot : Nat
  gen  : BitVec 8
  deriving DecidableEq, Repr

/-- A timed load waiting at its home (R148): what it reads, its time, its strand, and its value once performed (none inside when it met
an uncorrectable sector). -/
structure LoadWait where
  acc  : Access
  n    : Nat
  t    : Word
  core : Nat
  slot : Nat
  gen  : BitVec 8
  got  : Option (Option (List Byte))
  deriving DecidableEq, Repr

/-- A die of another device as far as this one's timed accesses need it (R137, R145, R148): its time unit, the timed stores accepted and
waiting there, and the timed loads that wait there. -/
structure Far where
  tu    : Nat
  cal   : List CalEntry
  wait  : List CalEntry
  loads : List LoadWait
  deriving DecidableEq, Repr

/-- An entry of a pipeline queue: a value, or the place that an instruction carried away holds for its result (R168). -/
inductive QEntry where
  | word (x : Word)
  | held (slot : Nat)
  deriving DecidableEq, Repr

/-- A pipeline group (R168). -/
structure Pipe where
  mask : BitVec 16
  q    : Vector (List QEntry) 4
  deriving DecidableEq, Repr

/-- A thief's round (R166). -/
inductive Thief where
  | idle
  | asking (victim : Nat)
  | got (victim : Nat) (r : Option TaskRec)
  | waiting (cyc : Nat)
  deriving DecidableEq, Repr

/-- One core (R73, R78, R129, R145, R157, R165, R167, R217, R326, R336). -/
structure Core where
  k       : Vector Word 16
  kq      : List (Nat × Nat × Bool)   -- MTKs issued and not yet written, and MFKs held behind them: register, slot, whether it writes (R217)
  tiles   : Vector Word 64
  owners  : BitVec 64
  rings   : Vector Word 16
  ringWd  : List (Nat × Nat)      -- withdrawn positions
  cal     : List CalEntry         -- accepted, in order of acceptance
  calWait : List CalEntry         -- waiting arrivals
  loads   : List LoadWait         -- timed loads waiting here
  pegs    : Vector (Option Peg) 16
  ops     : List EngOp            -- in issue order
  nextTag : BitVec 12
  acc     : Memory                -- byte 1024a + i of acc0 to acc7
  msgs    : List Msg              -- in arrival order
  held    : List Msg              -- fills held outside the message buffer for resumed strands, older than those in it (R224)
  late    : List Msg              -- of a saved core: the fills that have come since it was saved (R224)
  deque   : List TaskRec          -- bottom first
  hamper  : Nat                   -- hamper blocks in use by the deque
  oab     : List OaEntry
  oaBlocks : List (List OaEntry)  -- spilled blocks, newest first
  pipes   : List Pipe
  tlb     : List TlbEnt
  fetchBuf : Tab (List Byte)      -- sector number and its 64 bytes
  histAt  : Nat                   -- how many replaced words were on record when its fetch buffer was last emptied (R98)
  pred    : Tab Nat               -- migration counters; unlisted: 1
  cyc     : Nat
  last    : Nat                   -- slot that issued last
  launch  : Option (BitVec 24)
  saving  : Bool
  thief   : Thief
  slots   : Vector Strand 16
  deriving DecidableEq, Repr

/-- A line of a remote-data cache (R91). -/
structure RdcLine where
  home    : Nat                   -- the line's home core, by the leaf of the access that allocated it (R11 to R15)
  clean   : Tab Byte              -- by offset in the line
  dirty   : Tab Byte
  writers : Word
  ros     : Bool
  deriving DecidableEq, Repr

/-- A fault record (R30), with whether it is outstanding. -/
structure FqRec where
  vpage : Nat
  ctx   : Nat
  kind  : Nat
  reason : Nat
  level : Nat
  kinds : BitVec 8
  flags : BitVec 8
  fcore : Nat
  fslot : Nat
  fgen  : BitVec 8
  waiters : BitVec 32
  seq   : Word
  open_ : Bool
  deriving DecidableEq, Repr

/-- A fault waiting for a free entry (R32). -/
structure FqWait where
  r   : FqRec
  deriving DecidableEq, Repr

/-- A queued walk request (R27): a strand's, or an engine operation's. -/
structure WalkReq where
  core : Nat
  slot : Nat
  op   : Option (BitVec 12)
  va   : Nat
  kind : Kind
  ras  : Bool
  upd  : Bool
  ctx  : Nat
  user : Bool
  deriving DecidableEq, Repr

/-- A barrier unit (R272). -/
structure Barrier where
  owner   : BitVec 24
  init    : Nat
  scope   : Nat
  count   : Nat
  arrived : Nat
  phase   : BitVec 32
  deriving DecidableEq, Repr

/-- A watchpoint (R278 to R281). -/
structure Watch where
  owner   : BitVec 24
  core    : Nat
  lo      : Nat
  len     : Nat
  value   : Word
  mask    : Word
  mode    : BitVec 2
  oneshot : Bool
  rec_    : TaskRec
  armed   : Bool
  busy    : Bool
  deriving DecidableEq, Repr

/-- Slot states of a pond store (R360). -/
inductive PondSt where
  | free | open_ | closed | held
  deriving DecidableEq, Repr

/-- A slot of a pond store (R360). -/
structure PondSlot where
  st     : PondSt
  gen    : BitVec 8
  p      : Nat
  steps  : Nat
  minver : Nat
  holds  : Nat
  deriving DecidableEq, Repr

/-- A pond store (R356, R378). -/
structure Pond where
  ctx      : Nat
  lcap     : Nat
  maxsteps : Nat
  obs      : Nat
  base     : Nat
  version  : Nat
  lag      : Nat
  smpseq   : Word
  inserts  : Word
  draws    : Word
  gones    : Word
  slots    : Tab PondSlot
  dying    : Option Nat           -- queue whose destroy packet waits
  stale    : List Nat             -- sectors of its region with dirty bytes from before it, which their caches discard (R419)
  deriving DecidableEq, Repr

/-- Lock states of a time unit (R141). -/
inductive Lock where
  | free | locked | holdover
  deriving DecidableEq, Repr

/-- One compute die (R26, R33, R91, R144, R272, R278, R356, R418). Time is kept in ten-thousandths of a nanosecond. -/
structure Die where
  tu      : Nat
  rem     : Nat                   -- time passed that its slewing has not used yet (R138)
  aim     : Int                   -- what is left to slew away of the offset last measured, ten-thousandths of a ns (R141)
  lock    : Lock
  good    : Nat                   -- consecutive successful exchanges
  bad     : Nat                   -- consecutive failed exchanges
  offs    : Int                   -- last measured offset, ns
  holdAt  : Nat                   -- time unit when HOLDOVER was entered
  holdDom : Bool                  -- DOM held then
  dom     : Bool
  late    : Word
  drop    : Word
  tlb     : List TlbEnt
  walks   : List WalkReq
  fq      : Tab FqRec
  fqHead  : BitVec 11
  fqTail  : BitVec 11
  fqSeq   : Word
  fqWait  : List FqWait
  rdc     : Tab RdcLine           -- by line number (PA >> 8)
  bars    : Tab Barrier
  wps     : Tab Watch
  ponds   : Tab Pond
  tstep   : BitVec 2
  tcap    : BitVec 2
  ecore   : Word
  estk    : Vector Word 4
  srce    : Word
  srue    : Word
  deriving DecidableEq, Repr

/-- A near-directory entry (R43). -/
structure NearRow where
  frow   : Nat
  dirty  : Bool
  pin    : Bool
  soft   : Bool                   -- ORIGIN
  age    : Nat
  deriving DecidableEq, Repr

/-- A subarray's near directory and sequence counter (R43, R54). -/
structure Near where
  rows : Tab NearRow              -- by near row, 0 to 31
  next : Nat
  deriving DecidableEq, Repr

/-- A bank: candidate table, remembered row and whether it was left open (R52, R56). -/
structure Bank where
  cands : List (Nat × Nat)        -- row within bank and time, ns
  mem   : Option (Nat × Bool)
  pend  : List Nat                -- rows to auto-promote after their triggering accesses (R53)
  deriving DecidableEq, Repr

/-- A DRAM channel (R43, R52, R55, R58 to R61). -/
structure Channel where
  near   : Tab Near               -- by bank * 96 + subarray
  banks  : Tab Bank
  pred   : Tab Nat                -- row-buffer counters; unlisted: 2
  cur    : BitVec 2
  pcode  : BitVec 2
  pin    : Bool
  pend   : Option (BitVec 2)      -- code to switch to after the next refresh
  armed  : Option (BitVec 2)      -- code to switch to at the next burst
  shadow : List Nat               -- running counts
  cnt    : List Nat               -- counts of the last completed window
  beats  : Nat
  streak : Option (BitVec 2)      -- best of the previous window, when it qualified
  prom   : Word
  evic   : Word
  nfull  : Word
  ce     : Word
  ue     : Word
  ueAddr : Word
  deriving DecidableEq, Repr

/-- An operation on a posted path (R114, R118). -/
inductive PostedOp where
  | msg (r : TaskRec) (dst : Nat) (scope : Nat)
  | push (r : TaskRec) (dst : Nat) (scope : Nat)
  | fill (dst slot : Nat) (gen : BitVec 8) (cls reg : Nat) (val : Word) (scope : Nat) (rep : Option Report)
  | store (e : FifoEntry)
  deriving DecidableEq, Repr

/-- A posted operation with its sender. -/
structure Posted where
  core : Nat
  slot : Nat
  gen  : BitVec 8
  key  : BitVec 24
  op   : PostedOp
  deriving DecidableEq, Repr

/-- A push from elsewhere on its way to a core's deque (R165): a SPAWNQ accepted there, a consumer record or a watchpoint's. -/
structure Push where
  dst  : Nat
  r    : TaskRec
  wp   : Option (Nat × Nat)       -- die and index of the watchpoint
  here : Bool                     -- it has arrived, and waits at the core for room
  src  : Option (Nat × Nat × BitVec 8)   -- the core, slot and generation of a SPAWNQ that waits there, performed once accepted (R118)
  deriving DecidableEq, Repr

/-- A completion word on its way (R225): to a strand's register, with the scope of its release. -/
structure Completion where
  core  : Nat
  slot  : Nat
  gen   : BitVec 8
  reg   : Nat
  tag   : BitVec 12
  val   : Word
  scope : Option Nat
  key   : BitVec 24               -- the strand's launch: a saved one receives it when it resumes (R224)
  deriving DecidableEq, Repr

/-- A join form carried to the join's home (R382). -/
inductive JoinForm where
  | new (cfg pc : Word)
  | reg (idx kind : Nat) (who : BitVec 23)
  | val (idx : Nat) (x : Word)
  | drop (idx : Nat)
  | chk (idx : Nat)
  | free
  | settle (core slot : Nat) (gen : BitVec 8)
  | done (who : Nat)                -- an engine operation has completed (R389)
  | rereg (old new : Nat)
  deriving DecidableEq, Repr

/-- A join event on its way, with the strand that awaits it and its destination register. -/
structure JoinReq where
  core : Nat
  slot : Nat
  gen  : BitVec 8
  d    : Nat
  word : Word                     -- the join word
  pa   : Nat                      -- the record
  form : JoinForm
  await_ : Bool
  key  : BitVec 24                -- the launch: a request for a saved core waits (R404)
  deriving DecidableEq, Repr

/-- A SPAWN request on its way (R228). -/
structure SpawnReq where
  core : Nat
  slot : Nat
  gen  : BitVec 8
  d    : Nat
  dst  : Nat
  r    : TaskRec
  scope : Nat
  deriving DecidableEq, Repr

/-- A withdrawal notice (R389). -/
structure Notice where
  core  : Nat
  slot  : Nat
  gen   : BitVec 8
  pa    : Nat
  opidx : BitVec 2
  key   : BitVec 24               -- the launch: a saved strand is told when it resumes
  deriving DecidableEq, Repr

/-- A strand in the middle of a leap (R90). -/
structure Leap where
  src  : Nat
  dst  : Nat
  slot : Nat
  ctx  : Strand
  d    : Option Nat               -- LEAP's destination register
  at_  : Nat                      -- the source die's time unit at departure (R138)
  old  : Nat                      -- WHO of the strand before it left (R391)
  deriving DecidableEq, Repr

/-- What a launch is doing. -/
inductive LaunchSt where
  | waiting | running | saving | saved
  deriving DecidableEq, Repr

/-- A launch (R159, R412). -/
structure Launch where
  st    : LaunchSt
  q     : Nat
  pkt   : Nat                     -- packet index in its queue
  order : Nat                     -- order in which packets were taken
  prio  : Nat
  slots : BitVec 16
  lid   : BitVec 16
  gen   : BitVec 8
  ctx   : Nat
  priv  : Bool
  sdom  : Nat
  level : Nat
  hblk  : Nat
  efmt  : Word
  logn  : Nat
  first : Nat
  entry : Word
  gp    : Word
  ssz   : Nat
  stack : Nat
  tvec  : Word
  seed  : Word
  save  : Nat
  abort : Option (Word × Word × Word × Word)   -- cause, epc, einfo, sid of the first strand to abort
  nabort : Nat
  err   : Bool
  cores : Tab Core                -- what the save area's layout has no place for, while saved
  deriving DecidableEq, Repr

/-- A command queue (R409, R410). -/
structure Queue where
  base  : Word
  cfg   : Word
  comp  : Word
  head  : Nat
  tail  : Nat
  level : Nat
  busy  : Option Nat              -- packet taken up and not yet taken
  open_ : List Nat                -- LAUNCH packets taken and not complete
  deriving DecidableEq, Repr

/-- A CXL release in progress (R37, R38). -/
structure CxlRel where
  base   : Nat
  size   : Nat
  forced : Bool
  deriving DecidableEq, Repr

/-- A line that a home cache holds (R85): its core, and a valid bit for each sector. -/
structure HomeLine where
  core  : Nat
  valid : BitVec 4
  deriving DecidableEq, Repr

/-- What the home caches and memory-side caches hold beside dirty bytes (R64, R83, R85), by line number (PA >> 8), and the values that
instruction words had before they were written (R98): word number and old value, oldest first. -/
structure Held where
  home : Tab HomeLine
  msc  : Tab (BitVec 4)           -- valid sectors
  hist : List (Nat × BitVec 32)
  deriving DecidableEq, Repr

/-- An access of a controller, by a cache or past them, that is not performed yet (R51): the sector's address, its latency class, whether it
writes, and the sector's bytes that it moves (R60). -/
structure DramReq where
  pa : Nat
  lc : BitVec 2
  wr : Bool
  data : List Byte
  deriving DecidableEq, Repr

/-- The device. -/
structure State where
  -- the model's own
  cur    : Nat × Nat              -- core and slot whose instruction is performed
  agenda : List Turn
  tick   : Nat                    -- how many free values have been taken
  -- memory
  mem    : Memory                 -- by 57-bit physical address: DRAM, scratchpad, CXL devices, other devices
  farOld : Tab (List Byte)        -- what bytes of other devices' DRAM and CXL windows held before writes that their caches may still hold (R100)
  homeDirty : Tab Byte            -- masked bytes of the home caches
  mscDirty  : Tab Byte            -- dirty bytes of the memory-side caches
  clean  : Held                   -- valid sectors of those caches, and replaced instruction words
  badSectors : List Nat           -- uncorrectable sectors of the authoritative DRAM copies, by first address
  badFar : List Nat               -- uncorrectable sectors of far rows that lie under a near copy (R44)
  badWords : List (Option Nat × Nat)   -- bad 8-byte words (R101): none home cache or scratchpad, some d a die's RDC; word number
  hostMem : Memory
  hostReads : List (Nat × Option (List Byte))   -- what the host's reads have been answered, oldest first (R136)
  ctxTab : Tab Word               -- context table; unlisted: 0
  -- device
  devid  : BitVec 11
  inDom  : Bool
  gm     : Bool
  reach  : List Nat               -- devices reachable
  reroute : Bool
  linkErr : Word
  links  : BitVec 18              -- links up
  failed : BitVec 16
  extents : List (Nat × Nat)      -- backed CXL extents: window offset, size
  cxlRels : List CxlRel
  darns  : Tab (List Nat)         -- active map entries by stack
  darnFlash : Tab (List Nat)
  alarm  : Bool
  keys   : Bool                   -- key store holds keys
  debugLocked : Bool
  haltPolicy : Bool
  linksDown : Bool
  attest : List (List Byte × Bool)   -- records written: body, signed
  msix   : List Nat
  ref    : Nat                    -- package reference, ten-thousandths of a ns
  ready  : Bool                   -- every die has been LOCKED since the last reset (R139)
  held   : Nat                    -- elapsed time for which the time units still hold (R143)
  gmTaken : Bool                  -- the device has taken the grandmaster's time since it came into its domain (R141, R143)
  gmLock : Bool                   -- the service die is locked to the grandmaster (R139, R141)
  gmGood : Nat                    -- its consecutive successful exchanges over the links
  gmBad  : Nat                    -- and its consecutive failed ones
  refAim : Int                    -- what is left to slew away of the package reference's offset last measured, ten-thousandths of a ns (R141)
  refRem : Nat                    -- time passed that its slewing has not used yet (R138)
  gens   : Tab (BitVec 8)         -- launch generation by id
  taken  : Nat                    -- packets taken so far
  launches : Tab Launch           -- by generation and id
  queues : Tab Queue
  dies   : Vector Die 4
  chans  : Tab Channel            -- by die * 64 + channel
  dram   : List DramReq           -- accesses on their way to the controllers
  cores  : Tab Core
  fars   : Tab Far                -- dies of other devices that timed accesses have reached, by device * 4 + die
  -- in flight
  posted : List Posted            -- in order of placing
  pushes : List Push
  comps  : List Completion
  joins  : List JoinReq
  spawns : List SpawnReq
  notices : List Notice
  leaps  : List Leap
  deriving DecidableEq, Repr

/-- A register at a strand's start (R160): DEAD; value DESIGN CHOICE zero (log 7). -/
def Reg.dead (w : Nat) : Reg w := ⟨0, .dead, none⟩

/-- A FULL register. -/
def Reg.full {w : Nat} (x : BitVec w) : Reg w := ⟨x, .full, none⟩

/-- A stream descriptor never configured (R246). -/
def Stream.none : Stream := ⟨0, 0, 0, 0, false, false, false, 0, Option.none, [], Option.none⟩

/-- A slot after reset: FREE, generation 0 (R155), the other fields at their start values (R160; log 7). -/
def Strand.reset : Strand where
  st := .free
  gen := 0
  pc := 0
  g := (Vector.replicate 32 (Reg.dead 64)).set 0 (Reg.full 0)
  f := Vector.replicate 32 (Reg.dead 64)
  v := Vector.replicate 16 (Reg.dead 256)
  dt := false
  wt := false
  bm := false
  hu := false
  sup := false
  efmt := 0
  fcr := 0
  dmask := 0x0000FFFFF000FF00#64
  vmask := 0
  tbm := 0
  lane := 0
  nlane := 0
  tvec := 0
  epc := 0
  einfo := 0
  cause := 0
  rasp := 0
  rasb := 0
  ras := []
  wd := 0
  rng := 0
  launch := 0
  dl := 0
  mig := 0
  late := 0
  hpm := Vector.replicate 8 0
  latch := 0
  fifo := []
  exits := 0
  eregs := Vector.replicate 44 0
  streams := Vector.replicate 8 Stream.none
  prods := []
  report := none
  wdRep := false
  mrec := none
  seq := 0
  lastCyc := none
  hold := none
  counted := none
  rereg := 0
  leapt := none
  going := none
  popped := []
  acq := []

/-- A core after reset (R72, R102, R154, R416). -/
def Core.reset : Core where
  k := Vector.replicate 16 0
  kq := []
  tiles := Vector.replicate 64 0
  owners := 0
  rings := Vector.replicate 16 0
  ringWd := []
  cal := []
  calWait := []
  loads := []
  pegs := Vector.replicate 16 none
  ops := []
  nextTag := 0
  acc := []
  msgs := []
  held := []
  late := []
  deque := []
  hamper := 0
  oab := []
  oaBlocks := []
  pipes := []
  tlb := []
  fetchBuf := []
  histAt := 0
  pred := []
  cyc := 0
  last := 15
  launch := none
  saving := false
  thief := .idle
  slots := Vector.replicate 16 Strand.reset

/-- A die after cold reset (R139, R144, R358, R416). -/
def Die.reset : Die where
  tu := 0
  rem := 0
  aim := 0
  lock := .free
  good := 0
  bad := 0
  offs := 0
  holdAt := 0
  holdDom := false
  dom := false
  late := 0
  drop := 0
  tlb := []
  walks := []
  fq := []
  fqHead := 0
  fqTail := 0
  fqSeq := 0
  fqWait := []
  rdc := []
  bars := []
  wps := []
  ponds := []
  tstep := 0
  tcap := 0
  ecore := 0
  estk := Vector.replicate 4 0
  srce := 0
  srue := 0

/-- A channel after cold reset (R57, R61, R68). -/
def Channel.reset : Channel where
  near := []
  banks := []
  pred := []
  cur := 0
  pcode := 0
  pin := false
  pend := none
  armed := none
  shadow := [0, 0, 0, 0]
  cnt := [0, 0, 0, 0]
  beats := 0
  streak := none
  prom := 0
  evic := 0
  nfull := 0
  ce := 0
  ue := 0
  ueAddr := 0

/-- A command queue after reset: disabled (R416; log 8). -/
def Queue.reset : Queue := ⟨0, 0, 0, 0, 0, 0, none, []⟩

/-- The machine right after cold reset (R416). -/
def State.reset : State where
  cur := (0, 0)
  agenda := []
  tick := 0
  mem := []
  farOld := []
  homeDirty := []
  mscDirty := []
  clean := ⟨[], [], []⟩
  badSectors := []
  badFar := []
  badWords := []
  hostMem := []
  hostReads := []
  ctxTab := []
  devid := 0
  inDom := false
  gm := false
  reach := []
  reroute := false
  linkErr := 0
  links := BitVec.allOnes 18
  failed := 0
  extents := []
  cxlRels := []
  darns := []
  darnFlash := []
  alarm := false
  keys := true
  debugLocked := false
  haltPolicy := false
  linksDown := false
  attest := []
  msix := []
  ref := 0
  ready := false
  held := 0
  gmTaken := false
  gmLock := false
  gmGood := 0
  gmBad := 0
  refAim := 0
  refRem := 0
  gens := []
  taken := 0
  launches := []
  queues := []
  dies := Vector.replicate 4 Die.reset
  chans := []
  dram := []
  cores := []
  fars := []
  posted := []
  pushes := []
  comps := []
  joins := []
  spawns := []
  notices := []
  leaps := []

end Sys2Proof.Machine
end

