-- ==== Sys2Proof/Machine/Ops.lean ====
section
/-! DEFINITION. Named operations over the state: tables, memories, cores and strands; how an instruction's body ends; taking a trap
and returning from one (R394 to R399); retiring. -/

namespace Sys2Proof.Machine

/-! Tables -/

/-- The record of a number, if listed. -/
def tget {α : Type} : Tab α → Nat → Option α
  | [], _ => none
  | (k, v) :: t, n => if n = k then some v else if n < k then none else tget t n

/-- List a record under a number, in its place. -/
def tset {α : Type} : Tab α → Nat → α → Tab α
  | [], n, x => [(n, x)]
  | (k, v) :: t, n, x =>
    if n < k then (n, x) :: (k, v) :: t else if n = k then (n, x) :: t else (k, v) :: tset t n x

/-- Unlist a number. -/
def tdel {α : Type} : Tab α → Nat → Tab α
  | [], _ => []
  | (k, v) :: t, n => if n < k then (k, v) :: t else if n = k then t else (k, v) :: tdel t n

/-- The numbers of a table strictly rise. -/
def Tab.sorted {α : Type} : Tab α → Bool
  | [] => true
  | [_] => true
  | (a, _) :: (b, y) :: t => decide (a < b) && Tab.sorted ((b, y) :: t)

/-- The canonical form of a memory: addresses strictly rising, and no listed byte is zero. -/
def Memory.wf (m : Memory) : Bool := Tab.sorted m && m.all (fun c => c.2 != 0)

/-- A byte of a memory; an unlisted one reads as zero (R68, R72). -/
def mget (m : Memory) (a : Nat) : Byte := (tget m a).getD 0

/-- Write a byte; writing zero unlists it. -/
def mput (m : Memory) (a : Nat) (b : Byte) : Memory := if b = 0 then tdel m a else tset m a b

/-- `n` bytes from an address. -/
def mread (m : Memory) (a n : Nat) : List Byte := (List.range n).map (fun i => mget m (a + i))

/-- Write bytes from an address upward. -/
def mwrite (m : Memory) (a : Nat) : List Byte → Memory
  | [] => m
  | b :: bs => mwrite (mput m a b) (a + 1) bs

/-- Little-endian value of bytes (R255). -/
def leNat : List Byte → Nat
  | [] => 0
  | b :: bs => b.toNat + 256 * leNat bs

/-- `n` little-endian bytes of a number. -/
def natLe (x : Nat) : Nat → List Byte
  | 0 => []
  | n + 1 => BitVec.ofNat 8 x :: natLe (x / 256) n

/-- An element of a fixed file by number, modulo its size. -/
def vget {α : Type} {n : Nat} (v : Vector α (n + 1)) (i : Nat) : α := v.get (Fin.ofNat (n + 1) i)

/-- Replace an element of a fixed file by number, modulo its size. -/
def vset {α : Type} {n : Nat} (v : Vector α (n + 1)) (i : Nat) (x : α) : Vector α (n + 1) :=
  v.set (i % (n + 1)) x (Nat.mod_lt _ (Nat.succ_pos n))

/-- Bits `hi` to `lo` of a number. -/
def bits (x hi lo : Nat) : Nat := (x / 2 ^ lo) % 2 ^ (hi + 1 - lo)

/-- Bits `hi` to `lo` of a word. -/
def wbits (x : Word) (hi lo : Nat) : Nat := bits x.toNat hi lo

/-- Bit `i` of a word. -/
def wbit (x : Word) (i : Nat) : Bool := x.getLsbD i

/-- The word of a number. -/
def w64 (n : Nat) : Word := BitVec.ofNat 64 n

/-! Cores, strands, dies, channels -/

/-- A core by global number. -/
def State.core (s : State) (c : Nat) : Core := (tget s.cores c).getD Core.reset

/-- Replace a core. -/
def State.setCore (s : State) (c : Nat) (k : Core) : State := { s with cores := tset s.cores c k }

/-- Change a core. -/
def State.modCore (s : State) (c : Nat) (f : Core → Core) : State := s.setCore c (f (s.core c))

/-- A strand by core and slot. -/
def State.strand (s : State) (c l : Nat) : Strand := vget (s.core c).slots l

/-- Replace a strand. -/
def State.setStrand (s : State) (c l : Nat) (x : Strand) : State :=
  s.modCore c fun k => { k with slots := vset k.slots l x }

/-- Change a strand. -/
def State.modStrand (s : State) (c l : Nat) (f : Strand → Strand) : State := s.setStrand c l (f (s.strand c l))

/-- The die of a core (R10). -/
def dieOf (c : Nat) : Nat := c / 512 % 4

/-- The channel group within the die of a core (R10). -/
def groupOf (c : Nat) : Nat := c / 8 % 64

/-- A die. -/
def State.die (s : State) (d : Nat) : Die := vget s.dies d

/-- Change a die. -/
def State.modDie (s : State) (d : Nat) (f : Die → Die) : State := { s with dies := vset s.dies d (f (s.die d)) }

/-- A channel by die * 64 + channel. -/
def State.chan (s : State) (h : Nat) : Channel := (tget s.chans h).getD Channel.reset

/-- Change a channel. -/
def State.modChan (s : State) (h : Nat) (f : Channel → Channel) : State := { s with chans := tset s.chans h (f (s.chan h)) }

/-- The launch a core runs. -/
def State.launchOf (s : State) (c : Nat) : Option Launch := (s.core c).launch.bind fun k => tget s.launches k.toNat

/-- Change a launch. -/
def State.modLaunch (s : State) (k : BitVec 24) (f : Launch → Launch) : State :=
  match tget s.launches k.toNat with
  | some l => { s with launches := tset s.launches k.toNat (f l) }
  | none => s

/-- The key of a launch: generation and id, as s.launch lays them out (R186). -/
def Launch.key (l : Launch) : BitVec 24 := l.gen ++ l.lid

/-- Whether a launch's core set holds a core. -/
def Launch.holds (l : Launch) (c : Nat) : Bool := decide (l.first ≤ c ∧ c < l.first + 2 ^ l.logn)

/-- The lane of a slot (R159): the masked slots of every core first, then the others. -/
def Launch.lane (l : Launch) (c slot : Nat) : Nat :=
  let per := (List.range 16).countP (fun i => l.slots.getLsbD i)
  let n := 2 ^ l.logn
  let i := c - l.first
  if l.slots.getLsbD slot then i * per + (List.range slot).countP (fun j => l.slots.getLsbD j)
  else n * per + i * (16 - per) + (List.range slot).countP (fun j => !l.slots.getLsbD j)

/-- s.sid of a strand (R156). -/
def sidOf (dev : BitVec 11) (c l : Nat) (gen : BitVec 8) : Word :=
  w64 (dev.toNat * 2 ^ 23 + (c % 2048) * 2 ^ 12 + (l % 16) * 2 ^ 8 + gen.toNat)

/-- s.atime of a die (R137). -/
def State.atime (s : State) (d : Nat) : Nat := (s.die d).tu / 10000

/-- Take one free number. -/
def State.free (s : State) : Nat × State := (Config.freeNat s.tick, { s with tick := s.tick + 1 })

/-! Events on a core (R220) -/

/-- Set a bit of the event latch of every strand of a core. -/
def Core.signal (k : Core) (b : Nat) : Core :=
  { k with slots := k.slots.map fun x => { x with latch := x.latch ||| (1#5 <<< b) } }

/-! The body of an instruction -/

/-- What stops an instruction's body without effect. -/
inductive Stop where
  | trap (cause : BitVec 8) (info : Word)
  | element (cause : BitVec 8) (info : Word)   -- a trap met in a stream-bound source: by its element's load, or as it is write-bound (R247, R248)
  | elementWalk (va : Nat) (upd : Bool)        -- a walk that a stream's element needs (R29, R247)
  | elementFault (va reason level : Nat)       -- a translation fault of a stream's element to post (R29, R247)
  | park (p : Park)
  | parkHold (p : Park) (h : BitVec 12 × Nat)   -- an FWD that waits with its redirection recorded (R242)
  | parkK (k : Nat) (w : Bool) (p : Park)     -- an MFK or MTK that has taken its place in the order of a k register (R217)
  | badSector (cause : BitVec 8) (info : Word) (pa : Nat)   -- a trap for an uncorrectable error at an address, which is counted (R66)
  | parkLeap (core : Nat)                     -- in the release of a leap that has been chosen, to a core (R89, R90)
  | parkAcquired (p : Park) (acq : List (Nat × Nat × Nat))  -- the owed acquires it has made stay made (R124, R247)
  | xfault (va : Nat) (kind : Kind) (reason level : Nat) (ras : Bool)   -- a translation fault to post (R29)
  deriving DecidableEq, Repr

/-- How a body that runs to its end leaves its strand. -/
inductive After where
  | next
  | jump (pc : Word)
  | wait (p : Park)      -- sent to where it is performed; the answer retires it
  | gone                 -- the strand no longer stands at this instruction
  deriving DecidableEq, Repr

/-- An instruction's body: it acts on the state for the strand `cur`. A stop discards what it had done. -/
abbrev M (α : Type) := StateT State (Except Stop) α

/-- Stop with a precise trap (R198). -/
def trap {α : Type} (cause : BitVec 8) (info : Word) : M α := throw (.trap cause info)

/-- Park at issue; the instruction issues again from its start (R198). -/
def park {α : Type} (p : Park) : M α := throw (.park p)

/-- The strand that is performing. -/
def me : M Strand := do let s ← get; pure (s.strand s.cur.1 s.cur.2)

/-- Change the strand that is performing. -/
def modMe (f : Strand → Strand) : M Unit := modify fun s => s.modStrand s.cur.1 s.cur.2 f

/-- The core that is performing. -/
def myCore : M Core := do let s ← get; pure (s.core s.cur.1)

/-- Change the core that is performing. -/
def modCore (f : Core → Core) : M Unit := modify fun s => s.modCore s.cur.1 f

/-- Take one free number. -/
def freeNat : M Nat := do let s ← get; set s.free.2; pure s.free.1

/-! Causes of R395 -/

def causeIllop : BitVec 8 := 0x01
def causePriv : BitVec 8 := 0x02
def causeMisalign : BitVec 8 := 0x03
def causeXlate : BitVec 8 := 0x05
def causeProt : BitVec 8 := 0x06
def causeRange : BitVec 8 := 0x07
def causeDeadline : BitVec 8 := 0x08
def causeDead : BitVec 8 := 0x09
def causeRasUnder : BitVec 8 := 0x0A
def causeRasSpill : BitVec 8 := 0x0B
def causeWithdrawn : BitVec 8 := 0x0C
def causeHamper : BitVec 8 := 0x0D
def causeMem : BitVec 8 := 0x0E
def causeFp : BitVec 8 := 0x10
def causeExtent : BitVec 8 := 0x11
def causeBrk : BitVec 8 := 0x12
def causeTrap : BitVec 8 := 0x13

/-! Leaving a fault record (R36) -/

/-- One waiter fewer on a record. -/
def FqRec.leave (r : FqRec) : FqRec := { r with waiters := r.waiters - 1 }

/-- A strand that stops waiting on a translation fault leaves its record (R36). -/
def State.leaveFault (s : State) (c l : Nat) : State :=
  let x := s.strand c l
  let ctx := match tget s.launches x.launch.toNat with | some q => q.ctx | none => 0
  match x.st with
  | .parked (.fault d e _ _ _) => s.modDie d fun y => { y with fq := match tget y.fq e with
      | some r => tset y.fq e r.leave
      | none => y.fq }
  | .parked (.faultWait d va _ _ _ _) => s.modDie d fun y => { y with fqWait := y.fqWait.map fun (w : FqWait) =>
      if w.r.ctx == ctx && w.r.vpage == va / 2 ^ 16 then ⟨w.r.leave⟩ else w }
  | _ => s

/-! What an instruction that ends in a trap gives back -/

/-- The pipeline group of a slot. -/
def Core.pipeOf (k : Core) (l : Nat) : Option (Nat × Pipe) :=
  (k.pipes.zipIdx.find? fun p => p.1.mask.getLsbD l).map fun p => (p.2, p.1)

/-- Give back what an instruction that has been carried away took from the queues of its pipeline group, and the place it holds (R396). -/
def State.unpop (s : State) (c l : Nat) : State :=
  let x := s.strand c l
  let s := s.modStrand c l fun x => { x with popped := [] }
  match (s.core c).pipeOf l with
  | none => s
  | some (i, p) =>
    let q := (List.range 4).foldl (fun (q : Vector (List QEntry) 4) n =>
      vset q n ((x.popped.filter (fun e => e.1 == n)).map (fun e => QEntry.word e.2) ++ (vget q n).filter (· != .held l))) p.q
    s.modCore c fun k => { k with pipes := k.pipes.set i { p with q := q } }

/-- A strand that no longer leaps gives its reserved slot back. -/
def State.unreserve (s : State) (c l : Nat) : State :=
  match (s.strand c l).going with
  | none => s
  | some (y, m) =>
    (s.modStrand c l fun x => { x with going := none }).modStrand y m fun z => if z.st == .reserved then { z with st := .free } else z

/-- A strand's places in the order of the k registers go (R217). -/
def Core.leaveK (k : Core) (l : Nat) : Core := { k with kq := k.kq.filter fun e => e.2.1 != l }

/-- What a strand whose instruction ends in a trap gives back: a slot reserved for its leap, what it has popped from its queues and the place
it holds there, its places at the k registers. -/
def State.letGo (s : State) (c l : Nat) : State :=
  let s := (if ((s.core c).pipeOf l).isSome then s.unpop c l else s).unreserve c l
  if (s.core c).kq.any fun e => e.2.1 == l then s.modCore c (·.leaveK l) else s

/-! Traps -/

/-- Whether an operation has begun: a pond command has had its turn, a collective's group has begun combining (R355, R364). -/
def EngOp.started (o : EngOp) : Bool := o.res.isSome || o.comb.isSome || (decide (o.eng ≤ 2) && o.st != .queued)

/-- Whether a peg is an operation's (R129). -/
def Peg.of (p : Peg) (o : EngOp) : Bool := p.op == o.tag.setWidth 8

/-- Discard a core's part of an aborted launch (R399): slots free, queued operations and their pegs go, begun ones stay. -/
def Core.abort (k : Core) : Core :=
  let kept := k.ops.filter EngOp.started
  { k with
    slots := k.slots.map fun x => { x with st := .free, report := none, wdRep := false }
    ops := kept
    pegs := k.pegs.map fun p => match p with
      | some g => if kept.any g.of then some g else none
      | none => none
    kq := [], deque := [], hamper := 0, msgs := [], oab := [], oaBlocks := [], pipes := [], thief := .idle }

/-- Strands of a core that an abort stops: a slot reserved for a leap holds none. -/
def Core.live (k : Core) : Nat := k.slots.toList.countP fun x => x.st != .free && x.st != .reserved

/-- The late reports pending at a core's strands are discarded with the strands, and counted (R144, R150; log 26). -/
def State.dropReports (s : State) (c : Nat) : State :=
  s.modDie (dieOf c) fun d => { d with drop := d.drop + w64 ((s.core c).slots.toList.countP fun x => x.report.isSome && x.st != .free) }

/-- Abort a launch (R399). `first` is the cause, s.epc, s.einfo and s.sid of the strand that aborted it. -/
def State.abortLaunch (s : State) (key : BitVec 24) (first : Word × Word × Word × Word) : State :=
  -- a strand in the middle of a leap stops too
  let n := (s.cores.filter fun p => p.2.launch == some key).foldl (fun a p => a + p.2.live) 0 + s.leaps.countP fun l => l.ctx.launch == key
  let mine := (s.cores.filter fun p => p.2.launch == some key).map fun p => p.1
  let s := mine.foldl (fun s c => (List.range 16).foldl (fun s l => s.leaveFault c l) s) s
  let s := mine.foldl (fun s c => s.dropReports c) s
  let s := s.modLaunch key fun l => match l.abort with
    | none => { l with abort := some first, nabort := n }
    | some _ => { l with nabort := l.nabort + n }
  { s with
    cores := s.cores.map fun p => if p.2.launch == some key then (p.1, p.2.abort) else p
    leaps := s.leaps.filter fun l => l.ctx.launch != key
    dies := s.dies.map fun d => { d with
      bars := d.bars.filter fun b => b.2.owner != key
      wps := d.wps.filter fun w => w.2.owner != key } }

/-- Trap entry (R396), one event: s.epc, s.cause, s.einfo, BM, PC. With s.tvec zero the launch aborts instead of a handler
running (R399). -/
def State.trapEntry (s : State) (c l : Nat) (cause : BitVec 8) (info : Word) : State :=
  let x := s.strand c l
  let s' := s.modStrand c l fun x => { x with
    epc := x.pc, cause := zext64 cause, einfo := info, bm := true, pc := x.tvec
    st := .ready, hold := none, acq := []
    hpm := vset x.hpm 4 (vget x.hpm 4 + 1) }
  if x.tvec = 0 then s'.abortLaunch x.launch (zext64 cause, x.pc, info, sidOf s.devid c l x.gen) else s'

/-- A trap met by a fetch: at s.tvec, with BM set by a trap entry, it aborts the launch (R399). -/
def State.fetchTrap (s : State) (c l : Nat) (cause : BitVec 8) (info : Word) : State :=
  let x := s.strand c l
  let s' := (s.letGo c l).trapEntry c l cause info
  if x.bm && x.pc == x.tvec && x.tvec != 0 then
    s'.abortLaunch x.launch (zext64 cause, x.pc, info, sidOf s.devid c l x.gen)
  else s'

/-- What a return from a trap does beside going to s.epc (R215): BM is clear. An access that its strand's leap was for is the
next one only if this returns to it (R88), and a BAR goes on in its wait only so (R276). -/
def Strand.trapReturn (x : Strand) : Strand :=
  { x with
    bm := false, leapt := if x.leapt = some x.epc then x.leapt else none
    counted := x.counted.filter fun b => b.1 == x.epc }

/-- An instruction has issued: PC moves on and s.hpm0 counts (R408). -/
def Strand.retire (x : Strand) (pc : Word) : Strand :=
  { x with
    pc := pc, st := .ready, hpm := vset x.hpm 0 (vget x.hpm 0 + 1), hold := none, counted := x.counted.filter fun b => b.1 != x.pc
    going := none, popped := [], acq := [] }

/-- Retire the strand of a core and slot to the next instruction. -/
def State.retireNext (s : State) (c l : Nat) : State := s.modStrand c l fun x => x.retire (x.pc + 4)

/-- Park a strand. -/
def State.parkStrand (s : State) (c l : Nat) (p : Park) : State := s.modStrand c l fun x => { x with st := .parked p }

end Sys2Proof.Machine
end

