-- ==== Sys2Proof/Machine/Memory.lean ====
section
/-! DEFINITION. Addresses and homes (R6 to R17), the caches as overlays (R64, R83 to R95), the home calendar (R145 to R147),
watchpoint matches (R280), refusals (R8, R357), and the fault queue (R29 to R35). -/

namespace Sys2Proof.Machine

/-! Addresses -/

/-- The device number of a physical address (R6). -/
def devOf (pa : Nat) : Nat := pa / 2 ^ 46

/-- The device-local address (R6). -/
def localOf (pa : Nat) : Nat := pa % 2 ^ 46

/-- The parts of a device's local address space (R7, R12, R16). -/
inductive Region where
  | dram (die off : Nat)
  | spad (core off : Nat)
  | dieBlock (die off : Nat)
  | devid
  | ctxTable (i : Nat)
  | cxl (off : Nat)
  | hole
  deriving DecidableEq, Repr

/-- The part a local address lies in (R7, R12, R16). -/
def regionOf (a : Nat) : Region :=
  if a < 0x00C000000000 then .dram (a / 0x3000000000) (a % 0x3000000000)
  else if a < 0x100000000000 then .hole
  else if a < 0x100080000000 then .spad ((a - 0x100000000000) / 2 ^ 20) (a % 2 ^ 20)
  else if a < 0x200000000000 then .hole
  else if a < 0x204000000000 then .dieBlock ((a - 0x200000000000) / 2 ^ 36) (a % 2 ^ 36)
  else if 0x2F0000000000 ≤ a ∧ a < 0x2F0000000008 then .devid
  else if 0x2F0000010000 ≤ a ∧ a < 0x2F0000090000 then .ctxTable ((a - 0x2F0000010000) / 8)
  else if a < 0x300000000000 then .hole
  else .cxl (a - 0x300000000000)

/-- The defined blocks of engine, tile and control space (R16). -/
def Region.isControl : Region → Bool
  | .dieBlock _ _ | .devid | .ctxTable _ => true
  | _ => false

/-- Engine, tile and control space of R7, its holes (R16) among it: what R17's rule of size and alignment governs. -/
def inControl (pa : Nat) : Bool := decide (0x200000000000 ≤ localOf pa ∧ localOf pa < 0x300000000000)

/-- DRAM or CXL window: what home caches and remote-data caches hold (R83, R91). -/
def Region.cached : Region → Bool
  | .dram _ _ | .cxl _ => true
  | _ => false

/-- The home core of a DRAM line by its address (R11). -/
def dramHome (die a : Nat) : Nat :=
  die * 512 + bits a 16 11 * 8 + (bits a 10 8 ^^^ bits a 19 17 ^^^ bits a 28 26)

/-- The stack whose memory-side cache holds a line (R9, R13, R64): die * 4 + stack; none for other addresses. -/
def stackOf (pa : Nat) : Option Nat :=
  match regionOf (localOf pa) with
  | .dram d o => some (d * 4 + bits o 16 15)
  | .cxl o => some (bits o 12 11 * 4 + bits o 18 17)
  | _ => none

/-- The home core of a CXL-window line by its window offset (R13). -/
def cxlHome (o : Nat) : Nat :=
  bits o 12 11 * 512 + bits o 18 13 * 8 + (bits o 10 8 ^^^ bits o 21 19 ^^^ bits o 30 28)

/-- The die that homes a line on its own device; for control space, the die whose block it is (R9 to R13, R16). -/
def farDie (pa : Nat) : Nat :=
  match regionOf (localOf pa) with
  | .dram d _ | .dieBlock d _ => d
  | .spad c _ => dieOf c
  | .cxl o => bits o 12 11
  | _ => 0

/-- Where an access to `pa` is performed, through a leaf whose HOME names a core or not (R11 to R15, R80). -/
def State.placeOf (s : State) (pa : Nat) (named : Bool) : Place :=
  if devOf pa ≠ s.devid.toNat then .device (devOf pa) (farDie pa)
  else match regionOf (localOf pa) with
    | .dram d _ => if named then .core (d * 512 + pa / 2 ^ 16 % 512) else .core (dramHome d (localOf pa))
    | .spad c _ => .core c
    | .cxl o => .core (cxlHome o)
    | _ => .control

/-- The die that holds a line's homes, for watchpoints. -/
def State.homeDie (s : State) (pa : Nat) : Option Nat :=
  match s.placeOf pa false with
  | .core c => some (dieOf c)
  | _ => none

/-- Whether a local address lies in the region of a configured pond store (R357). -/
def State.inPond (s : State) (a : Nat) : Bool :=
  s.dies.toList.any fun d => d.ponds.any fun p =>
    let cap := 2 ^ p.2.lcap
    let leaf := (cap * 16 + 65535) / 65536 * 65536
    decide (p.2.base % 2 ^ 46 ≤ a ∧ a < p.2.base % 2 ^ 46 + leaf + cap * p.2.maxsteps * (64 + p.2.obs))

/-- Whether a CXL window offset is backed by an extent (R39). -/
def State.backed (s : State) (o : Nat) : Bool := s.extents.any fun e => decide (e.1 ≤ o ∧ o < e.1 + e.2)

/-- Refused under R8, R65 or R357 at its point of performance. `pond` marks the pond engine's own accesses. -/
def State.refused (s : State) (pa : Nat) (pond : Bool := false) : Bool :=
  if 1536 ≤ devOf pa then true
  else if devOf pa ≠ s.devid.toNat then !s.reach.contains (devOf pa) || regionOf (localOf pa) == .hole
  else match regionOf (localOf pa) with
    | .hole => true
    | .dram d o => s.failed.getLsbD (d * 4 + bits o 16 15) || (!pond && s.inPond (localOf pa))
    | _ => false

/-- Withdrawn or never backed CXL capacity (R39). -/
def State.gone (s : State) (pa : Nat) : Bool :=
  devOf pa == s.devid.toNat &&
    match regionOf (localOf pa) with
    | .cxl o => !s.backed o
    | _ => false

/-- Whether an access of the device itself waits for a reroute: to another device (R415). -/
def State.farWaits (s : State) (pa : Nat) : Bool := s.reroute && devOf pa != s.devid.toNat

/-- The channel of a DRAM address: die * 64 + channel (R9). -/
def chanOf (pa : Nat) : Option Nat :=
  match regionOf (localOf pa) with
  | .dram d o => some (d * 64 + bits o 16 11)
  | _ => none

/-- Whether a cache holds a byte in a word with an uncorrectable error (R101): the home cache, or a die's remote-data cache. -/
def State.badWord (s : State) (h : Option Nat) (a : Nat) : Bool := s.badWords.contains (h, a / 8)

/-- Whether some word of a sector is bad in a cache. -/
def State.badWordIn (s : State) (h : Option Nat) (pa : Nat) : Bool := s.badWords.any fun w => w.1 == h && w.2 / 8 == pa / 64

/-- Words of a range that one write covers whole get fresh check bits (R67, R101). -/
def State.mendWords (s : State) (h : Option Nat) (pa n : Nat) : State :=
  { s with badWords := s.badWords.filter fun w => !(w.1 == h && decide (pa ≤ w.2 * 8 ∧ w.2 * 8 + 8 ≤ pa + n)) }

/-- Count an uncorrectable error in a die's caches (R101, R418). -/
def State.countCache (s : State) (d : Nat) : State := s.modDie d fun x => { x with srue := x.srue + 1 }

/-- Bad words of a range leave a cache without their bytes: the event is counted and the marks go (R101). -/
def State.loseWords (s : State) (h : Option Nat) (d pa n : Nat) (lost : Bool) : State :=
  if lost then { s.countCache d with badWords := s.badWords.filter fun w => !(w.1 == h && decide (pa / 8 ≤ w.2 ∧ w.2 * 8 < pa + n)) }
  else s

/-- Count an uncorrectable sector of DRAM or scratchpad (R61, R66, R101). -/
def State.countSector (s : State) (pa : Nat) : State :=
  match chanOf pa with
  | some h => s.modChan h fun c => { c with ue := c.ue + 1, ueAddr := w64 (pa / 64 * 64) }
  | none => match regionOf (localOf pa) with
    | .spad c _ => s.modDie (dieOf c) fun d => { d with srue := d.srue + 1 }
    | _ => s

/-- Count an uncorrectable error that a strand or an engine met at an address: in a cache, else in its sector (R61, R66, R101). -/
def State.countUe (s : State) (pa : Nat) : State :=
  let d := dieOf s.cur.1
  if s.badWordIn (some d) pa then s.countCache d
  else if s.badWordIn none pa then s.countCache ((s.homeDie pa).getD d)
  else s.countSector pa

/-! Rows and near copies (R41 to R44) -/

/-- Where a row lies: channel, bank, subarray, far row, row within bank (R9, R41). -/
structure RowAt where
  ch   : Nat
  bank : Nat
  sub  : Nat
  frow : Nat
  m    : Nat
  deriving DecidableEq, Repr

/-- The row of a row number within a channel (R41). -/
def rowAt (ch n : Nat) : RowAt :=
  let m := n / 32
  ⟨ch, (bits n 4 0) ^^^ (bits n 17 13), bits m 15 9, bits m 8 0, m⟩

/-- The row that holds a DRAM address. -/
def rowOf (pa : Nat) : Option RowAt :=
  match regionOf (localOf pa) with
  | .dram d o => some (rowAt (d * 64 + bits o 16 11) (o / 2 ^ 17))
  | _ => none

/-- A subarray's near directory. -/
def Channel.sub (c : Channel) (r : RowAt) : Near := (tget c.near (r.bank * 96 + r.sub)).getD ⟨[], 0⟩

/-- Replace a subarray's near directory. -/
def Channel.setSub (c : Channel) (r : RowAt) (x : Near) : Channel := { c with near := tset c.near (r.bank * 96 + r.sub) x }

/-- The near row that holds a far row, if it is resident (R43). -/
def Near.find (x : Near) (frow : Nat) : Option (Nat × NearRow) := x.rows.find? fun p => p.2.frow == frow

/-- A write of a row sets DIRTY of its near copy (R44). -/
def Channel.written (c : Channel) (r : RowAt) : Channel :=
  match (c.sub r).find r.frow with
  | some (i, e) => c.setSub r { c.sub r with rows := tset (c.sub r).rows i { e with dirty := true } }
  | none => c

/-- DRAM bytes of this device are written: to the near copy of their row where it has one (R44). -/
def State.dramWritten (s : State) (pa : Nat) : State :=
  match if devOf pa = s.devid.toNat then rowOf pa else none with
  | some r => match (tget s.chans r.ch).bind fun c => (c.sub r).find r.frow with
    | some _ => s.modChan r.ch fun c => c.written r
    | none => s
  | none => s

/-! The home (R83 to R85) -/

/-- A byte as the home gives it: masked in the home cache, dirty in the memory-side cache, or in memory, whose bytes a valid clean sector
above it repeats. -/
def State.homeByte (s : State) (a : Nat) : Byte :=
  match tget s.homeDirty a with
  | some b => b
  | none => match tget s.mscDirty a with
    | some b => b
    | none => mget s.mem a

/-- Whether a byte is held dirty above its sector's memory. -/
def State.masked (s : State) (a : Nat) : Bool := (tget s.homeDirty a).isSome || (tget s.mscDirty a).isSome

/-- Whether the memory-side cache holds a sector, by sector number (R64). -/
def State.mscHolds (s : State) (q : Nat) : Bool := ((tget s.clean.msc (q / 4)).getD 0).getLsbD (q % 4)

/-- Whether a home cache holds a sector valid, by sector number (R85). -/
def State.homeHolds (s : State) (q : Nat) : Bool := match tget s.clean.home (q / 4) with | some h => h.valid.getLsbD (q % 4) | none => false

/-- Whether an address lies in a region whose store has found its sector dirty from before it: such bytes never reach memory while the store
exists (R357, R419). -/
def State.staleIn (s : State) (q : Nat) : Bool := s.dies.toList.any fun d => d.ponds.any fun p => p.2.stale.contains q

/-- A write-back from a cache to a sector is discarded: refused there since, the pond engine's own bytes apart, or withdrawn (R39, R419). -/
def State.refusedBack (s : State) (q : Nat) : Bool := s.refused (q * 64) true || s.gone (q * 64) || s.staleIn q

/-- Whether an address is one of scratchpad. -/
def inSpad (pa : Nat) : Bool := match regionOf (localOf pa) with | .spad _ _ => true | _ => false

/-- Whether a byte in scratchpad, or dirty in the home cache, is lost to an uncorrectable error there (R101). -/
def State.lostHome (s : State) (a : Nat) : Bool := s.badWord none a && ((tget s.homeDirty a).isSome || inSpad a)

/-- `n` bytes at their home, apart from errors in the home cache; none when they need an uncorrectable sector (R66) that no cache on their
way holds. A scratchpad's upper half reads zero (R12). Of another device's control space, DEVID reads its number, and an offset that a die's
block leaves undefined reads zero (R6, R16, R17). -/
def State.homeGet (s : State) (pa n : Nat) : Option (List Byte) :=
  let as := (List.range n).map (pa + ·)
  if as.any (fun a => s.badSectors.contains (a / 64 * 64) && !s.masked a && !s.homeHolds (a / 64) && !s.mscHolds (a / 64)) then none
  else some (as.map fun a => match regionOf (localOf a) with
    | .spad _ off => if off < 0x80000 then mget s.mem a else 0
    | .devid => BitVec.ofNat 8 (devOf a / 256 ^ (a % 8))
    | .dieBlock _ _ => 0
    | _ => s.homeByte a)

/-- `n` bytes at their home; none when they need an uncorrectable sector or bad bytes of the home itself (R66, R101). -/
def State.homeRead (s : State) (pa n : Nat) : Option (List Byte) :=
  if (List.range n).any (fun i => s.lostHome (pa + i)) then none else s.homeGet pa n

/-- A home cache holds a line of core `y`, with more sectors valid. -/
def State.holdLine (s : State) (y line : Nat) (v : BitVec 4) : State :=
  let old := match tget s.clean.home line with | some h => h.valid | none => 0
  { s with clean := { s.clean with home := tset s.clean.home line ⟨y, old ||| v⟩ } }

/-- The memory-side cache holds a sector. -/
def State.holdMsc (s : State) (q : Nat) : State :=
  { s with clean := { s.clean with msc := tset s.clean.msc (q / 4) ((tget s.clean.msc (q / 4)).getD 0 ||| (1#4 <<< (q % 4))) } }

/-- Whether a read of `n` bytes of one sector at their home misses the home cache: it needs bytes neither valid nor masked (R85). -/
def State.missesHome (s : State) (p : Place) (pa n : Nat) : Bool :=
  match p with
  | .core _ => (regionOf (localOf pa)).cached && !s.homeHolds (pa / 64) && !(List.range n).all fun i => (tget s.homeDirty (pa + i)).isSome
  | _ => false

/-- An access to a sector, of DRAM when it has a controller, is on its way there with the bytes that it moves (R51, R60). -/
def State.toDram (s : State) (q : Nat) (lc : BitVec 2) (wr : Bool) : State :=
  match regionOf (localOf (q * 64)) with
  | .dram _ _ => { s with dram := s.dram ++ [⟨q * 64, lc, wr, mread s.mem (q * 64) 64⟩] }
  | _ => s

/-- The memory-side cache needs a sector: one of DRAM that it does not hold is read from its controller, for an access of a latency class
(R51, R64). -/
def State.needMsc (s : State) (q : Nat) (lc : BitVec 2) : State := if s.mscHolds q then s else s.toDram q lc false

/-- A read of `n` bytes of one sector at their home that misses fills the sector from below, unless it is uncorrectable (R64, R66, R85, R97). -/
def State.homeFill (s : State) (p : Place) (pa n : Nat) (lc : BitVec 2 := 0) : State :=
  match p with
  | .core y =>
    let q := pa / 64
    if !s.missesHome p pa n || (s.badSectors.contains (q * 64) && !s.mscHolds q) then s
    else ((s.needMsc q lc).holdLine y (q / 4) (1#4 <<< (q % 4))).holdMsc q
  | _ => s

/-- A read of `n` bytes of one sector that fills no cache (R84): what its home cache and the memory-side cache lack is read from the controller,
with the latency class of its leaf (R51), unless that read is on its way already (log 67). -/
def State.passBy (s : State) (p : Place) (pa n : Nat) (lc : BitVec 2 := 0) : State :=
  let q := pa / 64
  if !s.missesHome p pa n || s.dram.contains ⟨q * 64, lc, false, mread s.mem (q * 64) 64⟩ then s else s.needMsc q lc

/-- A strand's access misses its line's home cache (R408). -/
def State.countMiss (s : State) (c l : Nat) : State := s.modStrand c l fun x => { x with hpm := vset x.hpm 5 (vget x.hpm 5 + 1) }

/-- A strand's read of `n` bytes of one sector at their home: a miss is counted and fills the sector (R85, R408). -/
def State.fillFor (s : State) (c l : Nat) (a : Access) (n : Nat) : State :=
  (if s.missesHome a.place a.pa n then s.countMiss c l else s).homeFill a.place a.pa n a.lc

/-- The home core of a line by its address alone. -/
def State.addressHome (s : State) (line : Nat) : Nat := match s.placeOf (line * 256) false with | .core y => y | _ => 0

/-- A line that a leaf with HOME = 01 names a core for is noted with it (R15): capacity and calendars go by that core. -/
def State.book (s : State) (p : Place) (pa : Nat) : State :=
  match p with
  | .core y => if (regionOf (localOf pa)).cached && y != s.addressHome (pa / 256) then s.holdLine y (pa / 256) 0 else s
  | _ => s

/-- A byte of another device's DRAM or CXL window is about to be written: what it held may still be what memory there holds (R100, log 2). -/
def State.keepOld (s : State) (pa : Nat) : State :=
  let old := (tget s.farOld pa).getD []
  if old.contains (mget s.mem pa) then s else { s with farOld := tset s.farOld pa (old ++ [mget s.mem pa]) }

/-- Put bytes at their home, without watchpoints. Writes to a scratchpad's upper half are discarded (R12), and so are those to another device's
DEVID (R16); what they do to the registers of its dies is not held (log 2). -/
def State.homePut (s : State) (pa : Nat) : List Byte → State
  | [] => s
  | b :: bs =>
    let s' : State :=
      if devOf pa ≠ s.devid.toNat then match regionOf (localOf pa) with
        | .devid | .dieBlock _ _ => s
        | .dram _ _ | .cxl _ => { s.keepOld pa with mem := mput s.mem pa b }
        | _ => { s with mem := mput s.mem pa b }
      else match regionOf (localOf pa) with
        | .spad _ off => if off < 0x80000 then
            { s with mem := mput s.mem pa b } else s
        | .dram _ _ | .cxl _ => { s with homeDirty := tset s.homeDirty pa b }
        | _ => s
    s'.homePut (pa + 1) bs

/-- The instruction words that a write of `n` bytes at `pa` replaces, as they stand before it: fetches may still see them (R98). -/
def State.noteWords (s : State) (pa n : Nat) : State :=
  let ws := (List.range ((pa % 4 + n + 3) / 4)).map fun i =>
    (pa / 4 + i, BitVec.ofNat 32 (leNat ((List.range 4).map fun j => s.homeByte ((pa / 4 + i) * 4 + j))))
  { s with clean := { s.clean with hist := s.clean.hist ++ ws } }

/-- Whether a watchpoint's test holds on the doubleword at `a` (R280). -/
def Watch.test (w : Watch) (x : Word) : Bool :=
  match w.mode.toNat with
  | 0 => true
  | 1 => (x &&& w.mask) == (w.value &&& w.mask)
  | _ => (x &&& w.mask) != (w.value &&& w.mask)

/-- One watchpoint looks at a write of the bytes at `as`, already performed (R280). DESIGN CHOICE (log 87): a doubleword that cannot be read after
the write is tested as zero. -/
def State.watchOne (s : State) (d : Nat) (as : List Nat) (i : Nat) (w : Watch) : State :=
  let hits := as.filter fun a => decide (w.lo ≤ a ∧ a < w.lo + w.len)
  let ok := hits.any fun a => w.test (w64 (leNat (((s.homeRead (a / 8 * 8) 8)).getD [])))
  if w.armed && ok then
    let w' : Watch := { w with armed := !w.oneshot, busy := true }
    let s := s.modDie d fun x => { x with wps := tset x.wps i w' }
    if w.busy then s
    else { s with pushes := s.pushes ++ [⟨w.core, { w.rec_ with key := w.owner }, some (d, i), false, none⟩] }
  else s

/-- The watchpoints of a line's die look at a write of the bytes at `as`. -/
def State.watchAll (s : State) (pa : Nat) (as : List Nat) : State :=
  match s.homeDie pa with
  | none => s
  | some d => (s.die d).wps.foldl (fun s p => s.watchOne d as p.1 p.2) s

/-- Bytes stored at the home, apart from watchpoints. -/
def State.homeStore (s : State) (pa : Nat) (bs : List Byte) : State := ((s.noteWords pa bs.length).homePut pa bs).mendWords none pa bs.length

/-- A write performed at the home, seen by the watchpoints of its die (R280). -/
def State.homeWrite (s : State) (pa : Nat) (bs : List Byte) : State := (s.homeStore pa bs).watchAll pa ((List.range bs.length).map (pa + ·))

/-- A write at its point of performance: discarded when refused there or on withdrawn capacity (R39, R419). -/
def State.perform (s : State) (pa : Nat) (bs : List Byte) : State :=
  if s.refused pa || s.gone pa then s else s.homeWrite pa bs

/-- A write at its point of performance through a leaf that may have named its home. -/
def State.performAt (s : State) (p : Place) (pa : Nat) (bs : List Byte) : State := (s.book p pa).perform pa bs

/-- A byte-merged write of some bytes of one line at its home, one write to the watchpoints (R95, R280, R419). -/
def State.merge (s : State) (line : Nat) (cs : Tab Byte) : State :=
  let cs := cs.filter fun c => !s.refused (line * 256 + c.1) && !s.gone (line * 256 + c.1)
  if cs.isEmpty then s
  else
    let s := cs.foldl (fun s (c : Nat × Byte) => (s.noteWords (line * 256 + c.1) 1).homePut (line * 256 + c.1) [c.2]) s
    let whole := (List.range 32).filter fun w => (List.range 8).all fun i => (tget cs (8 * w + i)).isSome
    let s := whole.foldl (fun s w => s.mendWords none (line * 256 + 8 * w) 8) s
    s.watchAll (line * 256) (cs.map fun (c : Nat × Byte) => line * 256 + c.1)

/-! Write-backs below the home (R64, R67, R85, R101, R419) -/

/-- A home-cache sector is no longer valid. -/
def State.dropValid (s : State) (q : Nat) : State :=
  match tget s.clean.home (q / 4) with
  | some h => { s with clean := { s.clean with home := tset s.clean.home (q / 4) ⟨h.core, h.valid &&& ~~~(1#4 <<< (q % 4))⟩ } }
  | none => s

/-- The masked bytes of a home-cache sector arrive at the memory-side cache, bad words left out of the mask (R85, R101). They are merged in
a sector that it holds or fills; one that cannot be filled is replaced when they cover it whole, and otherwise the merge is discarded and
counted (R64, R67). A merge refused since is discarded (R419). -/
def State.sectorToMsc (s : State) (q : Nat) : State :=
  let base := q * 64
  let mine := s.homeDirty.filter fun c => c.1 / 64 == q
  let good := mine.filter fun c => !s.badWord none c.1
  let lost := decide (good.length < mine.length)
  if mine.isEmpty then s
  else
    let t : State := { s.loseWords none ((s.homeDie base).getD 0) base 64 lost with homeDirty := s.homeDirty.filter fun c => c.1 / 64 != q }
    if s.refusedBack q then t.dropValid q
    else if s.badSectors.contains base && decide (good.length < 64) && !s.mscHolds q then (t.dropValid q).countSector base
    else
      let t := ((if lost then t.dropValid q else t).needMsc q 0).holdMsc q
      { t with mscDirty := good.foldl (fun m c => tset m c.1 c.2) s.mscDirty }

/-- A dirty sector of a memory-side cache is written whole to DRAM or the CXL device (R44, R64, R67); refused since, it is discarded (R419). -/
def State.mscToMem (s : State) (q : Nat) : State :=
  let mine := s.mscDirty.filter fun c => c.1 / 64 == q
  if mine.isEmpty then s
  else
    let t : State := { s with mscDirty := s.mscDirty.filter fun c => c.1 / 64 != q }
    if s.refusedBack q then t
    else (({ t with
      mem := mine.foldl (fun m c => mput m c.1 c.2) s.mem
      badSectors := s.badSectors.filter (· != q * 64) } : State).toDram q 0 true).dramWritten (q * 64)

/-- Masked bytes of a home-cache line go to the memory-side cache; what was valid stays valid. DESIGN CHOICE (log 82): a sector that is not valid
has only its masked bytes, and keeps none of them: the home cache does not hold it afterwards. -/
def State.homeToMsc (s : State) (line : Nat) : State := (List.range 4).foldl (fun s q => s.sectorToMsc (line * 4 + q)) s

/-- A line leaves its home cache (R85). -/
def State.evictHome (s : State) (line : Nat) : State :=
  let s := s.homeToMsc line
  { s with clean := { s.clean with home := tdel s.clean.home line } }

/-- A line leaves its memory-side cache (R64). -/
def State.evictMsc (s : State) (line : Nat) : State :=
  let s := (List.range 4).foldl (fun s q => s.mscToMem (line * 4 + q)) s
  { s with clean := { s.clean with msc := tdel s.clean.msc line } }

/-- Everything dirty of a line goes down to memory, and its copies stay valid (CCTL.WB, releases at system scope). -/
def State.lineToMem (s : State) (line : Nat) : State :=
  (List.range 4).foldl (fun s q => s.mscToMem (line * 4 + q)) (s.homeToMsc line)

/-- A line is written back and invalidated in its home cache and memory-side cache (R37, CCTL.INV). -/
def State.lineOut (s : State) (line : Nat) : State := (s.evictHome line).evictMsc line

/-- A line is invalidated in its home cache and memory-side cache, dirty bytes lost (R38, CCTL.DROP). -/
def State.lineLost (s : State) (line : Nat) : State :=
  { s with
    homeDirty := s.homeDirty.filter fun c => c.1 / 256 != line
    mscDirty := s.mscDirty.filter fun c => c.1 / 256 != line
    badWords := s.badWords.filter fun w => !(w.1 == none && w.2 / 32 == line && !inSpad (w.2 * 8))
    clean := { s.clean with home := tdel s.clean.home line, msc := tdel s.clean.msc line } }

/-- Every line that home caches hold. -/
def State.homeLines (s : State) : List Nat :=
  (s.homeDirty.map (fun (c : Nat × Byte) => c.1 / 256) ++ s.clean.home.map fun (h : Nat × HomeLine) => h.1).eraseDups

/-- Every line that memory-side caches hold. -/
def State.mscLines (s : State) : List Nat :=
  (s.mscDirty.map (fun (c : Nat × Byte) => c.1 / 256) ++ s.clean.msc.map fun (h : Nat × BitVec 4) => h.1).eraseDups

/-- Every line with dirty bytes above memory that satisfies `p`. -/
def State.dirtyLines (s : State) (p : Nat → Bool) : List Nat :=
  ((s.homeDirty.map (fun (c : Nat × Byte) => c.1 / 256) ++ s.mscDirty.map (fun (c : Nat × Byte) => c.1 / 256)).filter p).eraseDups

/-- Whether a line lies in this device's CXL window. -/
def State.isCxlLine (s : State) (line : Nat) : Bool :=
  devOf (line * 256) == s.devid.toNat && match regionOf (localOf (line * 256)) with | .cxl _ => true | _ => false

/-! The calendar (R133, R145 to R149) -/

/-- Insert by time, after entries of equal time. -/
def calInsert (e : CalEntry) : List CalEntry → List CalEntry
  | [] => [e]
  | x :: xs => if e.t.toNat < x.t.toNat then e :: x :: xs else x :: calInsert e xs

/-- Entries in ascending time, equal times in order of acceptance. -/
def calSort (l : List CalEntry) : List CalEntry := l.foldl (fun a e => calInsert e a) []

/-- The timed accesses at a home: accepted stores, waiting arrivals, waiting loads. -/
structure Cal where
  cal   : List CalEntry
  wait  : List CalEntry
  loads : List LoadWait

/-- How far a device's package reference stands from the grandmaster's time, in ten-thousandths of a ns: at most 18 ns (R142). -/
def refOffset (d : Nat) : Int := (Config.farClock (8192 + d) % 360001 : Nat) - 180000

/-- A die of another device, as far as it is known. Its clock is free until a timed access first meets it; one that is LOCKED, in a domain
whose grandmaster's time this device has, stands within 2 ns of its package reference then, which stands within 18 ns of the grandmaster's time,
as this device's own does unless it is the grandmaster (R142, log 2). -/
def State.far (s : State) (k : Nat) : Far :=
  let bound := s.inDom && (s.gm || s.gmTaken) && Config.farLocked k
  let here : Int := if s.gm then 0 else refOffset s.devid.toNat
  let tu : Int := (s.ref - s.held : Nat) - here + refOffset (k / 4) + (Config.farClock k % 40001 : Nat) - 20000
  (tget s.fars k).getD ⟨if bound then tu.toNat else Config.farClock k, [], [], []⟩

/-- The timed accesses at a home. -/
def State.calOf (s : State) : Place → Cal
  | .core c => ⟨(s.core c).cal, (s.core c).calWait, (s.core c).loads⟩
  | .device d h => let f := s.far (d * 4 + h); ⟨f.cal, f.wait, f.loads⟩
  | .control => ⟨[], [], []⟩

/-- Replace the timed accesses at a home. -/
def State.setCal (s : State) (p : Place) (x : Cal) : State :=
  match p with
  | .core c => s.modCore c fun k => { k with cal := x.cal, calWait := x.wait, loads := x.loads }
  | .device d h => { s with fars := tset s.fars (d * 4 + h) ⟨(s.far (d * 4 + h)).tu, x.cal, x.wait, x.loads⟩ }
  | .control => s

/-- The clock a home judges by (R145). -/
def State.clock (s : State) : Place → Nat
  | .core c => s.atime (dieOf c)
  | .device d h => (s.far (d * 4 + h)).tu / 10000
  | .control => 0

/-- How many more entries a home's calendar has room for. Another device's holds entries of others too: the number is free (log 2). -/
def State.calRoom (s : State) (p : Place) : Nat × State :=
  match p with
  | .device _ _ => (s.free.1 % 65, s.free.2)
  | p => (64 - (s.calOf p).cal.length, s)

/-- The verdict on a strand's timed store stands with its FIFO's head until it returns. -/
def State.setVerdict (s : State) (c l : Nat) (gen : BitVec 8) (late : Bool) : State :=
  s.modStrand c l fun x => match x.fifo with
    | e :: es => if x.gen == gen && e.timed.isSome then { x with fifo := { e with late := some late } :: es } else x
    | [] => x

/-- A die's remote-data cache gives up the clean bytes of a line: an access from the die is performed at the home past it (R106, R108). -/
def State.dropClean (s : State) (d pa : Nat) : State :=
  match tget (s.die d).rdc (pa / 256) with
  | none => s
  | some l => s.modDie d fun x =>
    if l.dirty.isEmpty then { x with rdc := tdel x.rdc (pa / 256) } else { x with rdc := tset x.rdc (pa / 256) { l with clean := [] } }

/-- A late timed store (R149): applied under APPLY, counted at a home of this device under either policy. -/
def State.judgeLate (s : State) (p : Place) (e : CalEntry) : State :=
  let s := if e.pol then (s.performAt p e.acc.pa e.data).dropClean (dieOf e.core) e.acc.pa else s
  (match p with
    | .core c => s.modDie (dieOf c) fun d => { d with late := d.late + 1 }
    | _ => s).setVerdict e.core e.slot e.gen true

/-- Take a timed store into a home's calendar. -/
def State.acceptTimed (s : State) (p : Place) (e : CalEntry) : State :=
  (s.setCal p { s.calOf p with cal := (s.calOf p).cal ++ [e] }).setVerdict e.core e.slot e.gen false

/-- A waiting timed load is performed when its time is below `t` (R148). -/
def LoadWait.ripen (w : LoadWait) (s : State) (t : Nat) : LoadWait :=
  if w.got.isNone ∧ w.t.toNat < t then { w with got := some (s.homeRead w.acc.pa w.n) } else w

/-- Perform the timed loads that wait at a home with a time below `t`. -/
def State.ripen (s : State) (p : Place) (t : Nat) : State :=
  let ls := (s.calOf p).loads
  let s := (ls.filter fun w => w.got.isNone && decide (w.t.toNat < t)).foldl (fun s w =>
    (s.fillFor w.core w.slot { w.acc with place := p } w.n).dropClean (dieOf w.core) w.acc.pa) s
  s.setCal p { s.calOf p with loads := ls.map fun (w : LoadWait) => w.ripen s t }

/-- Timed stores that wait at a home and are refused there since, or on withdrawn capacity, return their verdicts as accepted and are never
applied (R419). -/
def State.weedWait (s : State) (p : Place) : State :=
  let ws := (s.calOf p).wait
  if ws.isEmpty then s
  else
    let out (e : CalEntry) : Bool := s.refused e.acc.pa || s.gone e.acc.pa
    let s := (ws.filter out).foldl (fun s e => s.setVerdict e.core e.slot e.gen false) s
    s.setCal p { s.calOf p with wait := ws.filter fun e => !out e }

/-- Waiting arrivals take the entries that are free, in order of arrival (R146, R419). -/
def State.letIn (s : State) (p : Place) : State :=
  let s := s.weedWait p
  let ws := (s.calOf p).wait
  if ws.isEmpty then s
  else
    let (room, s) := s.calRoom p
    let s := (ws.take room).foldl (fun s e => s.acceptTimed p e) s
    s.setCal p { s.calOf p with wait := ws.drop room }

/-- What happens at a home when its clock reaches `t` (R146 to R148): the accepted entries due are applied in ascending time, arrivals still
waiting past their time are judged late, the next ones take the entries freed, and the timed loads due are performed. Those refused since go
first (R419). -/
def State.calendarAt (s : State) (p : Place) (t : Nat) : State :=
  let s := s.weedWait p
  let x := s.calOf p
  let due (e : CalEntry) : Bool := decide (e.t.toNat ≤ t)
  let s := s.setCal p { x with cal := x.cal.filter fun e => !due e, wait := [] }
  let s := (calSort (x.cal.filter due)).foldl (fun s e => s.performAt p e.acc.pa e.data) s
  let s := (x.wait.filter due).foldl (fun s e => s.judgeLate p e) s
  let s := s.setCal p { s.calOf p with wait := x.wait.filter fun e => !due e }
  (s.letIn p).ripen p (t + 1)

/-- The times, up to `now`, at which something is due at a home, ascending and without repeats. -/
def Cal.times (x : Cal) (now : Nat) : List Nat :=
  let ts := x.cal.map (fun (e : CalEntry) => e.t.toNat) ++ x.wait.map (fun (e : CalEntry) => e.t.toNat)
    ++ (x.loads.filter (·.got.isNone)).map fun (w : LoadWait) => w.t.toNat
  (ts.filter fun t => decide (t ≤ now)).foldl (fun l t => if l.contains t then l else l.filter (· < t) ++ t :: l.filter (t < ·)) []

/-- Bring a home's calendar up to its clock before an access there (R133, R147). -/
def State.settle (s : State) (p : Place) : State :=
  ((s.calOf p).times (s.clock p)).foldl (fun s t => s.calendarAt p t) s

/-- Bring the calendar of a core up to its clock. -/
def State.applyDue (s : State) (c : Nat) : State := s.settle (.core c)

/-- Bring every core's calendar up to its clock: what is due is then dirty in the home caches (R147). -/
def State.settleAll (s : State) : State := (s.cores.map fun (k : Nat × Core) => k.1).foldl State.applyDue s

/-- Step 4 of a release at system scope (R119): every dirty CXL byte reaches the CXL device. -/
def State.flushCxl (s : State) : State :=
  let s := s.settleAll
  (s.dirtyLines s.isCxlLine).foldl State.lineToMem s

/-- An acquire at system scope: every clean CXL sector of every home cache and memory-side cache goes (R120). -/
def State.flashCxl (s : State) : State :=
  { s with clean := { s.clean with
    home := s.clean.home.map fun (p : Nat × HomeLine) => if s.isCxlLine p.1 then (p.1, ⟨p.2.core, 0⟩) else p
    msc := s.clean.msc.map fun (p : Nat × BitVec 4) => if s.isCxlLine p.1 then
      (p.1, (List.range 4).foldl (fun (v : BitVec 4) i =>
        if s.mscDirty.any fun c => c.1 / 64 == p.1 * 4 + i then v else v &&& ~~~(1#4 <<< i)) p.2) else p } }

/-- Bring the calendars up to their clocks of the core that homes a line by its address, and of the one that a leaf may have named (R15,
R133). -/
def State.settleBoth (s : State) (pa : Nat) : State := (s.settle (s.placeOf pa false)).settle (s.placeOf pa true)

/-- The parts of a run of bytes, sector by sector: address and length. -/
def pieces (pa n : Nat) : List (Nat × Nat) :=
  (List.range ((pa % 64 + n + 63) / 64)).map fun i =>
    let lo := max pa ((pa / 64 + i) * 64)
    (lo, min (pa + n) ((pa / 64 + i + 1) * 64) - lo)

/-- Bytes that the device itself writes at physical addresses: each sector at its home, after what is due there (R147, R165). -/
def State.writeSpan (s : State) (pa : Nat) (bs : List Byte) : State :=
  (pieces pa bs.length).foldl (fun s p =>
    (s.settleBoth p.1).perform p.1 ((bs.drop (p.1 - pa)).take p.2)) s

/-! Remote-data caches (R91 to R96) -/

/-- Write a line's dirty bytes back to its home, merged by byte; the bytes stay clean (R95). Bad words are left out and gone (R101). -/
def State.rdcFlush (s : State) (d line : Nat) : State :=
  match tget (s.die d).rdc line with
  | none => s
  | some l =>
    if l.dirty.isEmpty then s.modDie d fun x => { x with rdc := tset x.rdc line { l with writers := 0 } }
    else
      let s := s.settle (.core l.home)
      -- what came due there may have taken the line's clean bytes (R108)
      let l := (tget (s.die d).rdc line).getD l
      let good := l.dirty.filter fun c => !s.badWord (some d) (line * 256 + c.1)
      let s := s.loseWords (some d) d (line * 256) 256 (decide (good.length < l.dirty.length))
      let s := (s.book (.core l.home) (line * 256)).merge line good
      let l' : RdcLine := { l with clean := good.foldl (fun t c => tset t c.1 c.2) l.clean, dirty := [], writers := 0 }
      s.modDie d fun x => { x with rdc := tset x.rdc line l' }

/-- Write a line back and drop it (R82, R108). -/
def State.rdcDrop (s : State) (d line : Nat) : State :=
  let s := s.rdcFlush d line
  s.modDie d fun x => { x with rdc := tdel x.rdc line }

/-- A die's remote-data cache gives a line up before or when an access to it is carried to its home (R82, R108). -/
def State.yieldLine (s : State) (d pa : Nat) : State :=
  if (tget (s.die d).rdc (pa / 256)).isSome then s.rdcDrop d (pa / 256) else s

/-- Write back every line with the writer bit of a channel group (R95). -/
def State.rdcRelease (s : State) (d grp : Nat) : State :=
  ((s.die d).rdc.filter fun p => p.2.writers.getLsbD grp).foldl (fun s p => s.rdcFlush d p.1) s

/-- Write back every line of a die's remote-data cache. -/
def State.rdcFlushAll (s : State) (d : Nat) : State := ((s.die d).rdc.map fun (p : Nat × RdcLine) => p.1).foldl (fun s n => s.rdcFlush d n) s

/-- Make every clean byte of every line with ROS 0 invalid (R94). -/
def State.rdcFlash (s : State) (d : Nat) : State :=
  s.modDie d fun x => { x with rdc := x.rdc.map fun (p : Nat × RdcLine) => if p.2.ros then p else (p.1, { p.2 with clean := [] }) }

/-- A byte of a cached line: dirty, or clean and valid. -/
def RdcLine.get (l : RdcLine) (o : Nat) : Option Byte := (tget l.dirty o).or (tget l.clean o)

/-- A line of a remote-data cache as an access finds or allocates it. -/
def State.rdcLine (s : State) (d : Nat) (a : Access) : RdcLine :=
  (tget (s.die d).rdc (a.pa / 256)).getD ⟨match a.place with | .core y => y | _ => 0, [], [], 0, a.ros⟩

/-- Read within one sector through a die's remote-data cache: the bytes, whether it missed, and the state after; none when the
home's sector is uncorrectable or the bytes are bad dirty ones (R92, R66, R101). Bad bytes of the home do not fill. -/
def State.rdcRead (s : State) (d : Nat) (a : Access) (n : Nat) : Option (List Byte × Bool × State) :=
  let line := a.pa / 256
  let o := a.pa % 256
  let l := s.rdcLine d a
  let os := (List.range n).map (o + ·)
  if os.any fun i => s.badWord (some d) (line * 256 + i) && (tget l.dirty i).isSome then none
  else if os.all fun i => (l.get i).isSome then some (os.map fun i => (l.get i).getD 0, false, s)
  else
    let s := s.settle a.place
    -- what came due there may have taken the line's clean bytes (R108)
    let l := s.rdcLine d a
    let q := o / 64 * 64
    match s.homeGet (line * 256 + q) 64 with
    | none => none
    | some bs =>
      let s := s.homeFill a.place (line * 256 + q) 64 a.lc
      let own (i : Nat) : Bool := (tget l.dirty i).isSome || s.lostHome (line * 256 + i)
      let l' := { l with clean := (bs.zipIdx q).foldl (fun t p => if own p.2 then t else tset t p.2 p.1) l.clean }
      if os.any fun i => (l'.get i).isNone then none
      else some (os.map fun i => (l'.get i).getD 0, true, s.modDie d fun x => { x with rdc := tset x.rdc line l' })

/-- An instruction word, by its number, as a die's remote-data cache or its home holds it now. -/
def State.wordNow (s : State) (d n : Nat) : BitVec 32 :=
  let byte (p : Nat) : Byte := match (tget (s.die d).rdc (p / 256)).bind fun l => l.get (p % 256) with
    | some b => b
    | none => s.homeByte p
  BitVec.ofNat 32 (leNat ((List.range 4).map fun j => byte (n * 4 + j)))

/-- The words that a store into a remote-data cache changes for its die's fetches are noted as those of a store at a home are. -/
def State.noteRdc (s : State) (d : Nat) (a : Access) (n : Nat) : State :=
  let ws := (List.range ((a.pa % 4 + n + 3) / 4)).map fun i => (a.pa / 4 + i, s.wordNow d (a.pa / 4 + i))
  { s with clean := { s.clean with hist := s.clean.hist ++ ws } }

/-- A store into a die's remote-data cache by a core of channel group `grp` (R92). -/
def State.rdcWrite (s : State) (d : Nat) (a : Access) (bs : List Byte) (grp : Nat) : State :=
  let line := a.pa / 256
  let l := s.rdcLine d a
  let l' : RdcLine := { l with
    dirty := (bs.zipIdx (a.pa % 256)).foldl (fun t p => tset t p.2 p.1) l.dirty
    clean := (bs.zipIdx (a.pa % 256)).foldl (fun t p => tdel t p.2) l.clean
    writers := l.writers ||| (1#64 <<< grp) }
  ((s.noteRdc d a bs.length).mendWords (some d) a.pa bs.length).modDie d fun x => { x with rdc := tset x.rdc line l' }

/-! Capacities (R64, R83, R91, R103): after a step, a set that holds too many lines gives one up; which, and what a set is, the spec leaves
open (log 60). -/

/-- While the lines of one set outnumber its ways, one of them goes. -/
def State.trimSet (s : State) (mine : List Nat) (ways : Nat) (out : State → Nat → State) : State :=
  if mine.length ≤ ways then s else out s.free.2 (mine.getD (s.free.1 % mine.length) 0)

/-- Every home cache within 256 sets of 12 ways (R83). -/
def State.trimHome (s : State) : State :=
  if s.homeLines.length ≤ 12 then s
  else
    -- a line's core is the one that holds it before any is given up
    let core (n : Nat) : Nat := match tget s.clean.home n with | some h => h.core | none => s.addressHome n
    s.homeLines.foldl (fun t n => t.trimSet (t.homeLines.filter fun m =>
      core m == core n && Config.homeSet m % 256 == Config.homeSet n % 256) 12 State.evictHome) s

/-- Every remote-data cache within 32,768 sets of 16 ways (R91). -/
def State.trimRdc (s : State) (d : Nat) : State :=
  if (s.die d).rdc.length ≤ 16 then s
  else (s.die d).rdc.foldl (fun s p => s.trimSet (((s.die d).rdc.map fun (q : Nat × RdcLine) => q.1).filter fun m =>
    Config.rdcSet m % 32768 == Config.rdcSet p.1 % 32768) 16 fun s n => s.rdcDrop d n) s

/-- Every memory-side cache within 65,536 sets of 24 ways (R64). -/
def State.trimMsc (s : State) : State :=
  if s.mscLines.length ≤ 24 then s
  else s.mscLines.foldl (fun s n => s.trimSet (s.mscLines.filter fun m =>
    stackOf (m * 256) == stackOf (n * 256) && Config.mscSet m % 65536 == Config.mscSet n % 65536) 24 State.evictMsc) s

/-- Every cache within its capacity, the upper ones first. -/
def State.trim (s : State) : State := ((List.range 4).foldl State.trimRdc s).trimHome.trimMsc

/-! Leaps on their way (R28, R88) -/

/-- Whether a strand that has leapt for an access has not made it yet: its context is on its way from a core that `on` names, or it has arrived,
at whatever core, and the instruction has not issued there. -/
def State.leaping (s : State) (on : Nat → Bool) : Bool :=
  s.leaps.any (fun l => on l.src)
    || s.cores.any fun k => !k.2.saving && k.2.slots.toList.any fun x => x.st == .ready && x.leapt == some x.pc

/-! Translation caches (R26) -/

/-- Whether a TLB entry covers an address, in a context (R26). -/
def TlbEnt.covers (e : TlbEnt) (ctx va : Nat) : Bool :=
  let size := if e.level = 0 then 2 ^ 16 else if e.level = 1 then 2 ^ 21 else 2 ^ 30
  (e.ctx == ctx || e.leaf.getLsbD 5) && decide (e.va ≤ va ∧ va < e.va + size)

/-- The physical address through a leaf (R25). -/
def TlbEnt.phys (e : TlbEnt) (va : Nat) : Nat := wbits e.leaf 56 16 * 2 ^ 16 + (va - e.va)

/-- The right a kind of access needs in a leaf (R24). -/
def leafAllows (leaf : Word) (kind : Kind) (user : Bool) : Bool :=
  (match kind with
    | .load | .timedLoad | .engineRead => leaf.getLsbD 1
    | .store | .timedStore | .engineWrite => leaf.getLsbD 2
    | .atomic => leaf.getLsbD 1 && leaf.getLsbD 2
    | .fetch => leaf.getLsbD 3) && (!user || leaf.getLsbD 4)

/-- The kinds that set D (R25). -/
def Kind.writes : Kind → Bool
  | .store | .timedStore | .atomic | .engineWrite => true
  | _ => false

/-- The code of a kind (R30). -/
def Kind.code : Kind → Nat
  | .load => 0 | .store => 1 | .fetch => 2 | .atomic => 3
  | .timedLoad => 4 | .timedStore => 5 | .engineRead => 6 | .engineWrite => 7

/-- The first matching entry of a core's TLB, then of its die's (R26). -/
def State.tlbFind (s : State) (c ctx va : Nat) : Option TlbEnt :=
  ((s.core c).tlb.find? (·.covers ctx va)).or ((s.die (dieOf c)).tlb.find? (·.covers ctx va))

/-- Whether an access of a kind needs the walker to set A or D first (R25). -/
def leafStale (leaf : Word) (kind : Kind) : Bool := !leaf.getLsbD 6 || (kind.writes && !leaf.getLsbD 7)

/-- What an access through a leaf carries; none when R15 refuses its HOME. -/
def State.accessOf (s : State) (e : TlbEnt) (va : Nat) : Option Access :=
  let pa := e.phys va
  let named := wbits e.leaf 11 10 == 1
  let dram := match regionOf (localOf pa) with | .dram _ _ => true | _ => false
  -- LC and ROS have no effect on a page that is not DRAM (R22)
  let a : Access := ⟨pa, s.placeOf pa named, if dram then BitVec.ofNat 2 (wbits e.leaf 9 8) else 0, dram && e.leaf.getLsbD 12⟩
  if named then
    if devOf pa ≠ s.devid.toNat then none
    else match regionOf (localOf pa) with
      | .dram _ _ | .spad _ _ => some a
      | _ => none
  else some a

/-! The fault queue (R29 to R35) -/

/-- Post a fault, or merge it (R29, R31, R32): the record's index, or none when it waits for a free entry. -/
def State.postFault (s : State) (d : Nat) (r : FqRec) : Option Nat × State :=
  let x := s.die d
  let same (q : FqRec) : Bool := q.ctx == r.ctx && q.vpage == r.vpage
  let merge (q : FqRec) : FqRec := { q with
    waiters := q.waiters + 1, kinds := q.kinds ||| r.kinds, flags := q.flags ||| 1 }
  match x.fq.find? (fun p => p.2.open_ && same p.2) with
  | some (i, q) => (some i, s.modDie d fun x => { x with fq := tset x.fq i (merge q) })
  | none =>
    if x.fqWait.any (fun w => same w.r) then
      (none, s.modDie d fun x => { x with fqWait := x.fqWait.map fun w => if same w.r then ⟨merge w.r⟩ else w })
    else
      let i := x.fqHead.toNat % 1024
      let busy := match tget x.fq i with | some q => q.open_ | none => false
      if (x.fqHead - x.fqTail).toNat < 1024 && !busy && x.fqWait.isEmpty then
        (some i, s.modDie d fun x => { x with
          fq := tset x.fq i { r with seq := x.fqSeq, open_ := true }, fqHead := x.fqHead + 1, fqSeq := x.fqSeq + 1 })
      else (none, s.modDie d fun x => { x with fqWait := x.fqWait ++ [⟨r⟩] })

/-- A new record for a fault (R30). -/
def newFault (c l : Nat) (gen : BitVec 8) (ctx va : Nat) (kind : Kind) (reason level : Nat) (user : Bool) : FqRec :=
  ⟨va / 2 ^ 16, ctx, kind.code, reason, level, 1#8 <<< kind.code, if user then 2 else 0, c, l, gen, 1, 0, false⟩

/-- The context of a launch. -/
def State.ctxOf (s : State) (key : BitVec 24) : Nat := match tget s.launches key.toNat with | some l => l.ctx | none => 0

/-- A strand's access faults (R29): it parks on the record. The fault of a walk made only for an update of R25 is posted as a store (R30). -/
def State.strandFault (s : State) (c l va : Nat) (kind : Kind) (reason level : Nat) (ras : Bool) (upd : Bool := false) : State :=
  let x := s.strand c l
  let post := if upd then Kind.store else kind
  let (e, s) := s.postFault (dieOf c) (newFault c l x.gen (s.ctxOf x.launch) va post reason level (!x.sup))
  match e with
  | some i => s.parkStrand c l (.fault (dieOf c) i va kind ras)
  | none => s.parkStrand c l (.faultWait (dieOf c) va kind reason level ras)

/-- Remove TLB entries of a die and its cores. -/
def State.tlbDrop (s : State) (d : Nat) (p : TlbEnt → Bool) : State :=
  let s := s.modDie d fun x => { x with tlb := x.tlb.filter fun e => !p e }
  { s with cores := s.cores.map fun (k : Nat × Core) =>
      if dieOf k.1 == d then (k.1, { k.2 with tlb := k.2.tlb.filter fun e => !p e }) else k }

/-- What resolving a record does to one waiting strand (R34). -/
def State.wakeWaiter (s : State) (outcome d e c l : Nat) : State :=
  match (s.strand c l).st with
  | .parked (.fault d' e' va kind ras) =>
    if d' == d && e' == e then
      if outcome == 0 then s.modStrand c l fun x => { x with st := .ready }
      else if ras then (s.letGo c l).trapEntry c l causeRasSpill (w64 va)
      else
        let cause := if outcome == 1 then causeXlate else if outcome == 2 then causeProt else causeExtent
        if kind == .fetch then s.fetchTrap c l cause (w64 va) else (s.letGo c l).trapEntry c l cause (w64 va)
    else s
  | _ => s

/-- Resolve a record (R34, R35). `outcome`: 0 REPLAY, 1 FAIL, 2 DENY, 3 GONE. A record not outstanding is left alone. -/
def State.resolveFault (s : State) (d e outcome : Nat) : State :=
  match tget (s.die d).fq e with
  | none => s
  | some r =>
    if !r.open_ then s
    else
      let s := if outcome == 0 then
          s.tlbDrop d fun t => t.covers r.ctx (r.vpage * 2 ^ 16) else s
      let s := s.modDie d fun x => { x with fq := tset x.fq e { r with open_ := false, waiters := 0 } }
      let s := { s with cores := s.cores.map fun (k : Nat × Core) =>
        (k.1, { k.2 with ops := k.2.ops.map fun (o : EngOp) =>
          if o.st == OpState.fault d e then { o with st := .ready (outcome == 0) } else o }) }
      (s.cores.map (fun (k : Nat × Core) => k.1)).foldl (fun s c => (List.range 16).foldl (fun s l => s.wakeWaiter outcome d e c l) s) s

/-- A write to FQTAIL takes effect only forward within what has been posted (R33). DESIGN CHOICE (log 61): bits [63:11] of the value, to
which R33 gives no meaning, are ignored. -/
def State.writeFqTail (s : State) (d : Nat) (v : Word) : State :=
  let x := s.die d
  let t := BitVec.ofNat 11 v.toNat
  if (t - x.fqTail).toNat ≤ (x.fqHead - x.fqTail).toNat then s.modDie d fun x => { x with fqTail := t } else s

/-- A write to FQREPLAY (R33, R34). -/
def State.writeFqReplay (s : State) (d : Nat) (v : Word) : State :=
  if v.toNat / 2 ^ 18 ≠ 0 ∨ wbits v 15 10 ≠ 0 then s else s.resolveFault d (wbits v 9 0) (wbits v 17 16)

/-- The 32 bytes of a record (R30). -/
def FqRec.bytes (r : FqRec) : List Byte :=
  natLe (r.vpage % 2 ^ 41) 8 ++ natLe r.ctx 2 ++ [BitVec.ofNat 8 r.kind, BitVec.ofNat 8 r.reason, BitVec.ofNat 8 r.level,
    r.kinds, r.flags, 0] ++ natLe r.fcore 2 ++ [BitVec.ofNat 8 r.fslot, r.fgen] ++ natLe r.waiters.toNat 4 ++ natLe r.seq.toNat 8

/-! Control space (R16, R17, R33, R61, R144, R418) -/

/-- Milliseconds and nanoseconds a die has been in HOLDOVER. -/
def Die.heldNs (x : Die) : Nat := (x.tu - x.holdAt) / 10000

/-- TUSTAT (R144). -/
def State.tustat (s : State) (x : Die) : Word :=
  let ms := if x.lock == .holdover then min (x.heldNs / 1000000) (2 ^ 32 - 1) else 0
  let st := match x.lock with | .free => 0 | .locked => 1 | .holdover => 2
  w64 (ms * 2 ^ 32 + (BitVec.ofInt 16 x.offs).toNat * 2 ^ 16 + (if s.gm then 8 else 0) + (if x.dom then 4 else 0) + st)

/-- TUBOUND (R144, R142). -/
def Die.bound (x : Die) : Word :=
  match x.lock with
  | .free => BitVec.allOnes 64
  | .locked => if x.dom then 20 else 2
  | .holdover => w64 ((if x.holdDom then 20 else 2) + x.heldNs / 10000000)

/-- CHCODE (R61). -/
def Channel.code (c : Channel) : Word :=
  w64 ((if c.pend.isSome then 32 else 0) + (if c.pin then 16 else 0) + c.pcode.toNat * 4 + c.cur.toNat)

/-- A register of a die's control block; an undefined offset reads zero (R17). DESIGN CHOICE (log 61): FQREPLAY, which R33 makes writable
only, reads zero as well, and FQSTAT[42:11] counts every strand or operation that waits, those merged under R32 with it. -/
def State.readDieBlock (s : State) (d o : Nat) : Word :=
  let x := s.die d
  if 0x100000 ≤ o ∧ o < 0x108000 then
    match tget x.fq ((o - 0x100000) / 32) with
    | some r => w64 (leNat ((r.bytes.drop (o % 32)).take 8))
    | none => 0
  else if o = 0x108000 then zext64 x.fqHead
  else if o = 0x108008 then zext64 x.fqTail
  else if o = 0x108018 then
    w64 (x.fq.countP (fun p => p.2.open_) + (x.fqWait.foldl (fun a w => a + w.r.waiters.toNat) 0) * 2 ^ 11)
  else if 0x2000000 ≤ o ∧ o < 0x2040000 then
    let c := s.chan (d * 64 + (o - 0x2000000) / 0x1000)
    match o % 0x1000 with
    | 0x000 => c.code
    | 0x010 => w64 (c.cnt.getD 0 0)
    | 0x018 => w64 (c.cnt.getD 1 0)
    | 0x020 => w64 (c.cnt.getD 2 0)
    | 0x028 => w64 (c.cnt.getD 3 0)
    | 0x030 => c.prom
    | 0x038 => c.evic
    | 0x040 => c.nfull
    | 0x048 => c.ce
    | 0x050 => c.ue
    | 0x058 => c.ueAddr
    | _ => 0
  else match o with
    | 0x3000000 => s.tustat x
    | 0x3000008 => x.bound
    | 0x3000010 => x.late
    | 0x3000018 => x.drop
    | 0x4000000 => x.ecore
    | 0x4000008 => vget x.estk 0
    | 0x4000010 => vget x.estk 1
    | 0x4000018 => vget x.estk 2
    | 0x4000020 => vget x.estk 3
    | 0x4000028 => zext64 x.tstep
    | 0x4000030 => zext64 x.tcap
    | 0x4000040 => x.srce
    | 0x4000048 => x.srue
    | _ => 0

/-- An 8-byte read of this device's control space. -/
def State.readControl (s : State) (pa : Nat) : Word :=
  match regionOf (localOf pa) with
  | .dieBlock d o => s.readDieBlock d o
  | .devid => zext64 s.devid
  | .ctxTable i => (tget s.ctxTab i).getD 0
  | _ => 0

/-! Reads at the point of performance (R105) -/

/-- Whether an offset of a die's control block is a register's (R33, R61, R144, R418): offset 8 of a channel and 0x4000038 are none's. -/
def dieRegister (o : Nat) : Bool :=
  decide (0x100000 ≤ o ∧ o < 0x108020) || decide (0x2000000 ≤ o ∧ o < 0x2040000 ∧ o % 0x1000 ≤ 0x58 ∧ o % 0x1000 / 8 ≠ 1)
    || decide (0x3000000 ≤ o ∧ o < 0x3000020) || decide (0x4000000 ≤ o ∧ o < 0x4000050 ∧ o / 8 ≠ 0x4000038 / 8)

/-- Whether an address names a register of a die of its device. -/
def namesRegister (pa : Nat) : Bool := match regionOf (localOf pa) with | .dieBlock _ o => dieRegister o | _ => false

/-- Bytes of one sector read at the point of performance; none when they need an uncorrectable sector. DESIGN CHOICE (log 2): the registers of
another device's dies are not held, and what a read of one gives is free. -/
def State.readAt (s : State) (p : Place) (pa n : Nat) : Option (List Byte) × State :=
  match p with
  | .control => (some (natLe (s.readControl pa).toNat n), s)
  | .device _ _ =>
    let s := s.settle p
    if namesRegister pa then (some (natLe s.free.1 n), s.free.2) else (s.homeRead pa n, s)
  | .core _ =>
    let s := s.settle p
    (s.homeRead pa n, s)

/-- Bytes that a strand's access reads at the point of performance; none when they need an uncorrectable sector. -/
def State.readAtHome (s : State) (c l : Nat) (a : Access) (n : Nat) : Option (List Byte) × State :=
  match s.readAt a.place a.pa n with
  | (some bs, s) => (some bs, s.fillFor c l a n)
  | r => r

/-- Bytes that the device itself reads at physical addresses; none when a sector is refused (R8, R357) or uncorrectable, which is counted. -/
def State.readSpan (s : State) (pa n : Nat) : Option (List Byte) × State :=
  (pieces pa n).foldl (fun r p => match r with
    | (none, s) => (none, s)
    | (some bs, s) =>
      let s := s.settleBoth p.1
      if s.refused p.1 || s.gone p.1 then (none, s)
      else match s.readAt (s.placeOf p.1 false) p.1 p.2 with
        | (none, s) => (none, s.countUe p.1)
        | (some b, s) => (some (bs ++ b), s.homeFill (s.placeOf p.1 false) p.1 p.2)) (some [], s)

/-- A write to CHCODE (R61): PIN 1 schedules a switch to PCODE; PIN 0 resumes automatic choice. DESIGN CHOICE (log 65): to the code that is
active, or armed already, no switch is needed and none waits; a pinned switch that still waits for its refresh when PIN 0 is written goes on
waiting. -/
def Channel.writeCode (c : Channel) (v : Word) : Channel :=
  let p := BitVec.ofNat 2 (wbits v 3 2)
  if wbit v 4 then { c with pin := true, pcode := p, pend := if c.armed.getD c.cur == p then none else some p }
  else { c with pin := false, pcode := p }

/-- A write to TCAP (R418): the die is never run at a step faster than the cap. -/
def Die.writeCap (x : Die) (v : Word) : Die :=
  let cap := BitVec.ofNat 2 v.toNat
  { x with tcap := cap, tstep := if x.tstep.toNat < cap.toNat then cap else x.tstep }

/-- An 8-byte write of this device's control space; what is not writable discards it (R17). -/
def State.writeControl (s : State) (pa : Nat) (v : Word) : State :=
  match regionOf (localOf pa) with
  | .dieBlock d o =>
    if o = 0x108008 then s.writeFqTail d v
    else if o = 0x108010 then s.writeFqReplay d v
    else if 0x2000000 ≤ o ∧ o < 0x2040000 ∧ o % 0x1000 = 0 then
      s.modChan (d * 64 + (o - 0x2000000) / 0x1000) fun c => c.writeCode v
    else if o = 0x4000030 then s.modDie d fun x => x.writeCap v
    else s
  | .ctxTable i => { s with ctxTab := if v = 0 then tdel s.ctxTab i else tset s.ctxTab i v }
  | _ => s

end Sys2Proof.Machine
end

