-- ==== Sys2Proof/Machine/Pages.lean ====
section
/-! DEFINITION. Page tables and the translation caches that walks fill (R19 to R26). -/

namespace Sys2Proof.Machine

/-! Page tables (R20 to R23) -/

/-- Where an entry lies at a level: the table's base and the index that the address gives (R20). -/
def entryAt (table va level : Nat) : Nat :=
  table + 8 * (if level = 0 then bits va 20 16 else bits va (20 + 9 * level) (12 + 9 * level))

/-- Read an entry at its home; none when it is refused or uncorrectable (R23). DESIGN CHOICE (log 62): an entry that lies in control space
is read, and updated under R25, as an access to that register. DESIGN CHOICE (log 81): withdrawn or never-backed CXL capacity (R39) refuses
the read as R8 does. -/
def State.readEntry (s : State) (pa : Nat) : Option Word × State :=
  if s.refused pa || s.gone pa then (none, s)
  else if (regionOf (localOf pa)).isControl && devOf pa == s.devid.toNat then (some (s.readControl pa), s)
  else
    match s.settleBoth pa |>.readAt (s.placeOf pa false) pa 8 with
    | (some bs, s) => (some (w64 (leNat bs)), s.homeFill (s.placeOf pa false) pa 8)
    | (none, s) => (none, s.countUe pa)

/-- What an entry is at a level (R21 to R23). -/
inductive Entry where
  | invalid
  | malformed
  | pointer (next : Nat)
  | leaf
  deriving DecidableEq, Repr

/-- Judge an entry (R21 to R23). -/
def entryOf (w : Word) (level : Nat) : Entry :=
  let (r, wr, x) := (wbit w 1, wbit w 2, wbit w 3)
  if !wbit w 0 then .invalid
  else if !r && !wr && !x then
    if wbits w 7 4 ≠ 0 || level = 0 || (decide (2 ≤ level) && wbits w 11 8 ≠ 0) then .malformed
    else .pointer (wbits w 56 8 * 2 ^ 8)
  else if decide (3 ≤ level) || wbits w 15 13 ≠ 0 || (wr && !r) || (level = 1 && wbits w 20 16 ≠ 0)
      || (level = 2 && wbits w 29 16 ≠ 0) || wbits w 9 8 = 3 || decide (2 ≤ wbits w 11 10)
      || (wbits w 11 10 = 1 && level ≠ 0) then .malformed
  else .leaf

/-- The end of a walk: a leaf with the address of its entry and its level, or the reason and level of a fault. -/
inductive WalkEnd where
  | leaf (w : Word) (pa level : Nat)
  | fault (reason level : Nat)
  deriving DecidableEq, Repr

/-- Descend from a table at a level (R20, R23). -/
def State.descendFrom (va : Nat) : Nat → Nat → State → WalkEnd × State
  | level, table, s =>
    let pa := entryAt table va level
    match s.readEntry pa with
    | (none, s) => (.fault 3 level, s)
    | (some w, s) => match entryOf w level with
      | .invalid => (.fault 0 level, s)
      | .malformed => (.fault 2 level, s)
      | .leaf => (.leaf w pa level, s)
      | .pointer next => match level with
        | 0 => (.fault 2 0, s)
        | l + 1 => State.descendFrom va l next s

/-- The root of a context's tables (R19). -/
def State.rootOf (s : State) (ctx : Nat) : Nat := wbits ((tget s.ctxTab ctx).getD 0) 56 12 * 2 ^ 12

/-- The leaf with A, and D for a writing kind, set (R25). -/
def leafUsed (w : Word) (kind : Kind) : Word := w ||| 0x40 ||| (if kind.writes then 0x80 else 0)

/-- Whether a descent comes to an entry of another device, which can be reached but waits for a reroute (R415). -/
def State.pathHeld (va : Nat) : Nat → Nat → State → Bool
  | level, table, s =>
    let pa := entryAt table va level
    if s.refused pa then false
    else if s.farWaits pa then true
    else match s.readEntry pa with
      | (none, _) => false
      | (some w, s) => match entryOf w level, level with
        | .pointer next, l + 1 => State.pathHeld va l next s
        | _, _ => false

/-- Whether a walk waits for a reroute (R415). -/
def State.walkHeld (s : State) (ctx va : Nat) : Bool := s.reroute && State.pathHeld va 4 (s.rootOf ctx) s

/-- A walk with the check of R24 and the update of R25: the TLB entry, or reason and level. -/
def State.walk (s : State) (ctx va : Nat) (kind : Kind) (user : Bool) : Except (Nat × Nat) TlbEnt × State :=
  match s.descendFrom va 4 (s.rootOf ctx) with
  | (.fault r l, s) => (.error (r, l), s)
  | (.leaf w pa level, s) =>
    if !leafAllows w kind user then (.error (1, level), s)
    else
      let w' := leafUsed w kind
      let s := if w' = w then s
        else if (regionOf (localOf pa)).isControl && devOf pa == s.devid.toNat then s.writeControl pa w' else s.homeWrite pa (natLe w'.toNat 8)
      let size := if level = 0 then 2 ^ 16 else if level = 1 then 2 ^ 21 else 2 ^ 30
      (.ok ⟨ctx, va / size * size, level, w'⟩, s)

/-- A new TLB entry, in place of those that cover the address (R26). DESIGN CHOICE (log 77): a full TLB gives up the entry filled longest ago,
and a hit in the die's TLB fills no core's. -/
def tlbAdd (e : TlbEnt) (va cap : Nat) (l : List TlbEnt) : List TlbEnt := (e :: l.filter fun x => !x.covers e.ctx va).take cap

/-- Cache a leaf in a core's TLB and its die's. -/
def State.tlbFill (s : State) (c va : Nat) (e : TlbEnt) : State :=
  let s := s.modCore c fun k => { k with tlb := tlbAdd e va 64 k.tlb }
  s.modDie (dieOf c) fun d => { d with tlb := tlbAdd e va 16384 d.tlb }

end Sys2Proof.Machine
end

