-- ==== Sys2Proof/Machine/Operands.lean ====
section
/-! DEFINITION. Operand forms: translated and checked addresses (R178, R252), releases and acquires (R119, R120), registers with
their states, pipeline queues and streams (R168, R221, R247, R248), loads and stores on their paths (R80, R109 to R111), leaps
(R87 to R90), and how an instruction's body becomes a step of its strand. -/

namespace Sys2Proof.Machine

/-! Words that are ILLOP only when they issue, and privilege -/

/-- ILLOP of an instruction's own word (R176, R300). -/
def illop {α : Type} (i : Instr) : M α := trap causeIllop (zext64 ((encode i).getD 0))

/-- A supervisor-only form or operand (R178). -/
def needSup (i : Instr) : M Unit := do
  if (← me).sup then pure () else trap causePriv (zext64 ((encode i).getD 0))

/-! Addresses -/

/-- The context of the strand that is performing. -/
def myCtx : M Nat := do let s ← get; pure (s.ctxOf (← me).launch)

/-- Translate an address for an access of a kind (R18 to R26): the access, and whether R15 refuses its leaf's HOME. -/
def translate (va : Word) (kind : Kind) (ras : Bool := false) : M (Access × Bool) := do
  if va.toNat / 2 ^ 57 ≠ 0 then trap causeProt va
  else
    let s ← get
    let x ← me
    let ctx ← myCtx
    match s.tlbFind s.cur.1 ctx va.toNat with
    | none => park (.walk va.toNat kind ras false)
    | some e =>
      if !leafAllows e.leaf kind (!x.sup) then throw (.xfault va.toNat kind 1 e.level ras)
      else if leafStale e.leaf kind then park (.walk va.toNat kind ras true)
      else match s.accessOf e va.toNat with
        | some a => pure (a, false)
        | none => pure (⟨e.phys va.toNat, .control, 0, false⟩, true)

/-- The lowest peg of the core that an access of a context meets, if one holds it off (R130). -/
def Core.pegHit (k : Core) (ctx va n : Nat) (writes : Bool) : Option (Nat × Bool) :=
  (List.range 16).findSome? fun i => match vget k.pegs i with
    | some p => if p.ctx == ctx && decide (va < p.base + p.len ∧ p.base < va + n) && (p.w || writes) then some (i, p.w) else none
    | none => none

/-- s.einfo of RANGE_HELD (R130). -/
def rangeInfo (i : Nat) (w : Bool) (va : Nat) : Word := w64 (i * 2 ^ 60 + (if w then 2 ^ 59 else 0) + va)

/-- Checks 6 of R178 step 4: the peg table (R130). -/
def checkPegs (va n : Nat) (kind : Kind) : M Unit := do
  match (← myCore).pegHit (← myCtx) va n kind.writes with
  | some (i, w) => trap causeRange (rangeInfo i w va)
  | none => pure ()

/-- Check 7: refusal (R8), withdrawn capacity (R39) for what makes an access there, and the wait for a reroute (R415). -/
def checkRefused (a : Access) (bad : Bool) (access : Bool := true) : M Unit := do
  let s ← get
  if bad || s.refused a.pa then trap causeProt (w64 a.pa)
  else if access && s.gone a.pa then trap causeExtent (w64 a.pa)
  else match a.place with
    | .device _ _ => if s.reroute then park .reroute else pure ()
    | _ => pure ()

/-- Check 5: engine, tile and control space takes 8-byte accesses, and no timed access or atomic (R17, R253). -/
def checkControl (a : Access) (va : Word) (n : Nat) (kind : Kind) : M Unit := do
  if inControl a.pa then
    match kind with
    | .timedLoad | .timedStore | .atomic => trap causeProt va
    | _ => if n ≠ 8 then trap causeMisalign va else pure ()
  else pure ()

/-- The checks of R178 step 4, in order, for an access of `n` bytes. -/
def checked (va : Word) (n : Nat) (kind : Kind) (pegs : Bool := true) : M Access := do
  if va.toNat % n ≠ 0 then trap causeMisalign va
  else
    let (a, bad) ← translate va kind
    checkControl a va n kind
    if pegs then checkPegs va.toNat n kind
    checkRefused a bad
    pure a

/-! Releases and acquires -/

/-- The channel group of a posted operation's destination, on the die of its sender; none off the die (R117, R118). -/
def Posted.group (p : Posted) : Option Nat :=
  let at_ (c : Nat) : Option Nat := if dieOf c = dieOf p.core then some (groupOf c) else none
  match p.op with
  | .msg _ c _ => at_ c
  | .push _ c _ => at_ c
  | .fill c _ _ _ _ _ _ _ => at_ c
  | .store _ => none

/-- Whether a posted operation was placed by a strand. -/
def Posted.by (p : Posted) (c l : Nat) (gen : BitVec 8) : Bool := p.core == c && p.slot == l && p.gen == gen

/-- Whether a posted operation is a store to some byte of a range. -/
def Posted.writes (p : Posted) (pa n : Nat) : Bool :=
  match p.op with | .store e => decide (e.acc.pa < pa + n ∧ pa < e.acc.pa + e.data.length) | _ => false

/-- Whether a posted operation is a far store. -/
def Posted.isStore (p : Posted) : Bool := match p.op with | .store _ => true | _ => false

/-- The die or device that a far store goes to. -/
def farDst (a : Access) : Nat :=
  match a.place with
  | .device d _ => 4 + d
  | .core y => dieOf y
  | .control => match regionOf (localOf a.pa) with | .dieBlock d _ => d | _ => 0

/-- Whether another device can still be reached (R415). -/
def State.lostTo (s : State) (a : Access) : Bool :=
  match a.place with | .device d _ => !s.reach.contains d | _ => false

/-- Release a far store's share of its strand's exit count (R114). -/
def State.ackStore (s : State) (p : Posted) : State :=
  s.modStrand p.core p.slot fun x => if x.gen == p.gen && x.launch == p.key then { x with exits := x.exits - 1 } else x

/-- A far store is performed at its home (R114, R419). -/
def State.farStore (s : State) (e : FifoEntry) : State :=
  match e.acc.place with
  | .control => s.writeControl e.acc.pa (w64 (leNat e.data))
  | p => (s.settle p).performAt p e.acc.pa e.data

/-- A posted far store reaches its home, and is acknowledged (R114, R419). -/
def State.landStore (s : State) (p : Posted) : State :=
  match p.op with
  | .store e => if s.lostTo e.acc then { s with linkErr := s.linkErr + 1 }.ackStore p else (s.farStore e).ackStore p
  | _ => s

/-- Whether a far store of a strand's own to some byte of an access is still on its way: the access is performed after it (R106). -/
def State.trails (s : State) (c l : Nat) (a : Access) (n : Nat) : Bool :=
  s.posted.any fun p => p.by c l (s.strand c l).gen && p.writes a.pa n

/-- The channel group of the core at which a strand's SPAWNQ waits for room, on the die of its sender; none off the die. -/
def Push.group (p : Push) (c : Nat) : Option Nat := if dieOf p.dst = dieOf c then some (groupOf p.dst) else none

/-- Whether a push is a strand's SPAWNQ, on its way until the deque has accepted it (R118, R165). -/
def Push.by (p : Push) (c l : Nat) (gen : BitVec 8) : Bool := p.src == some (c, l, gen)

/-- Whether the probe of s.tbm bit `g` has nothing left to wait for (R119): no posted operation on the paths to its cores, and no SPAWNQ that
waits there. -/
def State.probeDone (s : State) (c l g : Nat) : Bool :=
  let x := s.strand c l
  let at_ (h : Option Nat) : Bool := h == some g || (g == 63 && h == none)
  !(s.posted.any fun p => p.by c l x.gen && at_ p.group) && !(s.pushes.any fun p => p.by c l x.gen && at_ (p.group c))
    && (g != 63 || x.exits == 0)

/-- The s.tbm bits a scope covers (R119). -/
def covers (scope grp g : Nat) : Bool := if scope = 0 then false else if scope = 1 then g == grp else true

/-- A release at a scope (R119): it stops until every step can finish, then finishes them. -/
def releaseOr (stop : Stop) (scope : Nat) : M Unit := do
  let s ← get
  let (c, l) := s.cur
  let x ← me
  if !x.fifo.isEmpty then throw stop
  let gs := (List.range 64).filter fun g => covers scope (groupOf c) g && x.tbm.getLsbD g
  if !(gs.all fun g => s.probeDone c l g) then throw stop
  modMe fun x => { x with tbm := gs.foldl (fun t g => t &&& ~~~(1#64 <<< g)) x.tbm }
  if 3 ≤ scope then modify fun s => s.rdcRelease (dieOf c) (groupOf c)
  if scope = 5 then modify fun s => s.flushCxl

/-- A release at a scope (R119): it parks until every step can finish, then finishes them. -/
def release (scope : Nat) : M Unit := releaseOr (.park (.release scope)) scope

/-- A release of an instruction whose park R420 does not list: it runs to its end. -/
def releaseKept (scope : Nat) : M Unit := releaseOr (.park (.relKept scope)) scope

/-- A register loses a stream element that was loaded and not consumed. -/
def Reg.unload {w : Nat} (r : Reg w) : Reg w := if r.st == .full then { r with st := .empty } else r

/-- Discard every stream element loaded and not yet consumed (R247). -/
def Strand.discard (x : Strand) : Strand :=
  (List.range 8).foldl (fun x i =>
    let t := vget x.streams i
    if t.wr then x
    else match t.bound with
      | none => x
      | some (cls, n) =>
        let x := { x with streams := vset x.streams i { t with loaded := [], failed := none } }
        if cls == 1 then { x with f := vset x.f n (vget x.f n).unload } else { x with v := vset x.v n (vget x.v n).unload }) x

/-- The steps of an acquire at a scope by a strand (R120, R247). -/
def State.acquireAt (s : State) (c l scope : Nat) : State :=
  let s := if 3 ≤ scope then s.rdcFlash (dieOf c) else s
  (if scope = 5 then s.flashCxl else s).modStrand c l Strand.discard

/-- An acquire at a scope (R120). -/
def acquire (scope : Nat) : M Unit := modify fun s => s.acquireAt s.cur.1 s.cur.2 scope

/-! Stores -/

/-- A checked store enters the tail of the strand's FIFO (R110). -/
def pushStore (va : Nat) (a : Access) (data : List Byte) (timed : Option Word := none) : M Unit := do
  let x ← me
  let ctx ← myCtx
  if 8 ≤ x.fifo.length then park .fifoFull
  else modMe fun x => { x with fifo := x.fifo ++ [⟨va, ctx, a, data, timed, x.late.getLsbD 0, false, none⟩] }

/-! Registers -/

/-- s.einfo of DEAD_READ: class and number (R395). -/
def deadInfo (cls n : Nat) : Word := w64 (cls * 32 + n)

/-- Whether register n of the strand is a queue port of its pipeline group (R168). -/
def isPort (n : Nat) : M Bool := do
  let s ← get
  pure (decide (28 ≤ n) && ((s.core s.cur.1).pipeOf s.cur.2).isSome)

/-- The stream bound to a register of a class (1 f, 2 v), if any. -/
def Strand.streamOf (x : Strand) (cls n : Nat) : Option Nat :=
  (List.range 8).find? fun i => (vget x.streams i).bound == some (cls, n)

/-- Change one stream. -/
def modStream (i : Nat) (f : Stream → Stream) : M Unit :=
  modMe fun x => { x with streams := vset x.streams i (f (vget x.streams i)) }

/-- Element size in bytes (R244). -/
def Stream.size (t : Stream) : Nat := if t.esize = 0 then 4 else if t.esize = 1 then 8 else 32

/-- The address of element i (R244). -/
def Stream.addr (t : Stream) (i : Nat) : Nat := (t.base.toNat + i * t.stride.toNat) % 2 ^ 57

/-- The value of a register read as a source, by its state (R178, R199): PENDING and EMPTY park, DEAD gives zero or traps. -/
def readState {w : Nat} (r : Reg w) (cls n : Nat) : M (BitVec w) := do
  match r.st with
  | .full => do
    match r.owe with
    | some sc => do
      acquire sc
      modMe fun x => { x with acq := x.acq ++ [(cls, n, sc)] }
    | none => pure ()
    pure r.val
  | .dead => do
    if (← me).dt then trap causeDead (deadInfo cls n) else pure 0
  | .empty | .pending _ _ => park (.reg cls n)

/-- Read g register n as a source. A queue port pops (R168). -/
def readG (n : Nat) : M Word := do
  if n = 0 then pure 0
  else if (← isPort n) then do
    let s ← get
    match (s.core s.cur.1).pipeOf s.cur.2 with
    | none => pure 0
    | some (i, p) => match vget p.q (n - 28) with
      | .word x :: xs => do
        modCore fun k => { k with pipes := k.pipes.set i { p with q := vset p.q (n - 28) xs } }
        modMe fun y => { y with popped := y.popped ++ [(n - 28, x)] }
        pure x
      | _ => park .queue
  else do
    let x ← readState (vget (← me).g n) 0 n
    modMe fun t => { t with g := vset t.g n { vget t.g n with owe := none } }
    pure x

/-- Consume the element in a read-bound register (R247). -/
def consume (i cls n : Nat) : M Unit := do
  let t := vget (← me).streams i
  let last := t.pos + 1 == t.count
  modStream i fun t => { t with pos := t.pos + 1, done := t.done || last }
  let st : RState := if last then .dead else .empty
  if cls = 1 then modMe fun x => { x with f := vset x.f n { vget x.f n with st := st } }
  else modMe fun x => { x with v := vset x.v n { vget x.v n with st := st } }

/-- Park on a stream's next element. An acquire that the instruction has made on the way stays made: it has discarded the element, which is
then loaded again (R112, R124, R247). -/
def parkStream (i : Nat) : M Unit := do
  match (← me).acq with
  | [] => park (.stream i)
  | acq => throw (.parkAcquired (.stream i) acq)

/-- Read a stream-bound register as a source (R247, R248). -/
def readStream (i cls n : Nat) : M Unit := do
  let x ← me
  let t := vget x.streams i
  if t.wr then throw (.element causeProt (w64 n))
  let st := if cls = 1 then (vget x.f n).st else (vget x.v n).st
  if st == .full then pure ()
  else if st == .dead then pure ()
  -- an element that is loaded comes first; the one that failed is the next one's
  else if !t.loaded.isEmpty then parkStream i
  else match t.failed with
    | some (some (c, info)) => throw (.element c info)
    | some none => match (translate (w64 (t.addr t.pos.toNat)) .load).run (← get) with
      | .error (.park (.walk va _ _ upd)) => throw (.elementWalk va upd)
      | .error (.xfault va _ reason level _) => throw (.elementFault va reason level)
      | .error e => throw e
      | .ok _ => parkStream i
    | none => parkStream i

/-- Read f register n as a source. -/
def readF (n : Nat) : M Word := do
  match (← me).streamOf 1 n with
  | none => do
    let x ← readState (vget (← me).f n) 1 n
    modMe fun t => { t with f := vset t.f n { vget t.f n with owe := none } }
    pure x
  | some i => do
    readStream i 1 n
    let x ← readState (vget (← me).f n) 1 n
    if (vget (← me).f n).st == .full then consume i 1 n
    pure x

/-- Read v register n as a source. -/
def readV (n : Nat) : M VWord := do
  match (← me).streamOf 2 n with
  | none => readState (vget (← me).v n) 2 n
  | some i => do
    readStream i 2 n
    let x ← readState (vget (← me).v n) 2 n
    if (vget (← me).v n).st == .full then consume i 2 n
    pure x

/-- Two sources in field order; one register named twice is read once (R168, R247). -/
def two {α : Type} (read : Nat → M α) (a b : Nat) : M (α × α) := do
  let x ← read a
  if b = a then pure (x, x) else pure (x, ← read b)

/-- Three sources in field order. -/
def three {α : Type} (read : Nat → M α) (a b c : Nat) : M (α × α × α) := do
  let (x, y) ← two read a b
  if c = a then pure (x, y, x) else if c = b then pure (x, y, y) else pure (x, y, ← read c)

/-- Four sources in field order. -/
def four {α : Type} (read : Nat → M α) (a b c d : Nat) : M (α × α × α × α) := do
  let (x, y, z) ← three read a b c
  if d = a then pure (x, y, z, x) else if d = b then pure (x, y, z, y)
  else if d = c then pure (x, y, z, z) else pure (x, y, z, ← read d)

/-- A local write of g register n (R221): g0 discards; a queue port pushes, with room after the instruction's own pops (R168). -/
def writeG (n : Nat) (x : Word) : M Unit := do
  if n = 0 then pure ()
  else if (← isPort n) then do
    let s ← get
    match (s.core s.cur.1).pipeOf s.cur.2 with
    | none => pure ()
    | some (i, p) =>
      let q := vget p.q (n - 28)
      let put (q : List QEntry) : M Unit := modCore fun k => { k with pipes := k.pipes.set i { p with q := vset p.q (n - 28) q } }
      -- a carried instruction's result takes the place held for it
      if q.contains (.held s.cur.2) then put (q.map fun e => if e == .held s.cur.2 then .word x else e)
      else if 8 ≤ q.length then park .queueFull
      else put (q ++ [.word x])
  else modMe fun t => { t with g := vset t.g n (Reg.full x) }

/-- A write to a stream-bound register (R247, R248): a read-bound one takes PROT, a write-bound one stores the next element, which is no access of
R88 (log 75). -/
def writeStream (i n : Nat) (bytes : Nat → List Byte) : M Unit := do
  let t := vget (← me).streams i
  if !t.wr || t.done || t.count.toNat ≤ t.pos.toNat then trap causeProt (w64 n)
  else do
    let va := t.addr t.pos.toNat
    let a ← checked (w64 va) t.size .store
    pushStore va a (bytes t.size)
    modStream i fun t => { t with pos := t.pos + 1, done := t.pos + 1 == t.count }

/-- A local write of f register n. -/
def writeF (n : Nat) (x : Word) : M Unit := do
  match (← me).streamOf 1 n with
  | some i => writeStream i n (natLe x.toNat)
  | none => modMe fun t => { t with f := vset t.f n (Reg.full x) }

/-- A local write of v register n. -/
def writeV (n : Nat) (x : VWord) : M Unit := do
  match (← me).streamOf 2 n with
  | some i => writeStream i n (natLe x.toNat)
  | none => modMe fun t => { t with v := vset t.v n (Reg.full x) }

/-- Write a loaded value to its destination (R254, R255, R257, R258). -/
def writeDest (d : Dest) (bs : List Byte) : M Unit :=
  match d with
  | .none => pure ()
  | .g n bytes signed =>
    let x := leNat bs
    writeG n (if signed && decide (2 ^ (8 * bytes - 1) ≤ x) then w64 (x + (2 ^ 64 - 2 ^ (8 * bytes))) else w64 x)
  | .f n _ => writeF n (w64 (leNat bs))
  | .v n => writeV n (BitVec.ofNat 256 (leNat bs))
  | .element i size va a => do
    pushStore va a (bs.take size)
    modStream i fun t => { t with pos := t.pos + 1, done := t.pos + 1 == t.count }

/-- Try a destination before the access leaves: a full queue port parks, a read-bound stream register traps (R254). -/
def tryDest (d : Dest) : M Unit := do
  let s ← get
  writeDest d (List.replicate 32 0)
  set s

/-- The destination of an instruction that is carried away: a queue port holds a place (R168), a write stream's element keeps the access that
was checked at issue (R254). -/
def holdDest (d : Dest) : M Dest := do
  let elem (i : Nat) : M Dest := do
    let t := vget (← me).streams i
    let va := t.addr t.pos.toNat
    pure (.element i t.size va (← checked (w64 va) t.size .store))
  match d with
  | .g n _ _ => do
    if ← isPort n then do
      let s ← get
      match (s.core s.cur.1).pipeOf s.cur.2 with
      | none => pure ()
      | some (i, p) => modCore fun k => { k with
          pipes := k.pipes.set i { p with q := vset p.q (n - 28) (vget p.q (n - 28) ++ [.held s.cur.2]) } }
    pure d
  | .f n _ => match (← me).streamOf 1 n with
    | some i => elem i
    | none => pure d
  | .v n => match (← me).streamOf 2 n with
    | some i => elem i
    | none => pure d
  | d => pure d

/-! Placement and leaps (R86 to R90) -/

/-- The core that homes an access's line, by device: another device's cores are counted apart (R14, R88). -/
def Access.homeCore (a : Access) (here : Nat) : Nat :=
  match a.place with
  | .core c => c
  | .control => here
  | .device d _ => 2048 * (d + 1) + match regionOf (localOf a.pa) with
    | .dram e _ => dramHome e (localOf a.pa)
    | .spad c _ => c
    | .cxl o => cxlHome o
    | _ => 0

/-- Update the migration predictor and the strand's record for an access (R88): DRAM and scratchpad lines update a counter and clear the record
when homed here; a line of any kind homed away replaces the record. DESIGN CHOICE (log 75): the counter is one of the core the strand runs on
now, wherever it ran at the recorded access. -/
def predict (a : Access) : M Unit := do
  let s ← get
  let x ← me
  let home := a.homeCore s.cur.1
  let note (y : Strand) : Option (Nat × Nat) := some (wbits y.pc 9 2, home)
  if x.leapt = some x.pc then modMe fun x => { x with leapt := none }
  else match regionOf (localOf a.pa) with
    | .dram _ _ | .spad _ _ => do
      match x.mrec with
      | some (i, h) => modCore fun k =>
          let n := (tget k.pred i).getD 1
          { k with pred := tset k.pred i (if h = home then min 3 (n + 1) else n - 1) }
      | none => pure ()
      modMe fun y => { y with mrec := if home = s.cur.1 then none else note y }
    | .cxl _ => if home = s.cur.1 then pure () else modMe fun y => { y with mrec := note y }
    | _ => pure ()

/-- Whether a slot can take a strand: FREE, with nothing of its last one left to drain. -/
def Strand.open_ (x : Strand) : Bool := x.st == .free && x.fifo.isEmpty

/-- The lowest slot of a core that can take a strand (R160). -/
def Core.freeSlot (k : Core) : Option Nat := (List.range 16).find? fun l => (vget k.slots l).open_

/-- The conditions of R89 for a leap to core y, the strand's core being x. -/
def State.canLeap (s : State) (c l y : Nat) : Bool :=
  let x := s.strand c l
  (match s.launchOf c with | some q => q.holds y | none => false)
    && (s.core y).launch == (s.core c).launch && (s.core y).freeSlot.isSome
    && x.g.toList.all (fun r => match r.st with | .pending _ _ => false | _ => true)
    && x.streams.toList.all (fun t => t.bound.isNone)
    && ((s.core c).pipeOf l).isNone && decide (x.dl.toNat < 2)
    && (!x.mig.getLsbD 2 || dieOf y == dieOf c)

/-- Whether R80 permits a leap to where an access is performed: to another core of this device. -/
def leapDst (a : Access) (c : Nat) : Option Nat :=
  match a.place with
  | .core y => if y = c then none else some y
  | _ => none

/-- The choice of R87: MODE, then the hint (0 none, 1 remote word, 2 leap), then the predictor. -/
def choose (hint : Nat) : M Bool := do
  let x ← me
  let k ← myCore
  let mode := x.mig.toNat % 4
  if mode = 1 then pure false
  else if mode = 2 then pure true
  else if hint = 1 then pure false
  else if hint = 2 then pure true
  else pure (decide (2 ≤ (tget k.pred (wbits x.pc 9 2)).getD 1))

/-- A register of a shipped context: EMPTY and DEAD ones arrive as states only (R90). -/
def Reg.ship {w : Nat} (r : Reg w) : Reg w := if r.st == .full then r else { r with val := 0, owe := none }

/-- The slot a leap to core y goes to: reserved when the leap was chosen (R89), or the lowest free one. -/
def State.leapSlot (s : State) (x : Strand) (y : Nat) : Option Nat :=
  match x.going with
  | some (c, m) => if c = y then some m else (s.core y).freeSlot
  | none => (s.core y).freeSlot

/-- A leap to core y has been chosen, and its release waits: the slot is reserved (R89). -/
def State.reserveLeap (s : State) (c l y : Nat) : State :=
  match s.leapSlot (s.strand c l) y with
  | none => s
  | some m => (s.modStrand y m fun z => { z with st := .reserved }).modStrand c l fun x => { x with going := some (y, m) }

/-- Leave for core y (R90): release at package scope, then the context is on its way to its reserved slot. `d`: LEAP's destination. -/
def leapTo (y : Nat) (d : Option Nat) : M After := do
  releaseOr (.parkLeap y) 3
  let s ← get
  let (c, l) := s.cur
  let x ← me
  match s.leapSlot x y with
  | none => pure .next
  | some m => do
    let pc := if d.isSome then x.pc + 4 else x.pc
    let x' := { x with
      pc := pc, tbm := 0, g := x.g.map Reg.ship, f := x.f.map Reg.ship, v := x.v.map Reg.ship
      hpm := vset (vset x.hpm 3 (vget x.hpm 3 + 1)) 0 (vget x.hpm 0 + if d.isSome then 1 else 0)
      leapt := if d.isNone then some x.pc else none, mrec := x.mrec, going := none, popped := [], acq := [] }
    set (((s.modStrand c l fun x => { x with st := .free, prods := [], going := none }).modStrand y m fun z => { z with st := .reserved }))
    modify fun s => { s with leaps := s.leaps ++ [⟨c, y, m, x', d, (s.die (dieOf c)).tu, c * 2 ^ 12 + l * 2 ^ 8 + x.gen.toNat⟩] }
    pure .gone

/-- Whether the strand's instruction has already chosen a leap to a core, and waits in its release. A choice that no longer meets its address,
or of a strand that a PIPE has made a member since (R168), gives its slot back. -/
def standing (y : Option Nat) : M Bool := do
  match (← me).going with
  | none => pure false
  | some (z, _) => do
    let s ← get
    if y = some z && ((s.core s.cur.1).pipeOf s.cur.2).isNone then pure true
    else do
      modify fun s => s.unreserve s.cur.1 s.cur.2
      pure false

/-- The core an access leaps to, when R87 chooses a leap and R89 allows it. A choice already made stands. -/
def leapChosen (a : Access) (hint : Nat) : M (Option Nat) := do
  let dst := leapDst a (← get).cur.1
  let kept ← standing dst
  match dst with
  | none => pure none
  | some y => do
    if kept then pure (some y)
    else do
      let want ← choose hint
      let s ← get
      pure (if want && s.canLeap s.cur.1 s.cur.2 y then some y else none)

/-! Loads -/

/-- Add one to a performance counter of the strand (R408). -/
def count (i : Nat) : M Unit := modMe fun x => { x with hpm := vset x.hpm i (vget x.hpm i + 1) }

/-- The byte of the youngest ordinary FIFO entry that covers an address (R111). -/
def fifoByte (fifo : List FifoEntry) (a : Nat) : Option Byte :=
  fifo.foldl (fun r e => if e.timed.isNone && decide (e.acc.pa ≤ a ∧ a < e.acc.pa + e.data.length)
    then e.data[a - e.acc.pa]? else r) none

/-- Before an atomic, timed access or remote access leaves, its die's remote-data cache gives up the line (R82, R108). -/
def giveUp (a : Access) : M Unit := modify fun s => s.yieldLine (dieOf s.cur.1) a.pa

/-- Read within one sector through the die's remote-data cache; a miss there is counted, and one of the home cache behind it (R92, R408). -/
def readCached (a : Access) (n : Nat) : M (Option (List Byte)) := do
  let s ← get
  match s.rdcRead (dieOf s.cur.1) a n with
  | some (bs, miss, s') => do
    set s'
    if miss then do
      if (s.settle a.place).missesHome a.place (a.pa / 64 * 64) 64 then count 5
      count 6
    pure (some bs)
  | none => pure none

/-- What a load finds at once: its bytes, or that it must be carried to the home (R80, R105). -/
def loadHere (a : Access) (n : Nat) : M (Option (List Byte)) := do
  let s ← get
  let c := s.cur.1
  let bad : M (Option (List Byte)) := trap causeMem (w64 (a.pa / 64 * 64))
  match a.place with
  | .control => match regionOf (localOf a.pa) with
    | .dieBlock d _ => pure (if d = dieOf c then some (natLe (s.readControl a.pa).toNat 8) else none)
    | _ => pure (some (natLe (s.readControl a.pa).toNat 8))
  | .device _ _ => pure none
  | .core y =>
    if y = c then do
      set (s.applyDue y)
      match (s.applyDue y).homeRead a.pa n with
      | some bs => do
        modify fun s => s.fillFor c s.cur.2 a n
        pure (some bs)
      | none => bad
    else if dieOf y = dieOf c then pure none
    else if (regionOf (localOf a.pa)).cached then do
      match ← readCached a n with
      | some bs => pure (some bs)
      | none => bad
    else pure none

/-- Add the remote word accesses of `n` bytes to s.hpm2 (R81, R408); an access to control space is none (R80). -/
def countRemote (a : Access) (n : Nat) : M Unit :=
  if inControl a.pa then pure () else modMe fun x => { x with hpm := vset x.hpm 2 (vget x.hpm 2 + w64 ((n + 7) / 8)) }

/-- Perform a checked load (R109, R111): forwarded, at once, after a leap, or carried to its home. DESIGN CHOICE (log 75): the predictor is asked
(R87) before the access's own update of a counter is made (R88). -/
def loadTail (a : Access) (n : Nat) (d : Dest) (hint : Nat := 0) : M After := do
  let x ← me
  let got := (List.range n).map fun i => fifoByte x.fifo (a.pa + i)
  if got.all Option.isSome then do
    predict a
    writeDest d (got.map fun b => b.getD 0)
    pure .next
  else if got.any Option.isSome then park (.covered a.pa n)
  else do
    tryDest d
    match ← leapChosen a hint with
    | some y => do
      predict a
      leapTo y none
    | none => do
      predict a
      match ← loadHere a n with
      | some bs => do
        writeDest d bs
        pure .next
      | none => do
        giveUp a
        countRemote a n
        pure (.wait (.memory (.read a n (← holdDest d) [])))

/-- A checked store: placement, then the FIFO (R87, R110). -/
def storeTail (va : Nat) (a : Access) (data : List Byte) (hint : Nat := 0) : M After := do
  match ← leapChosen a hint with
  | some y => do
    predict a
    leapTo y none
  | none => do
    predict a
    pushStore va a data
    pure .next

/-! The step of a strand -/

/-- Forget a stream failure once its consumer has trapped or parked on it: the element is loaded again (R247). -/
def Strand.unfail (x : Strand) : Strand := { x with streams := x.streams.map fun t => { t with failed := none } }

/-- The strand `cur` asks its die's walker for a translation, and parks (R27, R29). -/
def State.parkWalk (s : State) (va : Nat) (kind : Kind) (ras upd : Bool) : State :=
  let (c, l) := s.cur
  let x := s.strand c l
  (s.modDie (dieOf c) fun d => { d with
    walks := d.walks ++ [⟨c, l, none, va, kind, ras, upd, s.ctxOf x.launch, !x.sup⟩] }).parkStrand c l (.walk va kind ras upd)

/-- What stopping does to the state the instruction issued from. -/
def State.stopped (s : State) : Stop → State
  | .trap cause info =>
    let (c, l) := s.cur
    let s := (s.letGo c l).modStrand c l Strand.unfail
    (if cause = causeMem then s.countUe info.toNat else s).trapEntry c l cause info
  | .element cause info =>
    ((s.letGo s.cur.1 s.cur.2).modStrand s.cur.1 s.cur.2 Strand.unfail).trapEntry s.cur.1 s.cur.2 cause info
  | .badSector cause info pa =>
    let (c, l) := s.cur
    (((s.letGo c l).modStrand c l Strand.unfail).countUe pa).trapEntry c l cause info
  | .parkK k w p =>
    let (c, l) := s.cur
    (if (s.core c).kq.any fun e => e.2.1 == l then s
      else s.modCore c fun y => { y with kq := y.kq ++ [(k, l, w)] }).parkStrand c l p
  | .park (.walk va kind ras upd) => s.parkWalk va kind ras upd
  | .elementWalk va upd => s.parkWalk va .load false upd
  | .elementFault va reason level => s.strandFault s.cur.1 s.cur.2 va .load reason level false
  | .park p =>
    let (c, l) := s.cur
    (match p with | .stream _ => s.modStrand c l Strand.unfail | _ => s).parkStrand c l p
  | .parkHold p h => (s.modStrand s.cur.1 s.cur.2 fun x => { x with hold := some h }).parkStrand s.cur.1 s.cur.2 p
  | .parkLeap y => (s.reserveLeap s.cur.1 s.cur.2 y).parkStrand s.cur.1 s.cur.2 (.relKept 3)
  | .parkAcquired p acq =>
    let (c, l) := s.cur
    let s := acq.foldl (fun s a => (s.acquireAt c l a.2.2).modStrand c l fun x =>
      if a.1 = 0 then { x with g := vset x.g a.2.1 { vget x.g a.2.1 with owe := none } }
      else { x with f := vset x.f a.2.1 { vget x.f a.2.1 with owe := none } }) s
    (s.modStrand c l Strand.unfail).parkStrand c l p
  | .xfault va kind reason level ras => s.strandFault s.cur.1 s.cur.2 va kind reason level ras

/-- A strand whose stream-bound registers all read as sources: those that have failed for want of an element, and the write-bound ones. -/
def Strand.whole (x : Strand) : Strand :=
  (List.range 8).foldl (fun x i =>
    let t := vget x.streams i
    match t.bound with
    | none => x
    | some (cls, n) =>
      let st := if cls = 1 then (vget x.f n).st else (vget x.v n).st
      if t.wr || (st == .empty && t.loaded.isEmpty && t.failed.isSome) then
        let x := { x with streams := vset x.streams i { t with bound := none } }
        if cls = 1 then { x with f := vset x.f n (Reg.full 0) } else { x with v := vset x.v n (Reg.full 0) }
      else x) x

/-- The state in which stream-bound sources read, and, with s.status.DT clear, DEAD ones too (R199): what then stops is a source's own state. -/
def State.lenient (s : State) (dt : Bool := false) : State := s.modStrand s.cur.1 s.cur.2 fun x => { x.whole with dt := dt && x.dt }

/-- Whether a stop is the park of a source (R178). -/
def Stop.ofSource : Stop → Bool
  | .park (.reg _ _) | .park .queue | .park (.stream _) | .parkAcquired _ _ => true
  | _ => false

/-- The park of a source that the body comes to later than a stop, or that stop. -/
def State.orPark (s : State) (body : M After) (e : Stop) : Stop :=
  match body.run s.lenient with
  | .error p => if p.ofSource then p else e
  | .ok _ => e

/-- Whether a stop is the trap of a DEAD source. -/
def Stop.ofDead : Stop → Bool
  | .trap c _ => c == causeDead
  | _ => false

/-- Whether a stop is what the checks of a stream's element find. -/
def Stop.ofElement : Stop → Bool
  | .element _ _ | .elementWalk _ _ | .elementFault _ _ _ => true
  | _ => false

/-- What decides an instruction's fate, wherever it stands in field order: a source that parks comes before every DEAD one (R178 step 3), and
both before what the checks of a stream's element find (step 4). -/
def State.firstStop (s : State) (body : M After) (e : Stop) : Stop :=
  if e.ofDead then s.orPark body e
  else if e.ofElement then
    let p := s.orPark body e
    if p.ofSource then p
    else match body.run (s.lenient true) with
      | .error q => if q.ofDead then q else e
      | .ok _ => e
  else e

/-- An instruction's body as a step of its strand (R178, R197): stopped, it has no effect of its own. -/
def State.run (s : State) (body : M After) : State :=
  match body.run s with
  | .error e => s.stopped (s.firstStop body e)
  | .ok (a, s') =>
    let (c, l) := s.cur
    match a with
    | .next => s'.retireNext c l
    | .jump pc => s'.modStrand c l fun x => x.retire pc
    | .wait p => s'.parkStrand c l p
    | .gone => s'

/-- An instruction that runs its body. -/
def instr (body : M After) (s : State) : Host.Outcome State Fault Refusal := .next (s.run body)

/-- Run an operation for another strand; stopped, it changes nothing and gives the stop. -/
def State.forStrand (s : State) (c l : Nat) (m : M Unit) : Except Stop State :=
  match m.run { s with cur := (c, l) } with
  | .ok (_, s') => .ok { s' with cur := s.cur }
  | .error e => .error e

end Sys2Proof.Machine
end

