-- ==== Sys2Proof/Machine/Alu.lean ====
section
/-! DEFINITION. Integer arithmetic, immediates and constants (R199 to R205). -/

namespace Sys2Proof.Machine

/-- A form with two g sources and a g destination (R199, R200). -/
def bin (op : Word → Word → Word) (d a b : BitVec 5) : M After := do
  let (x, y) ← two readG a.toNat b.toNat
  writeG d.toNat (op x y)
  pure .next

/-- A form with one g source and a g destination. -/
def una (op : Word → Word) (d a : BitVec 5) : M After := do
  let x ← readG a.toNat
  writeG d.toNat (op x)
  pure .next

/-- A form that reads its destination as well as one other source (R204, R205). -/
def upd (op : Word → Word → Word) (d a : BitVec 5) : M After := do
  let (x, y) ← two readG a.toNat d.toNat
  writeG d.toNat (op x y)
  pure .next

/-- Truth as a word. -/
def ofBool (b : Bool) : Word := if b then 1 else 0

/-- Quotient of R202 at a width. -/
def quot {w : Nat} (a b : BitVec w) : BitVec w := if b = 0 then BitVec.allOnes w else a.sdiv b

/-- Remainder of R202 at a width. -/
def remn {w : Nat} (a b : BitVec w) : BitVec w := if b = 0 then a else a.srem b

/-- Unsigned quotient of R202. -/
def quotN {w : Nat} (a b : BitVec w) : BitVec w := if b = 0 then BitVec.allOnes w else a / b

/-- Unsigned remainder of R202. -/
def remnN {w : Nat} (a b : BitVec w) : BitVec w := if b = 0 then a else a % b

/-- Shift amount of R201. -/
def amt (b : Word) : Nat := b.toNat % 64

/-- Leading zero bits, 64 for zero (R201). -/
def clz (a : Word) : Word := if a = 0 then 64 else w64 (63 - a.toNat.log2)

/-- Trailing zero bits from bit `i`, `fuel` bits at most. -/
def ctzFrom (a : Word) : Nat → Nat → Nat
  | 0, i => i
  | k + 1, i => if a.getLsbD i then i else ctzFrom a k (i + 1)

/-- Trailing zero bits, 64 for zero (R201). -/
def ctz (a : Word) : Word := w64 (ctzFrom a 64 0)

/-- Set bits (R198). -/
def popc (a : Word) : Word := w64 ((List.range 64).countP fun i => a.getLsbD i)

/-- The signed reading (R198). -/
def sx (a : Word) : Int := a.toInt

/-- Bits [127:64] of the signed product (R201). -/
def mulHigh (a b : Word) : Word := wOfInt' (a.toInt * b.toInt / 2 ^ 64)
where
  /-- The low 64 bits of an integer. -/
  wOfInt' (i : Int) : Word := BitVec.ofInt 64 i

/-- Bits [127:64] of the unsigned product (R201). -/
def mulHighN (a b : Word) : Word := w64 (a.toNat * b.toNat / 2 ^ 64)

def execAdd (d a b : BitVec 5) (s : State) := instr (bin (· + ·) d a b) s
def execSub (d a b : BitVec 5) (s : State) := instr (bin (· - ·) d a b) s
def execAnd (d a b : BitVec 5) (s : State) := instr (bin (· &&& ·) d a b) s
def execOr (d a b : BitVec 5) (s : State) := instr (bin (· ||| ·) d a b) s
def execXor (d a b : BitVec 5) (s : State) := instr (bin (· ^^^ ·) d a b) s
def execSll (d a b : BitVec 5) (s : State) := instr (bin (fun x y => x <<< amt y) d a b) s
def execSrl (d a b : BitVec 5) (s : State) := instr (bin (fun x y => x >>> amt y) d a b) s
def execSra (d a b : BitVec 5) (s : State) := instr (bin (fun x y => x.sshiftRight (amt y)) d a b) s
def execSlt (d a b : BitVec 5) (s : State) := instr (bin (fun x y => ofBool (x.slt y)) d a b) s
def execSltn (d a b : BitVec 5) (s : State) := instr (bin (fun x y => ofBool (x.ult y)) d a b) s
def execMin (d a b : BitVec 5) (s : State) := instr (bin (fun x y => if x.slt y then x else y) d a b) s
def execMax (d a b : BitVec 5) (s : State) := instr (bin (fun x y => if x.slt y then y else x) d a b) s
def execMinn (d a b : BitVec 5) (s : State) := instr (bin (fun x y => if x.ult y then x else y) d a b) s
def execMaxn (d a b : BitVec 5) (s : State) := instr (bin (fun x y => if x.ult y then y else x) d a b) s
def execMul (d a b : BitVec 5) (s : State) := instr (bin (· * ·) d a b) s
def execMulh (d a b : BitVec 5) (s : State) := instr (bin mulHigh d a b) s
def execMulhn (d a b : BitVec 5) (s : State) := instr (bin mulHighN d a b) s
def execDiv (d a b : BitVec 5) (s : State) := instr (bin quot d a b) s
def execDivn (d a b : BitVec 5) (s : State) := instr (bin quotN d a b) s
def execRem (d a b : BitVec 5) (s : State) := instr (bin remn d a b) s
def execRemn (d a b : BitVec 5) (s : State) := instr (bin remnN d a b) s
def execClz (d a : BitVec 5) (s : State) := instr (una clz d a) s
def execCtz (d a : BitVec 5) (s : State) := instr (una ctz d a) s
def execPopc (d a : BitVec 5) (s : State) := instr (una popc d a) s

/-- SEL (R201): a when g[c] is not zero, else b. -/
def execSel (d a b c : BitVec 5) (s : State) := instr (do
  let (x, y, z) ← three readG a.toNat b.toNat c.toNat
  writeG d.toNat (if z ≠ 0 then x else y)
  pure .next) s

def execAddsh (d a b sc : BitVec 5) (s : State) := instr (bin (fun x y => x + (y <<< sc.toNat)) d a b) s

def execAddi (d a : BitVec 5) (imm : BitVec 16) (s : State) := instr (una (· + sext64 imm) d a) s
def execAndi (d a : BitVec 5) (imm : BitVec 16) (s : State) := instr (una (· &&& zext64 imm) d a) s
def execOri (d a : BitVec 5) (imm : BitVec 16) (s : State) := instr (una (· ||| zext64 imm) d a) s
def execXori (d a : BitVec 5) (imm : BitVec 16) (s : State) := instr (una (· ^^^ zext64 imm) d a) s
def execSlti (d a : BitVec 5) (imm : BitVec 16) (s : State) := instr (una (fun x => ofBool (x.slt (sext64 imm))) d a) s
def execSlli (d a : BitVec 5) (n : BitVec 6) (s : State) := instr (una (· <<< n.toNat) d a) s
def execSrli (d a : BitVec 5) (n : BitVec 6) (s : State) := instr (una (· >>> n.toNat) d a) s
def execSrai (d a : BitVec 5) (n : BitVec 6) (s : State) := instr (una (·.sshiftRight n.toNat) d a) s

/-- A mask of `len` low ones. -/
def ones (len : Nat) : Word := w64 (2 ^ len - 1)

/-- EXT (R204): the field zero-extended. POS p, AMT l = length − 1. -/
def execExt (d a : BitVec 5) (p l : BitVec 6) (s : State) :=
  instr (una (fun x => (x >>> p.toNat) &&& ones (l.toNat + 1)) d a) s

/-- INS (R204): d with the field replaced. -/
def execIns (d a : BitVec 5) (p l : BitVec 6) (s : State) :=
  instr (upd (fun x y => (y &&& ~~~(ones (l.toNat + 1) <<< p.toNat)) ||| ((x &&& ones (l.toNat + 1)) <<< p.toNat)) d a) s

/-- LDI (R205). -/
def execLdi (d : BitVec 5) (imm : BitVec 21) (s : State) := instr (do
  writeG d.toNat (sext64 imm)
  pure .next) s

/-- LDHI (R205): SignExt((imm21 << 21) OR d[20:0], 42). -/
def execLdhi (d : BitVec 5) (imm : BitVec 21) (s : State) :=
  instr (una (fun x => sext64 (imm ++ x.extractLsb' 0 21)) d d) s

/-- LDXH (R205): (SignExt(imm21, 21) << 42) OR d[41:0]. -/
def execLdxh (d : BitVec 5) (imm : BitVec 21) (s : State) :=
  instr (una (fun x => (sext64 imm <<< 42) ||| (x &&& ones 42)) d d) s

end Sys2Proof.Machine
end

