-- ==== Sys2Proof/Machine/Flags.lean ====
section
/-! DEFINITION. Number formats as exact values, rounding in every mode, and the flags a result raises (R282 to R299). A floating
value is a NaN, an infinity or an exact fraction; every result is rounded once by `Fmt.round`. -/

namespace Sys2Proof.Machine

/-! Flags (R290): NV, DZ, OF, UF, NX from bit 4 down -/

/-- A set of flags. -/
abbrev Flags := BitVec 5

def flagNV : Flags := 16
def flagDZ : Flags := 8
def flagOF : Flags := 4
def flagUF : Flags := 2
def flagNX : Flags := 1

/-! Formats -/

/-- A floating format (R282, R284, R285): width, precision, bias, code of the largest finite magnitude, code of infinity, code of
the default NaN, signed or not, IEEE or P3109. -/
structure Fmt where
  width  : Nat
  p      : Nat
  bias   : Nat
  top    : Nat
  inf    : Option Nat
  nan    : Nat
  signed : Bool
  ieee   : Bool
  deriving DecidableEq, Repr

def fmtD : Fmt := ⟨64, 53, 1023, 0x7FEFFFFFFFFFFFFF, some 0x7FF0000000000000, 0x7FF8000000000000, true, true⟩
def fmtS : Fmt := ⟨32, 24, 127, 0x7F7FFFFF, some 0x7F800000, 0x7FC00000, true, true⟩
def fmtH : Fmt := ⟨16, 11, 15, 0x7BFF, some 0x7C00, 0x7E00, true, true⟩
def fmtBf : Fmt := ⟨16, 8, 127, 0x7F7F, some 0x7F80, 0x7FC0, true, true⟩

/-- The P3109 format of K bits and precision P (R284, R285). -/
def fmtP (k p : Nat) (unsig ext : Bool) : Fmt :=
  if unsig then
    ⟨k, p, 2 ^ (k - p), if ext then 2 ^ k - 3 else 2 ^ k - 2, if ext then some (2 ^ k - 2) else none, 2 ^ k - 1, false, false⟩
  else
    ⟨k, p, 2 ^ (k - p - 1), if ext then 2 ^ (k - 1) - 2 else 2 ^ (k - 1) - 1,
      if ext then some (2 ^ (k - 1) - 1) else none, 2 ^ (k - 1), true, false⟩

/-- The block scale format (R288). -/
def fmtSc8 : Fmt := fmtP 8 1 true false

/-- A descriptor of s.efmt (R189). -/
structure Desc where
  code : Nat
  p    : Nat
  unsig : Bool
  ext  : Bool
  deriving DecidableEq, Repr

/-- The primary descriptor (R189). -/
def primary (efmt : Word) : Desc := ⟨wbits efmt 4 0, wbits efmt 7 5, wbit efmt 8, wbit efmt 9⟩

/-- The secondary descriptor (R189). -/
def secondary (efmt : Word) : Desc := ⟨wbits efmt 14 10, wbits efmt 17 15, wbit efmt 18, wbit efmt 19⟩

/-- SAT (R189). -/
def satOf (efmt : Word) : Bool := wbit efmt 20

/-- Whether a descriptor is valid (R189). -/
def Desc.valid (d : Desc) : Bool :=
  decide (1 ≤ d.code ∧ d.code ≤ 19) &&
    match d.code with
    | 5 => decide (1 ≤ d.p ∧ d.p ≤ 7)
    | 6 => decide (1 ≤ d.p ∧ d.p ≤ 5)
    | 7 => decide (1 ≤ d.p ∧ d.p ≤ 3)
    | _ => d.p == 0 && !d.unsig && !d.ext

/-- Whether a value may be written to s.efmt (R189). -/
def efmtValid (v : Word) : Bool := decide (v.toNat < 2 ^ 21) && (primary v).valid && (secondary v).valid

/-- Whether a code is b8, q6 or q4. -/
def narrow (code : Nat) : Bool := decide (5 ≤ code ∧ code ≤ 7)

/-- The floating format of a code, a narrow one through its descriptor (R188). -/
def floatFmt (code : Nat) (d : Desc) : Option Fmt :=
  match code with
  | 1 => some fmtD
  | 2 => some fmtS
  | 3 => some fmtH
  | 4 => some fmtBf
  | 5 => some (fmtP 8 d.p d.unsig d.ext)
  | 6 => some (fmtP 6 d.p d.unsig d.ext)
  | 7 => some (fmtP 4 d.p d.unsig d.ext)
  | 18 => some fmtSc8
  | _ => none

/-- Width in bits and signedness of an integer code (R188, R289); fx16 counts as 32 bits unsigned. -/
def intFmt (code : Nat) : Option (Nat × Bool) :=
  match code with
  | 8 => some (8, true) | 9 => some (8, false)
  | 10 => some (16, true) | 11 => some (16, false)
  | 12 => some (32, true) | 13 => some (32, false)
  | 14 => some (64, true) | 15 => some (64, false)
  | 16 => some (4, true) | 17 => some (4, false)
  | 19 => some (32, false)
  | _ => none

/-- Width in bits of a format code (R188). -/
def codeWidth (code : Nat) : Nat :=
  match code with
  | 1 => 64 | 2 => 32 | 3 => 16 | 4 => 16 | 5 => 8 | 6 => 6 | 7 => 4 | 18 => 8
  | c => match intFmt c with | some (w, _) => w | none => 0

/-! Values -/

/-- A floating value: NaN, infinity, or sign and exact magnitude n / d (d not zero); the sign of a zero is kept. -/
inductive FVal where
  | nan (sig : Bool)
  | inf (neg : Bool)
  | fin (neg : Bool) (n d : Nat)
  deriving DecidableEq, Repr

/-- 2^e as numerator and denominator. -/
def pow2 (e : Int) : Nat × Nat := if 0 ≤ e then (2 ^ e.toNat, 1) else (1, 2 ^ (-e).toNat)

/-- m * 2^e as a value. -/
def scaled (neg : Bool) (m : Nat) (e : Int) : FVal :=
  let (a, b) := pow2 e
  .fin neg (m * a) b

/-- The value of a code's magnitude (R282, R284). -/
def Fmt.mag (f : Fmt) (neg : Bool) (c : Nat) : FVal :=
  let e := c / 2 ^ (f.p - 1)
  let m := c % 2 ^ (f.p - 1)
  if e = 0 then scaled neg m (1 - (f.bias : Int) - (f.p - 1 : Nat))
  else scaled neg (2 ^ (f.p - 1) + m) ((e : Int) - f.bias - (f.p - 1 : Nat))

/-- The value of a code (R282 to R285). -/
def Fmt.decode (f : Fmt) (x : Nat) : FVal :=
  let x := x % 2 ^ f.width
  let neg := f.signed && decide (2 ^ (f.width - 1) ≤ x)
  let c := if f.signed then x % 2 ^ (f.width - 1) else x
  if f.ieee then
    match f.inf with
    | some i => if c = i then .inf neg else if i < c then .nan (c / 2 ^ (f.p - 2) % 2 == 0) else f.mag neg c
    | none => f.mag neg c
  else if x = f.nan then .nan false
  else if f.inf = some c then .inf neg
  else f.mag neg c

/-- The code of a magnitude with a sign. -/
def Fmt.signedCode (f : Fmt) (neg : Bool) (c : Nat) : Nat := if neg && f.signed then 2 ^ (f.width - 1) + c else c

/-- A rounded result: code, flags, and whether a draw was made (R294). -/
structure Rounded where
  code : Nat
  fl   : Flags
  drew : Bool
  deriving DecidableEq, Repr

/-- The e with 2^e ≤ n / d < 2^(e+1), n and d not zero. -/
def flog2 (n d : Nat) : Int :=
  let e : Int := (n.log2 : Int) - d.log2
  let (a, b) := pow2 e
  if n * b < a * d then e - 1 else e

/-- mix64 of R293. -/
def mix64 (x : Word) : Word :=
  let z := (x ^^^ (x >>> 30)) * 0xA24BAED4963EE407#64
  let z := (z ^^^ (z >>> 27)) * 0x9FB21C651E98DF25#64
  z ^^^ (z >>> 31)

/-- The three-argument mix64 of R293. -/
def mix64x3 (a b c : Word) : Word := mix64 (a ^^^ mix64 (b ^^^ mix64 c))

/-- Round n / d to a multiple of 2^q (R291, R294): the multiple. `even` says whether the lower neighbour has the even code. -/
def roundAt (rm : Nat) (rng : Word) (neg : Bool) (n d : Nat) (q : Int) (even : Nat → Bool) : Nat × Bool :=
  let (a, b) := pow2 q
  let num := n * b
  let den := d * a
  let lo := num / den
  let r := num % den
  if r = 0 then (lo, false)
  else
    let up : Bool :=
      match rm with
      | 0 => if 2 * r = den then !even lo else decide (den < 2 * r)
      | 1 => false
      | 2 => !neg
      | 3 => neg
      | 4 => decide (den ≤ 2 * r)
      | _ => decide ((mix64 rng).toNat * den < (if neg then den - r else r) * 2 ^ 64) != neg
    (if up then lo + 1 else lo, true)

/-- Which result an overflow delivers: true for the largest finite value (R291, R295). -/
def overflowToMax (rm : Nat) (neg : Bool) : Bool := rm == 1 || (rm == 2 && neg) || (rm == 3 && !neg)

/-- Round a non-zero magnitude n / d into a format (R291, R294, R295). -/
def Fmt.roundMag (f : Fmt) (rm : Nat) (sat : Bool) (rng : Word) (neg : Bool) (n d : Nat) : Rounded :=
  let e := flog2 n d
  let emin : Int := 1 - (f.bias : Int)
  let q := max e emin - (f.p - 1 : Nat)
  let field (x : Int) : Nat := (x + f.bias).toNat
  let even (lo : Nat) : Bool := if f.p = 1 then (if lo = 0 then true else field (max e emin) % 2 == 0) else lo % 2 == 0
  let (m, inexact) := roundAt rm rng neg n d q even
  -- tininess: rounded with an unbounded exponent range (R291)
  let (mu, _) := roundAt (if rm = 5 then 0 else rm) rng neg n d (e - (f.p - 1 : Nat))
    (fun lo => if f.p = 1 then (e + f.bias) % 2 == 0 else lo % 2 == 0)
  let tiny := decide (flog2 mu 1 + (e - (f.p - 1 : Nat)) < emin)
  let c := if m < 2 ^ (f.p - 1) then m else (q + (f.p - 1 : Nat) + f.bias).toNat * 2 ^ (f.p - 1) + (m - 2 ^ (f.p - 1))
  -- a result beyond the largest finite value is not representable, so it is inexact and draws
  let drew := rm == 5 && (inexact || decide (f.top < c))
  if f.top < c then
    if overflowToMax rm neg then ⟨f.signedCode neg f.top, flagOF ||| flagNX, drew⟩
    else if sat && !f.ieee then ⟨f.signedCode neg f.top, flagOF ||| flagNX, drew⟩
    else match f.inf with
      | some i => ⟨f.signedCode neg i, flagOF ||| flagNX, drew⟩
      | none => ⟨f.nan, flagOF ||| flagNX, drew⟩
  else ⟨if c = 0 && !f.ieee then 0 else f.signedCode neg c,
    if inexact then (if tiny then flagUF ||| flagNX else flagNX) else 0, drew⟩

/-- Round a value into a format (R291 to R295). A NaN becomes the format's default NaN and raises nothing here. -/
def Fmt.round (f : Fmt) (rm : Nat) (sat : Bool) (rng : Word) (v : FVal) : Rounded :=
  match v with
  | .nan _ => ⟨f.nan, 0, false⟩
  | .inf neg =>
    if !f.ieee && neg && !f.signed then (if sat then ⟨0, flagNX, false⟩ else ⟨f.nan, flagNV, false⟩)
    else if !f.ieee && sat then ⟨f.signedCode neg f.top, 0, false⟩
    else match f.inf with
      | some i => ⟨f.signedCode neg i, 0, false⟩
      | none => ⟨f.nan, flagNV, false⟩
  | .fin neg n d =>
    if n = 0 then ⟨if f.ieee then f.signedCode neg 0 else 0, 0, false⟩
    else if neg && !f.signed then (if sat then ⟨0, flagNX, false⟩ else ⟨f.nan, flagNV, false⟩)
    else f.roundMag rm sat rng neg n d

/-- Round to nearest, ties to even, without flags or draws. -/
def Fmt.rne (f : Fmt) (v : FVal) : Nat := (f.round 0 false 0 v).code

/-! Exact arithmetic -/

/-- Signed numerator. -/
def FVal.snum (neg : Bool) (n : Nat) : Int := if neg then -(n : Int) else n

/-- An exact value and the flags its operation raises (R302). -/
abbrev Exact := FVal × Flags

/-- NV when an operand is a signalling NaN (R283). -/
def nvOf : FVal → Flags
  | .nan true => flagNV
  | _ => 0

/-- Whether a value is a NaN. -/
def FVal.isNan : FVal → Bool
  | .nan _ => true
  | _ => false

/-- A pattern that is a NaN becomes its format's default NaN (R283). -/
def Fmt.plainNan (f : Fmt) (x : Nat) : Nat := if (f.decode x).isNan then f.nan else x

/-- The opposite sign. -/
def FVal.negate : FVal → FVal
  | .nan s => .nan s
  | .inf b => .inf !b
  | .fin b n d => .fin (!b) n d

/-- The exact sum of two values; an exact zero sum of opposite signs takes the sign `rm` gives it (R291: −0 toward −∞). -/
def addVal (rm : Nat) (a b : FVal) : Exact :=
  match a, b with
  | .nan s, y => (.nan false, nvOf (.nan s) ||| nvOf y)
  | x, .nan s => (.nan false, nvOf x ||| nvOf (.nan s))
  | .inf x, .inf y => if x == y then (.inf x, 0) else (.nan false, flagNV)
  | .inf x, .fin _ _ _ => (.inf x, 0)
  | .fin _ _ _, .inf y => (.inf y, 0)
  | .fin s n d, .fin t m e =>
    let r : Int := FVal.snum s n * e + FVal.snum t m * d
    if r = 0 then (.fin (if n = 0 && m = 0 && s == t then s else rm == 3) 0 1, 0)
    else (.fin (decide (r < 0)) r.natAbs (d * e), 0)

/-- The exact product (R302). -/
def mulVal (a b : FVal) : Exact :=
  match a, b with
  | .nan s, y => (.nan false, nvOf (.nan s) ||| nvOf y)
  | x, .nan s => (.nan false, nvOf x ||| nvOf (.nan s))
  | .inf x, .inf y => (.inf (x != y), 0)
  | .inf x, .fin t m _ => if m = 0 then (.nan false, flagNV) else (.inf (x != t), 0)
  | .fin s n _, .inf y => if n = 0 then (.nan false, flagNV) else (.inf (s != y), 0)
  | .fin s n d, .fin t m e => (.fin (s != t) (n * m) (d * e), 0)

/-- The exact quotient (R302). -/
def divVal (a b : FVal) : Exact :=
  match a, b with
  | .nan s, y => (.nan false, nvOf (.nan s) ||| nvOf y)
  | x, .nan s => (.nan false, nvOf x ||| nvOf (.nan s))
  | .inf _, .inf _ => (.nan false, flagNV)
  | .inf x, .fin t _ _ => (.inf (x != t), 0)
  | .fin s _ _, .inf y => (.fin (s != y) 0 1, 0)
  | .fin s n d, .fin t m e =>
    if m = 0 then (if n = 0 then (.nan false, flagNV) else (.inf (s != t), flagDZ))
    else (.fin (s != t) (n * e) (d * m), 0)

/-- a × b + c exactly, once rounded by the caller (R302). -/
def fmaVal (rm : Nat) (a b c : FVal) : Exact :=
  let (p, f) := mulVal a b
  let (r, g) := addVal rm p c
  (r, f ||| g ||| nvOf c)

/-- Bitwise integer square root: the bits from `k` down. -/
def isqrtBits (n : Nat) : Nat → Nat → Nat
  | 0, r => r
  | k + 1, r => let t := r + 2 ^ k
    isqrtBits n k (if t * t ≤ n then t else r)

/-- The integer square root. -/
def isqrt (n : Nat) : Nat := isqrtBits n (n.log2 / 2 + 1) 0

/-- A value strictly between r / 2^k and (r + 1) / 2^k when inexact, r / 2^k when exact: enough for one correct rounding. -/
def sticky (neg : Bool) (r k : Nat) (exact : Bool) : FVal :=
  if exact then .fin neg r (2 ^ k) else .fin neg (2 * r + 1) (2 ^ (k + 1))

/-- √(n / d) to at least 140 significant bits. -/
def sqrtPos (n d : Nat) : FVal :=
  let k := 150 + d.log2
  let t := n * 2 ^ (2 * k) / d
  let r := isqrt t
  sticky false r k (r * r * d == n * 2 ^ (2 * k))

/-- The square root (R302). -/
def sqrtVal : FVal → Exact
  | .nan s => (.nan false, nvOf (.nan s))
  | .inf neg => if neg then (.nan false, flagNV) else (.inf false, 0)
  | .fin neg n d =>
    if n = 0 then (.fin neg 0 1, 0) else if neg then (.nan false, flagNV) else (sqrtPos n d, 0)

/-- The reciprocal (R296). -/
def rcpVal : FVal → Exact
  | .nan s => (.nan false, nvOf (.nan s))
  | .inf neg => (.fin neg 0 1, 0)
  | .fin neg n d => if n = 0 then (.inf neg, flagDZ) else (.fin neg d n, 0)

/-- The reciprocal square root (R296). -/
def rsqrtVal : FVal → Exact
  | .nan s => (.nan false, nvOf (.nan s))
  | .inf neg => if neg then (.nan false, flagNV) else (.fin false 0 1, 0)
  | .fin neg n d =>
    if n = 0 then (.inf neg, flagDZ) else if neg then (.nan false, flagNV) else (sqrtPos d n, 0)

/-- Working precision of exp2, in fraction bits. -/
def expBits : Nat := 320

/-- Multiply `acc` by 2^(1/2), 2^(1/4), … as the bits of the fraction frac / den say, in fixed point. -/
def exp2Frac (den : Nat) : Nat → Nat → Nat → Nat → Nat
  | 0, _, _, acc => acc
  | k + 1, frac, root, acc =>
    let root' := isqrt (root * 2 ^ expBits)
    let f2 := 2 * frac
    if den ≤ f2 then exp2Frac den k (f2 - den) root' (acc * root' / 2 ^ expBits)
    else exp2Frac den k f2 root' acc

/-- 2^(±n / d), d a power of two (R296). Beyond every format's range it is an amount surely outside it. -/
def exp2Fin (neg : Bool) (n d : Nat) : FVal :=
  let i := n / d
  if 2000 < i then (if neg then .fin false 1 (2 ^ 2000) else .fin false (2 ^ 2000) 1)
  else
    let r := n % d
    let (fl, fr) : Int × Nat := if neg then (if r = 0 then (-(i : Int), 0) else (-(i : Int) - 1, d - r)) else (i, r)
    if fr = 0 then scaled false 1 fl
    else
      let m := exp2Frac d 160 fr (2 * 2 ^ expBits) (2 ^ expBits)
      scaled false (2 * m + 1) (fl - expBits - 1)

/-- 2^a (R296). -/
def exp2Val : FVal → Exact
  | .nan s => (.nan false, nvOf (.nan s))
  | .inf neg => (if neg then .fin false 0 1 else .inf false, 0)
  | .fin neg n d => (if n = 0 then .fin false 1 1 else exp2Fin neg n d, 0)

/-- `k` fraction bits of log2 of y / 2^w, 1 ≤ y / 2^w < 2, by squaring. -/
def log2Frac (w : Nat) : Nat → Nat → Nat → Nat
  | 0, _, acc => acc
  | k + 1, y, acc =>
    let z := y * y / 2 ^ w
    if 2 ^ (w + 1) ≤ z then log2Frac w k (z / 2) (2 * acc + 1) else log2Frac w k z (2 * acc)

/-- log2 of n / d (R296): exact for powers of two, else to 160 fraction bits. -/
def log2Pos (n d : Nat) : FVal :=
  let e := flog2 n d
  let (a, b) := pow2 e
  if n * b = a * d then .fin (decide (e < 0)) e.natAbs 1
  else
    let y := n * b * 2 ^ 400 / (a * d)
    let fr := log2Frac 400 160 y 0
    let t : Int := e * 2 ^ 161 + (2 * fr + 1 : Nat)
    .fin (decide (t < 0)) t.natAbs (2 ^ 161)

/-- log2 a (R296). -/
def log2Val : FVal → Exact
  | .nan s => (.nan false, nvOf (.nan s))
  | .inf neg => if neg then (.nan false, flagNV) else (.inf false, 0)
  | .fin neg n d =>
    if n = 0 then (.inf true, flagDZ) else if neg then (.nan false, flagNV)
    else if n = d then (.fin false 0 1, 0) else (log2Pos n d, 0)

/-! Comparison -/

/-- a < b of two values that are no NaN, with −0 below +0 when `zeros` (R303). -/
def ltVal (zeros : Bool) : FVal → FVal → Bool
  | .inf x, .inf y => x && !y
  | .inf x, .fin _ _ _ => x
  | .fin _ _ _, .inf y => !y
  | .fin s n d, .fin t m e =>
    let l : Int := FVal.snum s n * e
    let r : Int := FVal.snum t m * d
    decide (l < r) || (zeros && decide (l = r) && n == 0 && s && !t)
  | _, _ => false

/-- a = b of two values that are no NaN. -/
def eqVal (a b : FVal) : Bool := !a.isNan && !b.isNan && !ltVal false a b && !ltVal false b a

/-- FMIN or FMAX (R303): which operand, or the default NaN, and the flags. -/
def minmaxVal (isMax : Bool) (a b : FVal) : Option Bool × Flags :=
  let fl := nvOf a ||| nvOf b
  if a.isNan && b.isNan then (none, fl)
  else if a.isNan then (some false, fl)
  else if b.isNan then (some true, fl)
  else
    let aLess := ltVal true a b
    (some (if isMax then !aLess else aLess || !ltVal true b a), fl)

/-! Long sums (R297, R298) -/

/-- The exact sum of terms in any order (R298): special values first; an exact zero sum is +0 unless every term is −0. -/
def sumVal (ts : List FVal) : FVal × Flags :=
  let pos := ts.any (fun t => t == .inf false)
  let neg := ts.any (fun t => t == .inf true)
  if pos && neg then (.nan false, flagNV)
  else if ts.any FVal.isNan then (.nan false, 0)
  else
    if pos then (.inf false, 0)
    else if neg then (.inf true, 0)
    else
      let s : Int × Nat := ts.foldl (fun (a : Int × Nat) t => match t with
        | .fin sg n d => (a.1 * d + FVal.snum sg n * a.2, a.2 * d)
        | _ => a) (0, 1)
      if s.1 = 0 then
        (.fin (!ts.isEmpty && ts.all fun t => match t with | .fin sg n _ => sg && n == 0 | _ => false) 0 1, 0)
      else (.fin (decide (s.1 < 0)) s.1.natAbs s.2, 0)

/-- An element times its scale, exactly; NaN for ∞ × 0, which is an invalid multiplication (R288, R298). -/
def scaleVal (x s : FVal) : Exact := match mulVal x s with | (v, f) => (v, f &&& flagNV)

/-! Integers -/

/-- The value of an integer code's low bits (R289, R307). -/
def intOf (w : Nat) (signed : Bool) (x : Nat) : Int :=
  let x := x % 2 ^ w
  if signed && decide (2 ^ (w - 1) ≤ x) then (x : Int) - 2 ^ w else x

/-- The low 64 bits of an integer. -/
def wOfInt (i : Int) : Word := BitVec.ofInt 64 i

/-- Round a value to an integer multiple of 2^(−shift) under `rm`: the multiple, whether inexact (R306). -/
def roundInt (rm : Nat) (rng : Word) (shift : Nat) (neg : Bool) (n d : Nat) : Int × Bool :=
  let (m, x) := roundAt rm rng neg n d (-(shift : Int)) (fun lo => lo % 2 == 0)
  (FVal.snum neg m, x)

/-- A value into an integer or fixed-point format (R306): pattern of the format's width, flags, draw. -/
def toInt (code rm : Nat) (rng : Word) (v : FVal) : Rounded :=
  match intFmt code with
  | none => ⟨0, 0, false⟩
  | some (w, sg) =>
    let hi : Int := if sg then 2 ^ (w - 1) - 1 else 2 ^ w - 1
    let lo : Int := if sg then -(2 ^ (w - 1)) else 0
    let pat (i : Int) : Nat := (i % 2 ^ w).toNat
    match v with
    | .nan _ => ⟨0, flagNV, false⟩
    | .inf neg => ⟨pat (if neg then lo else hi), flagNV, false⟩
    | .fin neg n d =>
      let (i, x) := roundInt rm rng (if code = 19 then 16 else 0) neg n d
      if hi < i then ⟨pat hi, flagNV, rm == 5 && x⟩
      else if i < lo then ⟨pat lo, flagNV, rm == 5 && x⟩
      else ⟨pat i, if x then flagNX else 0, rm == 5 && x⟩

/-- The value of an integer or fixed-point code (R307). -/
def ofInt (code : Nat) (x : Nat) : FVal :=
  match intFmt code with
  | none => .fin false 0 1
  | some (w, sg) =>
    let i := intOf w sg x
    .fin (decide (i < 0)) i.natAbs (if code = 19 then 65536 else 1)

/-- Convert between any two formats (R305 to R307, R314): source code and descriptor, destination code and descriptor. -/
def convert (dst : Nat) (dd : Desc) (src : Nat) (sd : Desc) (rm : Nat) (sat : Bool) (rng : Word) (x : Nat) : Rounded :=
  match floatFmt dst dd, floatFmt src sd with
  | some f, some g =>
    let v := g.decode x
    let r := f.round rm (sat && dst != 18) rng v
    { r with fl := r.fl ||| nvOf v }
  | some f, none => f.round rm (sat && dst != 18) rng (ofInt src x)
  | none, some g => toInt dst rm rng (g.decode x)
  | none, none => toInt dst rm rng (ofInt src x)

end Sys2Proof.Machine
end

