-- ==== Sys2Proof/Machine/LoadStore.lean ====
section
/-! DEFINITION. Loads, stores, indexed and timed accesses, row and placement controls, fences and atomics (R46 to R54, R252 to R271). -/

namespace Sys2Proof.Machine

/-! Ordinary loads and stores (R255 to R260) -/

/-- A load of `n` bytes at `va` (R255). -/
def load (va : Word) (n : Nat) (d : Dest) (hint : Nat := 0) : M After := do
  let a ← checked va n .load
  loadTail a n d hint

/-- A store of `n` bytes at `va` (R256). -/
def store (va : Word) (n : Nat) (x : Nat) (hint : Nat := 0) : M After := do
  let a ← checked va n .store
  storeTail va.toNat a (natLe x n) hint

/-- An offset-form load into a g register. -/
def loadG (n : Nat) (signed : Bool) (d a : BitVec 5) (imm : BitVec 16) : M After := do
  let x ← readG a.toNat
  load (x + sext64 imm) n (.g d.toNat n signed)

/-- An offset-form store of a g register. Sources are read in field order a, b. -/
def storeG (n : Nat) (b a : BitVec 5) (imm : BitVec 16) : M After := do
  let (x, y) ← two readG a.toNat b.toNat
  store (x + sext64 imm) n y.toNat

def execLdb (d a : BitVec 5) (imm : BitVec 16) (s : State) := instr (loadG 1 true d a imm) s
def execLdbn (d a : BitVec 5) (imm : BitVec 16) (s : State) := instr (loadG 1 false d a imm) s
def execLdh (d a : BitVec 5) (imm : BitVec 16) (s : State) := instr (loadG 2 true d a imm) s
def execLdhn (d a : BitVec 5) (imm : BitVec 16) (s : State) := instr (loadG 2 false d a imm) s
def execLdw (d a : BitVec 5) (imm : BitVec 16) (s : State) := instr (loadG 4 true d a imm) s
def execLdwn (d a : BitVec 5) (imm : BitVec 16) (s : State) := instr (loadG 4 false d a imm) s
def execLdd (d a : BitVec 5) (imm : BitVec 16) (s : State) := instr (loadG 8 false d a imm) s
def execStb (b a : BitVec 5) (imm : BitVec 16) (s : State) := instr (storeG 1 b a imm) s
def execSth (b a : BitVec 5) (imm : BitVec 16) (s : State) := instr (storeG 2 b a imm) s
def execStw (b a : BitVec 5) (imm : BitVec 16) (s : State) := instr (storeG 4 b a imm) s
def execStd (b a : BitVec 5) (imm : BitVec 16) (s : State) := instr (storeG 8 b a imm) s

/-- VLD (R258). -/
def execVld (d : BitVec 4) (a : BitVec 5) (imm : BitVec 16) (s : State) := instr (do
  let x ← readG a.toNat
  load (x + (sext64 imm <<< 5)) 32 (.v d.toNat)) s

/-- VST (R258). -/
def execVst (b : BitVec 4) (a : BitVec 5) (imm : BitVec 16) (s : State) := instr (do
  let x ← readG a.toNat
  let y ← readV b.toNat
  store (x + (sext64 imm <<< 5)) 32 y.toNat) s

/-- A floating load (R257). -/
def loadF (n : Nat) (d a : BitVec 5) (imm : BitVec 16) : M After := do
  let x ← readG a.toNat
  load (x + sext64 imm) n (.f d.toNat n)

/-- A floating store (R257). -/
def storeF (n : Nat) (b a : BitVec 5) (imm : BitVec 16) : M After := do
  let x ← readG a.toNat
  let y ← readF b.toNat
  store (x + sext64 imm) n y.toNat

def execFldd (d a : BitVec 5) (imm : BitVec 16) (s : State) := instr (loadF 8 d a imm) s
def execFlds (d a : BitVec 5) (imm : BitVec 16) (s : State) := instr (loadF 4 d a imm) s
def execFstd (b a : BitVec 5) (imm : BitVec 16) (s : State) := instr (storeF 8 b a imm) s
def execFsts (b a : BitVec 5) (imm : BitVec 16) (s : State) := instr (storeF 4 b a imm) s

/-- LDX (R260). -/
def execLdx (d a b : BitVec 5) (h : BitVec 2) (n : BitVec 1) (sc : BitVec 2) (s : State) := instr (do
  let (x, y) ← two readG a.toNat b.toNat
  load (x + y) (2 ^ sc.toNat) (.g d.toNat (2 ^ sc.toNat) (n == 0)) h.toNat) s

/-- STX (R260): d is the data register. -/
def execStx (d a b : BitVec 5) (h : BitVec 2) (sc : BitVec 2) (s : State) := instr (do
  let (x, y, z) ← three readG a.toNat b.toNat d.toNat
  store (x + y) (2 ^ sc.toNat) z.toNat h.toNat) s

/-! Timed access (R261, R262) -/

/-- Whether a FIFO entry of any kind covers a byte of an access (R148). -/
def FifoEntry.overlaps (e : FifoEntry) (pa n : Nat) : Bool := decide (e.acc.pa < pa + n ∧ pa < e.acc.pa + e.data.length)

/-- LDT (R261): carried to its home once no FIFO entry covers a byte of it. -/
def execLdt (d a b : BitVec 5) (n : BitVec 1) (sc : BitVec 2) (s : State) := instr (do
  let (va, t) ← two readG a.toNat b.toNat
  let w := 2 ^ sc.toNat
  let x ← checked va w .timedLoad
  if (← me).fifo.any (·.overlaps x.pa w) then park (.covered x.pa w)
  let dst : Dest := .g d.toNat w (n == 0)
  tryDest dst
  predict x
  giveUp x
  if x.place != .core (← get).cur.1 then countRemote x w
  pure (.wait (.timedLoad (.timedRead x w t (← holdDest dst) false)))) s

/-- STT (R262): into the FIFO with its time and policy. -/
def execStt (d a b : BitVec 5) (sc : BitVec 2) (s : State) := instr (do
  let (va, t, y) ← three readG a.toNat b.toNat d.toNat
  let w := 2 ^ sc.toNat
  let x ← checked va w .timedStore
  predict x
  pushStore va.toNat x (natLe y.toNat w) (some t)
  pure .next) s

/-! Near rows (R41 to R54) -/

/-- A bank. -/
def Channel.bank (c : Channel) (b : Nat) : Bank := (tget c.banks b).getD ⟨[], none, []⟩

/-- Change a bank. -/
def Channel.modBank (c : Channel) (b : Nat) (f : Bank → Bank) : Channel := { c with banks := tset c.banks b (f (c.bank b)) }

/-- Renumber the entries 0, 1, 2 … in AGE order before the counter would pass 2^32 − 1 (R54). -/
def Near.renumber (x : Near) : Near :=
  if 2 ^ 32 ≤ x.next then
    let rank (e : NearRow) : Nat := x.rows.countP fun p => decide (p.2.age < e.age)
    ⟨x.rows.map fun p => (p.1, { p.2 with age := rank p.2 }), x.rows.length⟩
  else x

/-- The oldest of some entries. -/
def oldest : Tab NearRow → Option (Nat × NearRow)
  | [] => none
  | p :: t => match oldest t with
    | some q => if p.2.age < q.2.age then some p else some q
    | none => some p

/-- The near row a promotion takes, and its dirty victim (R48, R54): a free one, else the eviction order. -/
def Near.take (x : Near) : Option (Nat × Option NearRow) :=
  match (List.range 32).find? fun i => (tget x.rows i).isNone with
  | some i => some (i, none)
  | none =>
    match oldest (x.rows.filter fun p => !p.2.pin && !p.2.soft) with
    | some (i, e) => some (i, some e)
    | none => match oldest (x.rows.filter fun p => !p.2.pin && p.2.soft) with
      | some (i, e) => some (i, some e)
      | none => none

/-- A row operation closes the bank's remembered row without an update (R57). -/
def Channel.rowOp (c : Channel) (b : Nat) : Channel := c.modBank b fun x => { x with mem := none }

/-- Promote a row (R47, R48, R53): the status code, PINNED and WB, and the channel after. -/
def Channel.promote (c : Channel) (r : RowAt) (pin soft : Bool) : Nat × Bool × Bool × Channel :=
  let x := (c.sub r).renumber
  match x.find r.frow with
  | some (i, e) =>
    let e' := { e with soft := soft || e.soft, age := x.next, pin := e.pin || pin }
    -- a renumbering is a row operation of the bank (R54)
    (1, e'.pin, false, (if 2 ^ 32 ≤ (c.sub r).next then c.rowOp r.bank else c).setSub r ⟨tset x.rows i e', x.next + 1⟩)
  | none => match x.take with
    | none => (3, false, false, { c with nfull := if soft then c.nfull + 1 else c.nfull })
    | some (i, v) =>
      let wb := match v with | some e => e.dirty | none => false
      let c := (c.setSub r ⟨tset x.rows i ⟨r.frow, false, pin, soft, x.next⟩, x.next + 1⟩).rowOp r.bank
      (0, pin, wb, { c with prom := c.prom + 1, evic := if v.isSome then c.evic + 1 else c.evic })

/-- Demote a row (R47, R49). -/
def Channel.demote (c : Channel) (r : RowAt) : Nat × Bool × Channel :=
  let x := c.sub r
  match x.find r.frow with
  | none => (4, false, c)
  | some (i, e) =>
    let c := (c.setSub r { x with rows := tdel x.rows i }).rowOp r.bank
    (0, e.dirty, { c with evic := c.evic + 1 })

/-- The status word of R47. -/
def rowStatus (code : Nat) (pinned wb : Bool) : Word := w64 (code + (if pinned then 256 else 0) + (if wb then 512 else 0))

/-- The physical address of a row's first byte (R9, R41). -/
def State.rowBase (s : State) (r : RowAt) : Nat :=
  s.devid.toNat * 2 ^ 46 + r.ch / 64 * 0x3000000000 + (r.m * 32 + (r.bank ^^^ bits r.m 12 8)) * 2 ^ 17 + r.ch % 64 * 2 ^ 11

/-- A row is copied near, its check bits with it: the far row's bad sectors are kept apart (R44, R67). -/
def State.toNear (s : State) (r : RowAt) : State :=
  let mine (a : Nat) : Bool := a / 2048 == s.rowBase r / 2048
  { s with badFar := s.badFar.filter (fun a => !mine a) ++ s.badSectors.filter mine }

/-- A near copy leaves: a dirty one is written over its far row, and a clean one gives way to the far row as it stands (R44, R67). -/
def State.fromNear (s : State) (r : RowAt) (dirty : Bool) : State :=
  let mine (a : Nat) : Bool := a / 2048 == s.rowBase r / 2048
  { s with
    badSectors := if dirty then s.badSectors else s.badSectors.filter (fun a => !mine a) ++ s.badFar.filter mine
    badFar := s.badFar.filter fun a => !mine a }

/-- A promotion at its controller (R47, R48, R53): the status code, PINNED and WB, and the state after. -/
def State.promoteRow (s : State) (r : RowAt) (pin soft : Bool) : Nat × Bool × Bool × State :=
  let c := s.chan r.ch
  let (code, pinned, wb, c') := c.promote r pin soft
  let s' := s.modChan r.ch fun _ => c'
  if code ≠ 0 then (code, pinned, wb, s')
  else
    let s' := match (c.sub r).renumber.take with
      | some (_, some v) => s'.fromNear { r with frow := v.frow, m := r.sub * 512 + v.frow } v.dirty
      | _ => s'
    (code, pinned, wb, s'.toNear r)

/-- A demotion at its controller (R47, R49). -/
def State.demoteRow (s : State) (r : RowAt) : Nat × Bool × State :=
  let (code, wb, c) := (s.chan r.ch).demote r
  let s := s.modChan r.ch fun _ => c
  (code, wb, if code = 0 then s.fromNear r wb else s)

/-- PROMOTE at the controller (R46, R47). -/
def promoteAt (a : Access) (pin : Bool) : M Word := do
  match rowOf a.pa with
  | none => pure (rowStatus 5 false false)
  | some r => do
    let s ← get
    if a.lc = 0 then
      pure (rowStatus 2 (match ((s.chan r.ch).sub r).find r.frow with | some (_, e) => e.pin | none => false) false)
    else do
      let (code, pinned, wb, s') := s.promoteRow r pin true
      set s'
      pure (rowStatus code pinned wb)

/-- DEMOTE at the controller (R46, R47). -/
def demoteAt (a : Access) : M Word := do
  match rowOf a.pa with
  | none => pure (rowStatus 5 false false)
  | some r => do
    let s ← get
    let (code, wb, s') := s.demoteRow r
    set s'
    pure (rowStatus code false wb)

/-- PROMOTE on another device, whose directories this machine does not hold (log 2): of R47's codes, those that its leaf and its address
leave open. -/
def promoteFar (a : Access) (pin : Bool) : M Word := do
  match rowOf a.pa with
  | none => pure (rowStatus 5 false false)
  | some _ => do
    let n ← freeNat
    let b := decide (n / 3 % 2 = 1)
    pure (if a.lc = 0 then rowStatus 2 b false
      else match n % 3 with
        | 0 => rowStatus 0 pin b
        | 1 => rowStatus 1 (pin || b) false
        | _ => rowStatus 3 false false)

/-- DEMOTE on another device (log 2). -/
def demoteFar (a : Access) : M Word := do
  match rowOf a.pa with
  | none => pure (rowStatus 5 false false)
  | some _ => do
    let n ← freeNat
    pure (if n % 2 = 0 then rowStatus 0 false (decide (n / 2 % 2 = 1)) else rowStatus 4 false false)

/-- A row command (R263): translated as a load, sent to its controller, its word to d. A CXL-window address is NOTDRAM, backed or not. -/
def rowCommand (d a : BitVec 5) (act far : Access → M Word) : M After := do
  let va ← readG a.toNat
  let (x, bad) ← translate va .load
  checkRefused x bad false
  let w ← match x.place with
    | .device _ _ => far x
    | _ => act x
  if d ≠ 0 then writeG d.toNat w
  pure .next

/-- PROMOTE (R263). -/
def execPromote (d a : BitVec 5) (p : BitVec 1) (s : State) := instr (rowCommand d a (fun x => promoteAt x (p == 1)) fun x => promoteFar x (p == 1)) s

/-- DEMOTE (R263). -/
def execDemote (d a : BitVec 5) (s : State) := instr (rowCommand d a demoteAt demoteFar) s

/-! PREF and LEAP (R264, R265) -/

/-- The access of a PREF when every check of R252 passes, pegs apart (R130), and the state after the walk it may take (R25, R26); it
parks, traps and posts nothing. -/
def State.prefAccess (s : State) (va : Word) : Option Access × State :=
  let x := s.strand s.cur.1 s.cur.2
  let ctx := s.ctxOf x.launch
  let go (s : State) (e : TlbEnt) : Option Access × State :=
    ((s.accessOf e va.toNat).bind fun a =>
      if inControl a.pa || s.refused a.pa || s.gone a.pa then none else some a, s)
  let walked : Option Access × State := match s.walk ctx va.toNat .load (!x.sup) with
    | (.ok e, s) => go (s.tlbFill s.cur.1 va.toNat e) e
    | (.error _, s) => (none, s)
  -- a walk that has to wait for a reroute is not made
  let walked := if s.walkHeld ctx va.toNat then (none, s) else walked
  if va.toNat / 2 ^ 57 ≠ 0 then (none, s)
  else match s.tlbFind s.cur.1 ctx va.toNat with
    | none => walked
    | some e => if !leafAllows e.leaf .load (!x.sup) then (none, s) else if leafStale e.leaf .load then walked else go s e

/-- Whether reading g register n as a source would neither park nor trap. -/
def readable (n : Nat) : M Bool := do
  let s ← get
  let x ← me
  if n = 0 then pure true
  else if ← isPort n then
    pure (match (s.core s.cur.1).pipeOf s.cur.2 with
      | some (_, p) => match vget p.q (n - 28) with | .word _ :: _ => true | _ => false
      | none => false)
  else pure (match (vget x.g n).st with | .full => true | .dead => !x.dt | _ => false)

/-- PREF (R264): brings a sector homed on the issuing die into its home's cache, and one homed on another die into the issuing die's
remote-data cache; changes timing only otherwise, and never parks or traps. -/
def execPref (a : BitVec 5) (s : State) := instr (do
  if ← readable a.toNat then do
    let va ← readG a.toNat
    let (r, s) := (← get).prefAccess va
    set s
    match r with
    | some x => match x.place with
      | .core y =>
        let q : Access := { x with pa := x.pa / 64 * 64 }
        if (regionOf (localOf x.pa)).cached then
          if dieOf y = dieOf s.cur.1 then
            let s' := s.settle x.place
            set (match s'.homeGet q.pa 64 with
              | some _ => s'.homeFill x.place q.pa 64 x.lc
              | none => s'.countUe q.pa)
          else match s.rdcRead (dieOf s.cur.1) q 64 with
            | some (_, _, s') => set s'
            | none => set (s.countUe q.pa)
      | _ => pure ()
    | none => pure ()
  pure .next) s

/-- Whether an address has no home (R265): a region that R357 refuses has one. -/
def State.homeless (s : State) (pa : Nat) : Bool :=
  decide (1536 ≤ devOf pa) || (devOf pa != s.devid.toNat && !s.reach.contains (devOf pa)) || regionOf (localOf pa) == .hole

/-- LEAP (R265). -/
def execLeap (d a : BitVec 5) (s : State) := instr (do
  let va ← readG a.toNat
  let (x, bad) ← translate va .load
  let s ← get
  if bad || s.homeless x.pa then trap causeProt (w64 x.pa)
  let kept ← standing (leapDst x s.cur.1)
  match x.place with
  | .core y =>
    if y = s.cur.1 then do
      writeG d.toNat 1
      pure .next
    else if kept || s.canLeap s.cur.1 s.cur.2 y then do leapTo y (some d.toNat)
    else do
      writeG d.toNat 3
      pure .next
  | _ => do
    writeG d.toNat 2
    pure .next) s

/-! Fences (R266) -/

/-- FENCE (R121). -/
def execFence (sc : BitVec 3) (s : State) := instr (do
  release sc.toNat
  acquire sc.toNat
  pure .next) s

/-- ACQ (R120). -/
def execAcq (sc : BitVec 3) (s : State) := instr (do
  acquire sc.toNat
  pure .next) s

/-- REL (R119). -/
def execRel (sc : BitVec 3) (s : State) := instr (do
  release sc.toNat
  pure .next) s

/-! Atomics (R267 to R271) -/

/-- A floating atomic on width-sized patterns (R270). -/
def famo (isMax : Bool) (n old b : Nat) : Nat :=
  let f := if n = 8 then fmtD else fmtS
  let x := f.decode old
  let y := f.decode b
  if isMax then
    match minmaxVal true x y with
    | (none, _) => f.nan
    | (some first, _) => if first then old else b
  else f.rne (addVal 0 x y).1

/-- What an atomic of width n bytes writes; none when it writes nothing (R268 to R270). -/
def amoNew (op : AmoOp) (n old b cmp : Nat) : Option Nat :=
  let m := 2 ^ (8 * n)
  let b := b % m
  let so := intOf (8 * n) true old
  let sb := intOf (8 * n) true b
  match op with
  | .add => some ((old + b) % m)
  | .and => some (old &&& b)
  | .or => some (old ||| b)
  | .xor => some (old ^^^ b)
  | .min => some (if so < sb then old else b)
  | .max => some (if so < sb then b else old)
  | .minn => some (min old b)
  | .maxn => some (max old b)
  | .swap => some b
  | .cas => if old = cmp % m then some b else none
  | .fadd => some (famo false n old b)
  | .fmax => some (famo true n old b)

/-- Whether an atomic's old value is sign-extended for .w (R267). -/
def AmoOp.signed : AmoOp → Bool
  | .minn | .maxn | .fadd | .fmax => false
  | _ => true

/-- Perform a strand's atomic at the home (R115): the old bytes and the state after; none for an uncorrectable sector. -/
def State.amoAt (s : State) (c l : Nat) (a : Access) (n : Nat) (op : AmoOp) (b cmp : Word) : Option (List Byte × State) :=
  let s := s.settle a.place
  match s.homeRead a.pa n with
  | none => none
  | some bs =>
    let s := (s.fillFor c l a n).book a.place a.pa
    let s := match amoNew op n (leNat bs) b.toNat cmp.toNat with
      | some x => s.homeWrite a.pa (natLe x n)
      | none => s
    some (bs, s)

/-- Every check of R267 at issue. -/
def amoChecked (va : Word) (n : Nat) : M Access := checked va n .atomic

/-- Carry an atomic to its home and perform it there (R115, R122). -/
def amoGo (a : Access) (n : Nat) (op : AmoOp) (b cmp : Word) (d : Nat) (acq rel : Bool) : M After := do
  let sc := match a.place with | .device _ _ => 4 | _ => 3
  if !(← me).fifo.isEmpty then park .fifoEmpty
  if rel then releaseKept sc
  let dst : Dest := .g d n op.signed
  tryDest dst
  match ← leapChosen a 0 with
  | some y => do
    predict a
    leapTo y none
  | none => do
    predict a
    giveUp a
    let s ← get
    match a.place with
    | .core y =>
      if y = s.cur.1 then
        match s.amoAt s.cur.1 s.cur.2 a n op b cmp with
        | none => trap causeMem (w64 (a.pa / 64 * 64))
        | some (bs, s') => do
          set s'
          writeDest dst bs
          if acq then acquire sc
          pure .next
      else do
        countRemote a n
        pure (.wait (.memory (.amo a n op b cmp (← holdDest dst) (if acq then some sc else none))))
    | _ => do
      countRemote a n
      pure (.wait (.memory (.amo a n op b cmp (← holdDest dst) (if acq then some sc else none))))

/-- An integer atomic (R268). -/
def amo (op : AmoOp) (d a b : BitVec 5) (r q sc : BitVec 1) : M After := do
  let (va, y) ← two readG a.toNat b.toNat
  let n := if sc = 1 then 8 else 4
  let x ← amoChecked va n
  amoGo x n op y 0 d.toNat (q == 1) (r == 1)

def execAmoadd (d a b : BitVec 5) (r q sc : BitVec 1) (s : State) := instr (amo .add d a b r q sc) s
def execAmoand (d a b : BitVec 5) (r q sc : BitVec 1) (s : State) := instr (amo .and d a b r q sc) s
def execAmoor (d a b : BitVec 5) (r q sc : BitVec 1) (s : State) := instr (amo .or d a b r q sc) s
def execAmoxor (d a b : BitVec 5) (r q sc : BitVec 1) (s : State) := instr (amo .xor d a b r q sc) s
def execAmomin (d a b : BitVec 5) (r q sc : BitVec 1) (s : State) := instr (amo .min d a b r q sc) s
def execAmomax (d a b : BitVec 5) (r q sc : BitVec 1) (s : State) := instr (amo .max d a b r q sc) s
def execAmominn (d a b : BitVec 5) (r q sc : BitVec 1) (s : State) := instr (amo .minn d a b r q sc) s
def execAmomaxn (d a b : BitVec 5) (r q sc : BitVec 1) (s : State) := instr (amo .maxn d a b r q sc) s
def execAmoswap (d a b : BitVec 5) (r q sc : BitVec 1) (s : State) := instr (amo .swap d a b r q sc) s

/-- AMOCAS (R269): d is the compare value and the destination. -/
def execAmocas (d a b : BitVec 5) (r q sc : BitVec 1) (s : State) := instr (do
  let (va, y, c) ← three readG a.toNat b.toNat d.toNat
  let n := if sc = 1 then 8 else 4
  let x ← amoChecked va n
  amoGo x n .cas y c d.toNat (q == 1) (r == 1)) s

/-- The base of a core's hamper: after the launch's save area, one run of blocks for each core (R165, R412). -/
def Launch.hamperBase (q : Launch) (c : Nat) : Nat := q.save + 2 ^ q.logn * 0xA0000 + (c - q.first) * q.hblk * 4096

/-- The hamper base of the issuing core. -/
def myHamper : M Nat := do
  let s ← get
  pure (match s.launchOf s.cur.1 with | some q => q.hamperBase s.cur.1 | none => 0)

/-- The 32 bytes of a deferred atomic (R271): its form and size stand above the 57 bits of the address (log 20). -/
def OaEntry.bytes (e : OaEntry) : List Byte :=
  natLe (e.acc.pa % 2 ^ 57 + (if e.n = 8 then 2 ^ 57 else 0) + if e.max then 2 ^ 58 else 0) 8 ++ natLe e.b.toNat 8 ++ natLe e.lane.toNat 8
    ++ natLe e.seq 8

/-- Enter a deferred atomic (R271): on a 257th entry, the oldest 128 go to the hamper's last free block. -/
def oaEnter (e : OaEntry) : M Unit := do
  let s ← get
  let k := s.core s.cur.1
  let q := s.launchOf s.cur.1
  if k.oab.length < 256 then modCore fun k => { k with oab := k.oab ++ [e] }
  else
    let blocks := match q with | some q => q.hblk | none => 0
    if blocks ≤ k.hamper + k.oaBlocks.length then trap causeHamper (w64 (← myHamper))
    else do
      let base := (← myHamper) + (blocks - 1 - k.oaBlocks.length) * 4096
      modify fun s => s.writeSpan base ((k.oab.take 128).flatMap OaEntry.bytes)
      modCore fun k => { k with oaBlocks := k.oab.take 128 :: k.oaBlocks, oab := k.oab.drop 128 ++ [e] }

/-- AMOFADD and AMOFMAX (R270, R271): at the home at level 0, deferred at levels 1 and 2. DESIGN CHOICE (log 75): a deferred one makes no choice
of placement (R87) and is no access of the predictor's record (R88). -/
def famoInstr (isMax : Bool) (d a b : BitVec 5) (r q sc : BitVec 1) : M After := do
  let (va, y) ← two readG a.toNat b.toNat
  let n := if sc = 1 then 8 else 4
  let x ← amoChecked va n
  if (← me).dl = 0 then amoGo x n (if isMax then .fmax else .fadd) y 0 d.toNat (q == 1) (r == 1)
  else do
    let scope := match x.place with | .device _ _ => 4 | _ => 3
    if !(← me).fifo.isEmpty then park .fifoEmpty
    if r = 1 then releaseKept scope
    let s ← get
    let t ← me
    oaEnter ⟨x, n, isMax, y, t.lane, t.seq, s.cur.1, s.cur.2⟩
    let port ← isPort d.toNat
    modMe fun t => { t with
      seq := t.seq + 1
      g := if d = 0 || port then t.g else vset t.g d.toNat ⟨0, .dead, none⟩ }
    if q = 1 then acquire scope
    pure .next

def execAmofadd (d a b : BitVec 5) (r q sc : BitVec 1) (s : State) := instr (famoInstr false d a b r q sc) s
def execAmofmax (d a b : BitVec 5) (r q sc : BitVec 1) (s : State) := instr (famoInstr true d a b r q sc) s

/-! Applying the ordered-atomic buffer (R134, R271) -/

/-- The order of application: address, lane, sequence number, core, slot. -/
def OaEntry.before (x y : OaEntry) : Bool :=
  let key (e : OaEntry) : List Nat := [e.acc.pa, e.lane.toNat, e.seq, e.core, e.slot]
  decide (key x < key y)

/-- Insert in order of application. -/
def oaInsert (e : OaEntry) : List OaEntry → List OaEntry
  | [] => [e]
  | x :: xs => if e.before x then e :: x :: xs else x :: oaInsert e xs

/-- Whether an entry of a launch's buffer is for another device while routes are recomputed: its application waits (R415). -/
def State.orderedHeld (s : State) (key : BitVec 24) : Bool :=
  s.reroute && s.cores.any fun p => p.2.launch == some key &&
    (p.2.oab ++ p.2.oaBlocks.flatten).any fun e => match e.acc.place with | .device _ _ => true | _ => false

/-- The far stores that the issuer of an entry has on their way to the entry's home are performed before it (R106, R114). -/
def State.landBefore (s : State) (e : OaEntry) : State :=
  let mine (p : Posted) : Bool := p.core == e.core && p.slot == e.slot && match p.op with | .store f => farDst f.acc == farDst e.acc | _ => false
  (s.posted.filter mine).foldl State.landStore { s with posted := s.posted.filter fun p => !mine p }

/-- Apply a launch's buffer (R271); a refused access or an uncorrectable sector discards an entry and marks the launch. An entry is carried to
its home as its issuer's other atomics are: what its die's remote-data cache holds of the line goes there first (R82, R106), and the issuer's
far stores on their way there. DESIGN CHOICE (log 88): a spilled entry is applied as its core keeps it, whatever its hamper block holds. -/
def State.applyOrdered (s : State) (key : BitVec 24) : State :=
  let mine (k : Core) : Bool := k.launch == some key
  let es := s.cores.flatMap fun p => if mine p.2 then p.2.oab ++ p.2.oaBlocks.flatten else []
  let s := { s with cores := s.cores.map fun (p : Nat × Core) => if mine p.2 then (p.1, { p.2 with oab := [], oaBlocks := [] }) else p }
  (es.foldl (fun a e => oaInsert e a) []).foldl (fun s e =>
    let s := s.landBefore e
    if s.refused e.acc.pa || s.gone e.acc.pa then s.modLaunch key fun l => { l with err := true }
    else match (s.yieldLine (dieOf e.core) e.acc.pa).amoAt e.core e.slot e.acc e.n (if e.max then .fmax else .fadd) e.b 0 with
      | some (_, s') => s'
      | none => (s.countUe e.acc.pa).modLaunch key fun l => { l with err := true }) s

end Sys2Proof.Machine
end

