-- ==== Sys2Proof/Machine/Tasks.lean ====
section
/-! DEFINITION. Starting a strand (R160), task records (R164), deques and hampers (R165), and the bytes of join records (R380). -/

namespace Sys2Proof.Machine

/-! Starting a strand -/

/-- The start state of a strand in a slot of a launch (R160), with the slot's next generation (R155). -/
def Launch.startState (q : Launch) (old : Strand) (lane : Nat) (pc : Word) (a : List Word) : Strand :=
  let base := w64 (q.stack + lane * 2 ^ q.ssz)
  let g := (List.range 4).foldl (fun (g : Vector (Reg 64) 32) i => vset g (4 + i) (Reg.full (a.getD i 0)))
    (vset (vset Strand.reset.g 1 (Reg.full q.gp)) 2 (Reg.full (base + w64 (2 ^ q.ssz))))
  { Strand.reset with
    st := .ready, gen := old.gen + 1, pc := pc, g := g
    efmt := q.efmt, tvec := q.tvec, rng := q.seed + w64 lane, rasp := base, rasb := base
    lane := w64 lane, nlane := w64 (16 * 2 ^ q.logn), launch := q.key, dl := BitVec.ofNat 2 q.level, sup := q.priv }

/-- Start a strand (R160), after an acquire at a scope (R125). -/
def State.startStrand (s : State) (c l : Nat) (pc : Word) (a : List Word) (scope : Nat) : State :=
  match s.launchOf c with
  | none => s
  | some q =>
    let s := s.modStrand c l fun x => q.startState x (q.lane c l) pc a
    let s := if 3 ≤ scope then s.rdcFlash (dieOf c) else s
    if scope = 5 then s.flashCxl else s

/-- The narrowest scope that contains two cores of a device (R116). -/
def scopeOf (c d : Nat) : Nat :=
  if c = d then 0 else if c / 8 = d / 8 then 1 else if dieOf c = dieOf d then 2 else 3

/-! Stealing (R166) -/

/-- The cores of a launch. -/
def Launch.cores_ (q : Launch) : List Nat := (List.range (2 ^ q.logn)).map (q.first + ·)

/-- The number of a core's steal domain. -/
def domainOf (sdom c : Nat) : Nat := match sdom with | 0 => c / 8 | 1 => c / 128 | 2 => c / 512 | _ => 0

/-- The other cores that a thief asks, in order. -/
def State.victims (s : State) (c : Nat) : List Nat :=
  match s.launchOf c with
  | none => []
  | some q =>
    let cs := q.cores_.filter fun v => v != c && domainOf q.sdom v == domainOf q.sdom c
    cs.filter (c < ·) ++ cs.filter (· < c)

/-- The narrowest scope that contains a core and every core that may steal from it (R125, R166). -/
def State.stealScope (s : State) (c : Nat) : Nat :=
  match s.launchOf c with
  | some q => if q.level < 2 then (s.victims c).foldl (fun a v => max a (scopeOf c v)) 0 else 0
  | none => 0

/-! Task records -/

/-- The flags doubleword of a record (R164). -/
def TaskRec.flags (r : TaskRec) : Nat :=
  r.pmask.toNat * 16 + (if r.cons then 8 else 0) + (if r.prod then 4 else 0) + r.opidx.toNat

/-- The 64 bytes of a record (R164). -/
def TaskRec.bytes (r : TaskRec) : List Byte :=
  natLe r.pc.toNat 8 ++ (List.range 4).flatMap (fun i => natLe (r.a.getD i 0).toNat 8)
    ++ natLe r.jref 8 ++ natLe r.flags 8 ++ natLe r.key.toNat 8

/-- The record in 64 bytes (R164). -/
def recOf (bs : List Byte) : TaskRec :=
  let w (i : Nat) : Nat := leNat ((bs.drop (8 * i)).take 8)
  ⟨w64 (w 0), (List.range 4).map (fun i => w64 (w (i + 1))), w 5, BitVec.ofNat 4 (bits (w 6) 7 4), (w 6).testBit 3,
    (w 6).testBit 2, BitVec.ofNat 2 (w 6), BitVec.ofNat 24 (w 7)⟩

/-- Whether a push accepts the 64 bytes of a record (R164). -/
def recOk (bs : List Byte) : Bool :=
  let w (i : Nat) : Nat := leNat ((bs.drop (8 * i)).take 8)
  w 0 % 4 == 0 && w 6 / 256 == 0 && w 7 / 2 ^ 24 == 0 && !((w 6).testBit 2 && (w 6).testBit 3)

/-! Deques (R165). The bottom record comes first. -/

/-- The base of a core's hamper (R165). -/
def State.hamperOf (s : State) (c : Nat) : Nat := match s.launchOf c with | some q => q.hamperBase c | none => 0

/-- One push at the bottom of a core's deque; none when it would spill while the hamper is full. -/
def State.pushOne (s : State) (c : Nat) (r : TaskRec) : Option State :=
  let k := s.core c
  let d := r :: k.deque
  if d.length ≤ 112 then some (s.setCore c ({ k with deque := d } : Core) |>.modCore c (·.signal 1))
  else
    let blocks := match s.launchOf c with | some q => q.hblk | none => 0
    if blocks ≤ k.hamper + k.oaBlocks.length then none
    else
      -- the 64 oldest, bottom first, as one block above the earlier ones (log 10)
      let old := d.drop (d.length - 64)
      let s := s.writeSpan (s.hamperOf c + k.hamper * 4096) (old.flatMap TaskRec.bytes)
      some (s.modCore c fun k => ({ k with deque := d.take (d.length - 64), hamper := k.hamper + 1 } : Core).signal 1)

/-- A watchpoint whose push is no longer in flight may push again (R280). -/
def State.pushLanded (s : State) (p : Push) : State :=
  match p.wp with
  | none => s
  | some (d, i) => s.modDie d fun x => match tget x.wps i with
    | some w => { x with wps := if w.owner == p.r.key then tset x.wps i { w with busy := false } else x.wps }
    | none => x

/-- Whether a push of the core's present launch waits at the core for room. -/
def Push.waits (p : Push) (c : Nat) (k : Option (BitVec 24)) : Bool := p.here && p.dst == c && k == some p.r.key

/-- The pushes from elsewhere that wait at a core are made in order of arrival, as long as there is room (R165). -/
def State.enterWaiting (c : Nat) : Nat → State → State
  | 0, s => s
  | n + 1, s =>
    match s.pushes.findIdx? fun p => p.waits c (s.core c).launch with
    | none => s
    | some i => match s.pushes[i]? with
      | none => s
      | some p => match ({ s with pushes := s.pushes.eraseIdx i } : State).pushOne c p.r with
        | some s' => State.enterWaiting c n (s'.pushLanded p)
        | none => s

/-- Push a record at the bottom of a core's deque, behind the pushes that have arrived before it (R165); none when it would spill while the
hamper is full. -/
def State.pushRec (s : State) (c : Nat) (r : TaskRec) : Option State :=
  if s.pushes.isEmpty then s.pushOne c r
  else
    let s := State.enterWaiting c s.pushes.length s
    if s.pushes.any fun p => p.waits c (s.core c).launch then none else s.pushOne c r

/-- After a pop or steal: below 16 records the latest block returns to the top, and the pushes that wait are made while there is room. A
record whose sector is refused or cannot be read is lost (log 10). -/
def State.refill (s : State) (c : Nat) : State :=
  let k := s.core c
  if k.deque.length < 16 && k.hamper ≠ 0 then
    let base := s.hamperOf c + (k.hamper - 1) * 4096
    let (recs, s) := (List.range 64).foldl (fun (r : List TaskRec × State) i =>
      let (b, s) := r.2.readSpan (base + i * 64) 64
      (r.1 ++ (b.map recOf).toList, s)) (([] : List TaskRec), s)
    let s := s.modCore c fun k => { k with deque := k.deque ++ recs, hamper := k.hamper - 1 }
    State.enterWaiting c s.pushes.length s
  else State.enterWaiting c s.pushes.length s

/-- Take the bottom record. -/
def State.popRec (s : State) (c : Nat) : Option (TaskRec × State) :=
  match (s.core c).deque with
  | [] => none
  | r :: d => some (r, (s.modCore c fun k => { k with deque := d }).refill c)

/-- Take the top record. -/
def State.stealRec (s : State) (c : Nat) : Option (TaskRec × State) :=
  match (s.core c).deque.getLast? with
  | none => none
  | some r => some (r, (s.modCore c fun k => { k with deque := k.deque.dropLast }).refill c)

/-- A push from elsewhere that has arrived is made when it can be, and otherwise waits at the core (R165); at a core whose launch has aborted it
is discarded (R399). `src` names the strand whose SPAWNQ it is. -/
def State.pushFrom (s : State) (c : Nat) (r : TaskRec) (src : Option (Nat × Nat × BitVec 8) := none) : State :=
  if (match s.launchOf c with | some q => q.abort.isSome | none => false) then s
  else match s.pushRec c r with
  | some s => s
  | none => { s with pushes := s.pushes ++ [⟨c, r, none, true, src⟩] }

/-! Join records (R379, R380) -/

/-- A join record as read: control word, values, consumer PC, producer words. -/
structure Join where
  ctl : Nat
  v   : List Word
  cpc : Word
  pw  : List Nat
  deriving DecidableEq, Repr

/-- The fields of the control word (R380). -/
def Join.gen (j : Join) : Nat := bits j.ctl 63 56
def Join.wmask (j : Join) : Nat := bits j.ctl 55 52
def Join.pmask (j : Join) : Nat := bits j.ctl 47 44
def Join.state (j : Join) : Nat := bits j.ctl 43 42
def Join.release (j : Join) : Bool := j.ctl.testBit 41
def Join.abs (j : Join) : Bool := j.ctl.testBit 40
def Join.arity (j : Join) : Nat := bits j.ctl 39 38 + 1
def Join.fmt (j : Join) : Nat := bits j.ctl 37 36
def Join.op (j : Join) : Nat := bits j.ctl 35 32

/-- Replace bits `hi` to `lo` of a number. -/
def setBits (x hi lo v : Nat) : Nat := x - bits x hi lo * 2 ^ lo + (v % 2 ^ (hi + 1 - lo)) * 2 ^ lo

/-- KIND of producer word i (R380). -/
def Join.kind (j : Join) (i : Nat) : Nat := bits (j.pw.getD i 0) 31 29

/-- WHO of producer word i (R380). -/
def Join.who (j : Join) (i : Nat) : Nat := bits (j.pw.getD i 0) 22 0

/-- A registered producer is unsettled until its KIND becomes 4 (R380). -/
def Join.unsettled (j : Join) (i : Nat) : Bool := decide (1 ≤ j.kind i ∧ j.kind i ≤ 3)

/-- Whether OP, FMT and ABS go together (R381). -/
def joinConfigOk (op fmt : Nat) (abs : Bool) : Bool :=
  match op with
  | 0 => fmt == 0 && !abs
  | 1 => !abs
  | 2 => true
  | 3 | 4 => decide (fmt ≤ 1)
  | 5 | 6 => true
  | _ => false

/-- A malformed control word (R383). DEDUCED (log 33): the MBZ fields are those of the control word and of the producer words. -/
def Join.malformed (j : Join) : Bool :=
  bits j.ctl 51 48 != 0 || bits j.ctl 31 0 != 0 || !joinConfigOk j.op j.fmt j.abs
    || (j.state == 0 && (j.pmask != 0 || j.wmask != 0)) || (List.range 4).any fun i => decide (5 ≤ j.kind i) || bits (j.pw.getD i 0) 28 23 != 0

/-- The record in 64 bytes. -/
def joinOf (bs : List Byte) : Join :=
  let w (i : Nat) : Nat := leNat ((bs.drop (8 * i)).take 8)
  ⟨w 0, (List.range 4).map fun i => w64 (w (1 + i)), w64 (w 5), (List.range 4).map fun i => leNat ((bs.drop (48 + 4 * i)).take 4)⟩

/-- The 64 bytes of a join record. -/
def Join.bytes (j : Join) : List Byte :=
  natLe j.ctl 8 ++ (List.range 4).flatMap (fun i => natLe (j.v.getD i 0).toNat 8) ++ natLe j.cpc.toNat 8
    ++ (List.range 4).flatMap fun i => natLe (j.pw.getD i 0) 4

/-- The home core of a join record by its physical address, when it names a 64-byte-aligned record in the populated scratchpad
of a core of this device (R164, R229). -/
def State.joinHome (s : State) (pa : Nat) : Option Nat :=
  if devOf pa = s.devid.toNat ∧ pa % 64 = 0 then
    match regionOf (localOf pa) with
    | .spad c off => if off < 0x80000 then some c else none
    | _ => none
  else none

/-- The join word of a record (R379). -/
def joinWord (j : Join) (pa : Nat) : Word := w64 (j.gen * 2 ^ 56 + bits pa 30 20 * 2 ^ 19 + bits pa 18 6 * 2 ^ 6)

/-- The record a join word names (R379). -/
def joinPa (dev : BitVec 11) (w : Word) : Nat :=
  dev.toNat * 2 ^ 46 + 0x100000000000 + wbits w 29 19 * 2 ^ 20 + wbits w 18 6 * 64

/-- WHO of a strand. -/
def whoStrand (c l : Nat) (gen : BitVec 8) : Nat := c * 2 ^ 12 + l * 2 ^ 8 + gen.toNat

/-- Remove one join from a strand's producer list, if the strand is still the one named (R391). -/
def State.unlist (s : State) (who pa : Nat) : State :=
  let (c, l) := (bits who 22 12, bits who 11 8)
  if (s.strand c l).gen.toNat = bits who 7 0 then s.modStrand c l fun x => { x with prods := x.prods.erase pa } else s

/-- An unsettled producer word becomes KIND 4, and the join leaves the list of a strand that none of its words records any more (R387, R391). -/
def State.settleProducer (s : State) (pa i : Nat) (j : Join) : Join × State :=
  if !j.unsettled i then (j, s)
  else
    let j' := { j with pw := j.pw.set i (4 * 2 ^ 29) }
    let still := (List.range 4).any fun k => j'.kind k == 2 && j'.who k == j.who i
    (j', if j.kind i = 2 && !still then s.unlist (j.who i) pa else s)

/-- Recycle a released record with no producer unsettled (R392): the record, and whether it was recycled. -/
def Join.recycle (j : Join) : Join × Bool :=
  if j.release && !(List.range 4).any j.unsettled then
    (⟨(j.gen + 1) % 256 * 2 ^ 56, List.replicate 4 0, 0, List.replicate 4 0⟩, true)
  else (j, false)

/-- Write the changed doublewords of a join record at its home (R382). -/
def State.putJoin (s : State) (pa : Nat) (j : Join) : State :=
  (List.range 8).foldl (fun s i =>
    let new := (j.bytes.drop (8 * i)).take 8
    if s.homeRead (pa + 8 * i) 8 = some new then s else s.perform (pa + 8 * i) new) s

/-- Read a join record at its home; none when a sector is uncorrectable. -/
def State.getJoin (s : State) (pa : Nat) : Option Join := (s.homeRead pa 64).map joinOf

/-! Popped and stolen records (R164) -/

/-- Start a record's strand in the core's lowest free slot. Records name no creator, so the acquire is at package scope (log 11). -/
def State.startRec (s : State) (c : Nat) (r : TaskRec) (prods : List Nat) : State :=
  match (s.core c).freeSlot with
  | none => s
  | some l => (s.startStrand c l r.pc r.a 3).modStrand c l fun x => { x with prods := prods }

/-- What becomes of a popped record (R164). DESIGN CHOICE (log 79): a producer's record is discarded when its join record is uncorrectable, and
the error is counted. -/
def State.dispatch (s : State) (c : Nat) (r : TaskRec) : State :=
  if (s.core c).launch ≠ some r.key then s
  else if !r.prod then s.startRec c r []
  else match s.joinHome r.jref with
    | none => s
    | some h =>
      let s := s.applyDue h
      match s.getJoin r.jref with
      | none => s.countUe r.jref
      | some j =>
        let i := r.opidx.toNat
        if j.malformed || (j.kind i == 1 && j.wmask.testBit i) then
          let (j, s) := s.settleProducer r.jref i j
          s.putJoin r.jref j.recycle.1
        else if j.kind i = 1 then
          match (s.core c).freeSlot with
          | none => s
          | some l =>
            let s := s.startRec c r [r.jref]
            s.putJoin r.jref { j with pw := j.pw.set i (2 * 2 ^ 29 + whoStrand c l (s.strand c l).gen) }
        else s.startRec c r []

end Sys2Proof.Machine
end

