-- ==== Sys2Proof/Machine/Sync.lean ====
section
/-! DEFINITION. Barriers, sleeping and watchpoints (R272 to R281). -/

namespace Sys2Proof.Machine

/-! Loads of several doublewords by one instruction -/

/-- Eight bytes at a checked address, forwarded or read at their coherence point in this step (log 12). Each is an access of R88 (log 75). -/
def wordAt (a : Access) : M Word := do
  let x ← me
  let got := (List.range 8).map fun i => fifoByte x.fifo (a.pa + i)
  predict a
  if got.all Option.isSome then pure (w64 (leNat (got.map fun b => b.getD 0)))
  else if got.any Option.isSome then park (.covered a.pa 8)
  else do
    match ← loadHere a 8 with
    | some bs => pure (w64 (leNat bs))
    | none => do
      giveUp a
      countRemote a 8
      let s ← get
      if s.trails s.cur.1 s.cur.2 a 8 then park (.covered a.pa 8)
      match s.readAtHome s.cur.1 s.cur.2 a 8 with
      | (some bs, s') => do
        set s'
        pure (w64 (leNat bs))
      | (none, _) => trap causeMem (w64 (a.pa / 64 * 64))

/-- Doublewords from an address, each under R252. -/
def wordsAt (va : Word) : Nat → M (List Word)
  | 0 => pure []
  | n + 1 => do
    let a ← checked va 8 .load
    let w ← wordAt a
    pure (w :: (← wordsAt (va + 8) n))

/-! Barriers -/

/-- A unit's number: die * 256 + unit. -/
def barUnit (w : Word) : Nat := w.toNat % 1024

/-- The state of a unit; an unowned one is not listed (log 8). -/
def State.barrier (s : State) (u : Nat) : Option Barrier := tget (s.die (u / 256)).bars (u % 256)

/-- Replace the state of a unit. -/
def State.setBarrier (s : State) (u : Nat) (b : Barrier) : State :=
  s.modDie (u / 256) fun d => { d with bars := tset d.bars (u % 256) b }

/-- A barrier form's word and unit: PROT unless MBZ is zero, the unit is the launch's, and SCOPE contains both cores (R272). -/
def barrierOf (w : Word) : M (Nat × Barrier) := do
  let s ← get
  if 1024 ≤ w.toNat then trap causeProt w
  else match s.barrier (barUnit w) with
    | none => trap causeProt w
    | some b =>
      if b.owner != (← me).launch || decide (b.scope < scopeOf s.cur.1 b.init) then trap causeProt w
      else pure (barUnit w, b)

/-- The phase numbered `p` of a unit has completed (R275). -/
def phaseDone (phase p : BitVec 32) : Bool := decide (1 ≤ (phase - p).toNat ∧ (phase - p).toNat ≤ 2 ^ 31)

/-- Count one arrival; the last one applies the ordered-atomic buffer, and then advances the phase (R274). -/
def State.arrive (s : State) (u : Nat) (b : Barrier) : State :=
  if b.count ≤ b.arrived + 1 then
    (s.applyOrdered b.owner).setBarrier u { b with arrived := 0, phase := b.phase + 1 }
  else s.setBarrier u { b with arrived := b.arrived + 1 }

/-- The arrival that completes a phase waits, before it is made, while an ordered atomic of the launch waits for a reroute (R415). -/
def holdArrival (b : Barrier) : M Unit := do
  if decide (b.count ≤ b.arrived + 1) && (← get).orderedHeld b.owner then park .reroute

/-- ARRIVE (R274). -/
def execArrive (d a : BitVec 5) (s : State) := instr (do
  let w ← readG a.toNat
  let (u, b) ← barrierOf w
  release b.scope
  holdArrival b
  writeG d.toNat (zext64 b.phase)
  modify fun s => s.arrive u b
  pure .next) s

/-- WAITB (R275). -/
def execWaitb (a b : BitVec 5) (s : State) := instr (do
  let (w, p) ← two readG a.toNat b.toNat
  let (u, x) ← barrierOf w
  if phaseDone x.phase (p.setWidth 32) then do
    acquire x.scope
    pure .next
  else park (.barrier u (p.setWidth 32))) s

/-- A BAR whose arrival is counted acquires and returns once its phase has completed, and waits for that otherwise (R275, R276). -/
def barWait (u : Nat) (p : BitVec 32) : M After := do
  match (← get).barrier u with
  | some x =>
    if phaseDone x.phase p then do
      acquire x.scope
      pure .next
    else pure (.wait (.barArrived u p))
  | none => pure .next

/-- The unit and phase of a BAR at the strand's PC whose arrival was counted before a pre-emption. -/
def Strand.barAt (x : Strand) : Option (Nat × BitVec 32) := x.counted.bind fun b => if b.1 = x.pc then some b.2 else none

/-- BAR (R276). Resumed in its wait, it re-executes its WAITB alone. -/
def execBar (a : BitVec 5) (s : State) := instr (do
  match (← me).barAt with
  | some (u, p) => barWait u p
  | none => do
    let w ← readG a.toNat
    let (u, b) ← barrierOf w
    release b.scope
    holdArrival b
    modify fun s => s.arrive u b
    barWait u b.phase) s

/-- BINIT (R273). -/
def execBinit (a b : BitVec 5) (s : State) := instr (do
  let (w, c) ← two readG a.toNat b.toNat
  let s ← get
  let key := (← me).launch
  if 1024 ≤ w.toNat then trap causeProt w
  let scope := wbits c 34 32
  let count := wbits c 15 0
  if wbits c 63 35 ≠ 0 || wbits c 31 16 ≠ 0 || decide (3 < scope) || count = 0 || decide (32768 < count) then trap causeProt c
  match s.barrier (barUnit w) with
  | some x => if x.owner != key || x.arrived ≠ 0 then trap causeProt w else pure ()
  | none => pure ()
  set (s.setBarrier (barUnit w) ⟨key, s.cur.1, scope, count, 0, 0⟩)
  pure .next) s

/-! Sleep until a time -/

/-- TSLEEP (R152, R277). -/
def execTsleep (a : BitVec 5) (s : State) := instr (do
  let t ← readG a.toNat
  let s ← get
  if t.toNat ≤ s.atime (dieOf s.cur.1) then pure .next else park (.sleep t)) s

/-! Watchpoints -/

/-- Whether a watched range lies in DRAM or populated address space of this device's scratchpads (R279). -/
def State.watchable (s : State) (pa : Nat) : Bool :=
  devOf pa == s.devid.toNat && match regionOf (localOf pa) with
    | .dram _ _ | .spad _ _ => true
    | _ => false

/-- WPSET (R279). The lowest free watchpoint of the die is taken (log 13). -/
def execWpset (d a : BitVec 5) (s : State) := instr (do
  let va ← readG a.toNat
  if va.toNat % 128 ≠ 0 then trap causeMisalign va
  let ws ← wordsAt va 16
  let w (i : Nat) : Word := ws.getD i 0
  let (x, bad) ← translate (w64 (wbits (w 0) 56 0)) .load
  let s ← get
  let key := (← me).launch
  let len := (w 1).toNat
  let recBytes := (ws.drop 8).flatMap fun x => natLe x.toNat 8
  let lidless := recBytes.take 56 ++ List.replicate 3 0 ++ recBytes.drop 59
  if bad || !s.watchable x.pa || wbits (w 0) 63 57 ≠ 0 || len = 0 || decide (65536 < wbits (w 0) 15 0 + len)
      || wbits (w 4) 63 3 ≠ 0 || w 5 ≠ 0 || w 6 ≠ 0 || w 7 ≠ 0 || wbits (w 4) 1 0 = 3 || !recOk lidless then
    trap causeProt (w 4)
  match s.homeDie x.pa with
  | none => trap causeProt (w 4)
  | some die =>
    match (List.range 64).find? fun i => (tget (s.die die).wps i).isNone with
    | none => do
      writeG d.toNat (BitVec.allOnes 64)
      pure .next
    | some i => do
      writeG d.toNat (w64 (die * 64 + i))
      let p : Watch := ⟨key, s.cur.1, x.pa, len, w 2, w 3, BitVec.ofNat 2 (w 4).toNat, wbit (w 4) 2,
        { recOf recBytes with key := key }, true, false⟩
      -- what has come due is performed before the watchpoint is armed (R147)
      modify fun s => s.settleAll.modDie die fun z => { z with wps := tset z.wps i p }
      pure .next) s

/-- WPCLR (R281). A push in flight completes. -/
def execWpclr (a : BitVec 5) (s : State) := instr (do
  let w ← readG a.toNat
  let s ← get
  if 256 ≤ w.toNat then trap causeProt w
  let die := w.toNat / 64
  let i := w.toNat % 64
  match tget (s.die die).wps i with
  | none => trap causeProt w
  | some p =>
    if p.owner != (← me).launch then trap causeProt w
    else do
      let s := s.settleAll
      set ({ s.modDie die fun z => { z with wps := tdel z.wps i } with
        pushes := s.pushes.map fun (q : Push) => if q.wp == some (die, i) then { q with wp := none } else q } : State)
      pure .next) s

end Sys2Proof.Machine
end

