-- ==== Sys2Proof/Machine/Strands.lean ====
section
/-! DEFINITION. Creating and ending strands, messages, fills, register states and pipeline groups (R221 to R243). -/

namespace Sys2Proof.Machine

/-! The payload and the checks of the creating forms (R227) -/

/-- The payload a0 to a3, read without parking. -/
def payload : M (List Word) := do
  let x ← me
  let rs := (List.range 4).map fun i => vget x.g (4 + i)
  if rs.any fun r => r.st == .full && r.owe.isSome then
    acquire ((rs.map fun (r : Reg 64) => if r.st == .full then r.owe.getD 0 else 0).foldl max 0)
    modMe fun x => { x with g := (List.range 4).foldl (fun (g : Vector (Reg 64) 32) i => vset g (4 + i)
      (if (vget g (4 + i)).st == .full then { vget g (4 + i) with owe := none } else vget g (4 + i))) x.g }
  pure (rs.map fun r => if r.st == .full then r.val else 0)

/-- An entry PC is word-aligned (R227). -/
def checkEntry (pc : Word) : M Unit := if pc.toNat % 4 ≠ 0 then trap causeMisalign pc else pure ()

/-- A core word names a core that the issuer's launch holds (R162, R227). -/
def checkCore (w : Word) : M Nat := do
  if 2048 ≤ w.toNat then trap causeProt w
  else
    let s ← get
    match s.launchOf s.cur.1 with
    | some q => if q.holds w.toNat then pure w.toNat else trap causeProt w
    | none => trap causeProt w

/-- A record from an entry PC, the payload and a link word (R229). DESIGN CHOICE (log 86): the flags that need a valid JADDR are CONS and PROD. -/
def linkRec (pc : Word) (a : List Word) (link : Word) : M TaskRec := do
  let s ← get
  let jref := wbits link 56 6 * 64
  let (cons, prod) := (wbit link 3, wbit link 2)
  if wbits link 63 57 ≠ 0 || wbits link 5 4 ≠ 0 || (cons && prod) || ((cons || prod) && (s.joinHome jref).isNone) then
    trap causeProt link
  else pure ⟨pc, a, jref, 0, cons, prod, BitVec.ofNat 2 (wbits link 1 0), (← me).launch⟩

/-! Posted paths (R118, R167) -/

/-- The destination core of a posted operation other than a store. -/
def PostedOp.dst : PostedOp → Option Nat
  | .msg _ c _ => some c
  | .push _ c _ => some c
  | .fill c _ _ _ _ _ _ _ => some c
  | .store _ => none

/-- The s.tbm bit of a destination core (R117). -/
def tbmBit (here c : Nat) : Nat := if dieOf here = dieOf c then groupOf c else 63

/-- Set the s.tbm bit of a destination (R118). -/
def Strand.mark (x : Strand) (b : Nat) : Strand := { x with tbm := x.tbm ||| (1#64 <<< b) }

/-- How many operations on a strand's posted path to a core are not yet accepted there (R118, R167). -/
def State.onPath (s : State) (c l : Nat) (gen : BitVec 8) (dst : Nat) : Nat :=
  s.posted.countP (fun p => p.by c l gen && p.op.dst == some dst) + s.pushes.countP fun p => p.by c l gen && p.dst == dst

/-- A fifth operation on a posted path whose four are not accepted stops at issue (R167). -/
def checkPathOr (stop : Park → Stop) (c : Nat) : M Unit := do
  let s ← get
  if 4 ≤ s.onPath s.cur.1 s.cur.2 (← me).gen c then throw (stop (.path c)) else pure ()

/-- A fifth operation on a posted path whose four are not accepted parks at issue (R167). -/
def checkPath (c : Nat) : M Unit := checkPathOr .park c

/-- Place an operation on the posted path to a core (R118). -/
def place (c : Nat) (op : PostedOp) : M Unit := do
  let s ← get
  let x ← me
  set ({ s with posted := s.posted ++ [⟨s.cur.1, s.cur.2, x.gen, x.launch, op⟩] } : State)
  modMe fun x => x.mark (tbmBit s.cur.1 c)

/-! Creating strands -/

/-- Answer a SPAWN at its core (R228): the result, and the state with the strand started. -/
def State.spawnAt (s : State) (c : Nat) (r : TaskRec) (scope : Nat) : Word × State :=
  match (s.core c).freeSlot with
  | none => (BitVec.allOnes 64, s)
  | some l =>
    let s := s.startStrand c l r.pc r.a scope
    (sidOf s.devid c l (s.strand c l).gen, s)

/-- SPAWN (R228). -/
def execSpawn (d a b : BitVec 5) (s : State) := instr (do
  let (pc, w) ← two readG a.toNat b.toNat
  checkEntry pc
  let c ← checkCore w
  let s ← get
  let scope := scopeOf s.cur.1 c
  let r : TaskRec := ⟨pc, ← payload, 0, 0, false, false, 0, (← me).launch⟩
  releaseKept scope
  tryDest (.g d.toNat 8 false)
  if c = s.cur.1 then do
    let (w, s') := (← get).spawnAt c r scope
    set s'
    writeG d.toNat w
    pure .next
  else do
    let q : SpawnReq := ⟨s.cur.1, s.cur.2, (← me).gen, d.toNat, c, r, scope⟩
    let _ ← holdDest (.g d.toNat 8 false)
    modify fun s => { s with spawns := s.spawns ++ [q] }
    pure (.wait .answer)) s

/-- FORK (R229). The strand it creates may start at any core that steals from this one: the release is at the scope that contains them
(R125, log 11). -/
def execFork (a c : BitVec 5) (s : State) := instr (do
  let (pc, link) ← two readG a.toNat c.toNat
  checkEntry pc
  let r ← linkRec pc (← payload) link
  releaseKept ((← get).stealScope (← get).cur.1)
  let s ← get
  match s.pushRec s.cur.1 r with
  | some s' => do
    set s'
    pure .next
  | none => trap causeHamper (w64 (s.hamperOf s.cur.1))) s

/-- SPAWNQ (R229): at once to the issuing core, posted to another, after a release at the scope that contains the issuer, the named core and
those that steal from it (R125, log 11). -/
def execSpawnq (a b c : BitVec 5) (s : State) := instr (do
  let (pc, w, link) ← three readG a.toNat b.toNat c.toNat
  checkEntry pc
  let dst ← checkCore w
  let r ← linkRec pc (← payload) link
  let s ← get
  releaseKept (max (scopeOf s.cur.1 dst) (s.stealScope dst))
  if dst = s.cur.1 then do
    let s ← get
    match s.pushRec dst r with
    | some s' => do
      set s'
      pure .next
    | none => trap causeHamper (w64 (s.hamperOf dst))
  else do
    checkPath dst
    place dst (.push r dst (scopeOf s.cur.1 dst))
    pure .next) s

/-- MSG (R230). -/
def execMsg (a b : BitVec 5) (s : State) := instr (do
  let (pc, w) ← two readG a.toNat b.toNat
  checkEntry pc
  let dst ← checkCore w
  let s ← get
  let scope := scopeOf s.cur.1 dst
  let r : TaskRec := ⟨pc, ← payload, 0, 0, false, false, 0, (← me).launch⟩
  releaseKept scope
  checkPath dst
  place dst (.msg r dst scope)
  pure .next) s

/-! Ending -/

/-- A slot leaves its pipeline group; the last member empties the queues (R168). -/
def Core.leavePipe (k : Core) (l : Nat) : Core :=
  { k with pipes := (k.pipes.map fun (p : Pipe) => { p with mask := p.mask &&& ~~~(1#16 <<< l) }).filter fun p => p.mask != 0 }

/-- A strand with its slot freed and its streams discarded (R231). -/
def Strand.quit (x : Strand) : Strand :=
  { x with st := .free, report := none, wdRep := false, streams := Vector.replicate 8 Stream.none, prods := [] }

/-- QUIT (R163, R231): it settles every join on its producer list (R389, R391). A late report still pending is discarded and counted (R150). -/
def execQuit (s : State) := instr (do
  if !(← me).fifo.isEmpty then park .fifoEmpty
  let s ← get
  let x ← me
  let (c, l) := s.cur
  let sent := x.prods.map fun pa => (⟨c, l, x.gen, 0, 0, pa, .settle c l x.gen, false, x.launch⟩ : JoinReq)
  if x.report.isSome then modify fun s => s.modDie (dieOf c) fun d => { d with drop := d.drop + 1 }
  modCore fun k => k.leavePipe l
  modMe Strand.quit
  modify fun s => { s with joins := s.joins ++ sent }
  pure .gone) s

/-! Handles -/

/-- Whether a tag is held by a register of a core or an operation of its engines. -/
def Core.tagUsed (k : Core) (t : BitVec 12) : Bool :=
  k.ops.any (fun o => o.tag == t) || k.slots.toList.any fun x => x.g.toList.any fun r => match r.st with
    | .pending u _ => u == t
    | _ => false

/-- The next handle tag of the core (R225; log 8 for its order). No two operations of a core share the eight low bits that pegs hold (R129). -/
def newTag : M (BitVec 12) := do
  let k ← myCore
  let t := ((List.range 4096).map fun i => k.nextTag + BitVec.ofNat 12 i).find? (fun t => !k.tagUsed t && !k.ops.any fun o => o.tag.setWidth 8 == t.setWidth 8)
  let t := t.getD k.nextTag
  modCore fun k => { k with nextTag := t + 1 }
  pure t

/-- Make register d PENDING on a handle (R221). g0 and a queue port hold none (log 14). -/
def setPending (d : Nat) (t : BitVec 12) (report : Bool) : M Unit := do
  let port ← isPort d
  if d = 0 || port then pure ()
  else modMe fun x => { x with g := vset x.g d ⟨0, .pending t report, none⟩ }

/-! Fills (R233 to R235, R242) -/

/-- The refusal of a fill address (R233); otherwise its target core. -/
def checkFill (w : Word) : M Nat := do
  let s ← get
  let c := wbits w 22 12
  let held := match s.launchOf s.cur.1 with | some q => q.holds c | none => false
  if wbits w 63 40 ≠ 0 || wbits w 39 34 = 0 || wbits w 33 23 ≠ s.devid.toNat || !held then trap causeProt w
  else pure c

/-- The posted fill of a fill address. -/
def fillOp (w val : Word) (scope : Nat) (rep : Option Report) : PostedOp :=
  .fill (wbits w 22 12) (wbits w 11 8) (BitVec.ofNat 8 (wbits w 7 0)) (wbits w 39 39) (wbits w 38 34) val scope rep

/-- The delivery report of FILL and FWD, when d can hold one; d becomes PENDING on it. -/
def newReport (d : Nat) : M (Option Report) := do
  let port ← isPort d
  if d = 0 || port then pure none
  else do
    let t ← newTag
    let s ← get
    setPending d t true
    pure (some ⟨s.cur.1, s.cur.2, (← me).gen, d, t⟩)

/-- FILL (R234). -/
def execFill (d a b : BitVec 5) (s : State) := instr (do
  let (w, v) ← two readG a.toNat b.toNat
  let c ← checkFill w
  let here := (← get).cur.1
  release (scopeOf here c)
  checkPath c
  let rep ← newReport d.toNat
  place c (fillOp w v (scopeOf here c) rep)
  pure .next) s

/-- FWD of a handle (R242). The redirection is recorded when it issues, with a DEAD unless d = a, and stands while it waits: the operation's
completion is then held, and goes to the fill address at the end. -/
def fwdHandle (w : Word) (c scope a d : Nat) (t : BitVec 12) : M Unit := do
  let stop (p : Park) : Stop := .parkHold p (t, if d = a then 0 else a)
  releaseOr (stop (.release scope)) scope
  checkPathOr stop c
  modMe fun x => { x with g := vset x.g a ⟨0, .dead, none⟩ }
  let rep ← newReport d
  let s ← get
  let x ← me
  let mine (q : Completion) : Bool := q.core == s.cur.1 && q.slot == s.cur.2 && q.gen == x.gen && q.tag == t
  match s.comps.find? mine with
  | some q => do
    set ({ s with comps := s.comps.filter fun q => !mine q } : State)
    place c (fillOp w q.val (max scope (q.scope.getD 0)) rep)
  | none => do
    modCore fun k => { k with ops := k.ops.map fun (o : EngOp) => if o.tag == t then { o with fwd := some (w, rep) } else o }
    modMe fun x => x.mark (tbmBit s.cur.1 c)

/-- FWD (R242). A queue port gives its head, as a source does (R168). -/
def execFwd (d a b : BitVec 5) (s : State) := instr (do
  let w ← readG b.toNat
  let c ← checkFill w
  let here := (← get).cur.1
  let r := vget (← me).g a.toNat
  let scope := scopeOf here c
  if ← isPort a.toNat then do
    let v ← readG a.toNat
    release scope
    checkPath c
    let rep ← newReport d.toNat
    place c (fillOp w v scope rep)
    pure .next
  else match (← me).hold, r.st with
  | some (t, _), _ | none, .pending t false => do
    fwdHandle w c scope a.toNat d.toNat t
    pure .next
  | none, .full => do
    match r.owe with
    | some sc => acquire sc
    | none => pure ()
    modMe fun x => { x with g := vset x.g a.toNat { vget x.g a.toNat with owe := none } }
    release scope
    checkPath c
    let v := r.val
    let rep ← newReport d.toNat
    place c (fillOp w v scope rep)
    pure .next
  | none, _ => trap causeProt (w64 a.toNat)) s

/-! Register states (R236 to R241) -/

/-- Whether a register of a class (0 g, 1 f, 2 v) is a queue port or stream-bound. -/
def special (cls n : Nat) : M Bool := do
  if cls = 0 then isPort n else pure ((← me).streamOf cls n).isSome

/-- The state of a register of a class. -/
def Strand.stateOf (x : Strand) (cls n : Nat) : RState :=
  if cls = 0 then (if n = 0 then .full else (vget x.g n).st) else if cls = 1 then (vget x.f n).st else (vget x.v n).st

/-- A register of a class becomes EMPTY, g0 apart. -/
def Strand.makeEmpty (x : Strand) (cls n : Nat) : Strand :=
  if cls = 0 then (if n = 0 then x else { x with g := vset x.g n { vget x.g n with st := .empty, owe := none } })
  else if cls = 1 then { x with f := vset x.f n { vget x.f n with st := .empty, owe := none } }
  else { x with v := vset x.v n { vget x.v n with st := .empty, owe := none } }

/-- EMPTY (R236). -/
def execEmpty (d : BitVec 5) (k : BitVec 2) (s : State) := instr (do
  if ← special k.toNat d.toNat then trap causeProt (w64 d.toNat)
  modMe fun x => x.makeEmpty k.toNat d.toNat
  pure .next) s

/-- TAKE (R237). -/
def execTake (d a : BitVec 5) (k : BitVec 2) (s : State) := instr (do
  if ← special k.toNat a.toNat then trap causeProt (w64 a.toNat)
  match k.toNat with
  | 0 => do
    let v ← readG a.toNat
    modMe fun x => x.makeEmpty 0 a.toNat
    writeG d.toNat v
  | 1 => do
    let v ← readF a.toNat
    modMe fun x => x.makeEmpty 1 a.toNat
    writeF d.toNat v
  | _ => do
    let v ← readV a.toNat
    modMe fun x => x.makeEmpty 2 a.toNat
    writeV d.toNat v
  pure .next) s

/-- The code of a state (R238). -/
def RState.code : RState → Nat
  | .full => 0
  | .empty => 1
  | .pending _ _ => 2
  | .dead => 3

/-- RSTATE (R238). -/
def execRstate (d a : BitVec 5) (k : BitVec 2) (s : State) := instr (do
  let b ← special k.toNat a.toNat
  writeG d.toNat (w64 (((← me).stateOf k.toNat a.toNat).code + if b then 4 else 0))
  pure .next) s

/-- Whether a state counts as ready for AWAIT. -/
def RState.ready : RState → Bool
  | .full | .dead => true
  | _ => false

/-- AWAIT (R239). DESIGN CHOICE (log 55): of a queue port the register behind it counts, DEAD and so ready. -/
def execAwait (d a : BitVec 5) (s : State) := instr (do
  let m := (← readG a.toNat).setWidth 32
  let x ← me
  if m = 0 then do
    writeG d.toNat 0
    pure .next
  else
    let hit := (List.range 32).filter fun i => m.getLsbD i && (x.stateOf 0 i).ready
    if hit.isEmpty then park (.await m)
    else do
      let owed := hit.filterMap fun i => if i = 0 then none else (vget x.g i).owe
      if !owed.isEmpty then acquire (owed.foldl max 0)
      modMe fun x => { x with g := hit.foldl (fun (g : Vector (Reg 64) 32) i => vset g i { vget g i with owe := none }) x.g }
      writeG d.toNat (w64 (hit.foldl (fun n i => n + 2 ^ i) 0))
      pure .next) s

/-- FTEST (R240). A queue port gives its head when it holds one, and all ones otherwise (log 14). -/
def execFtest (d a : BitVec 5) (s : State) := instr (do
  let x ← me
  let s ← get
  let port ← isPort a.toNat
  let waits := if port then
      match (s.core s.cur.1).pipeOf s.cur.2 with | some (_, p) => (match vget p.q (a.toNat - 28) with | .word _ :: _ => false | _ => true) | none => true
    else match x.stateOf 0 a.toNat with
      | .full | .dead => false
      | _ => true
  if waits then writeG d.toNat (BitVec.allOnes 64)
  else do
    let v ← readG a.toNat
    writeG d.toNat v
  pure .next) s

/-- Ask an operation of a core to stop, unless it is already to stop (R241) or its group has begun combining (R354). -/
def Core.cancelOp (k : Core) (t : BitVec 12) (status : Nat) : Core :=
  { k with ops := k.ops.map fun (o : EngOp) => if o.tag == t && o.cancel.isNone && o.comb.isNone then { o with cancel := some status } else o }

/-- FCANCEL (R241). -/
def execFcancel (a : BitVec 5) (s : State) := instr (do
  match (← me).stateOf 0 a.toNat with
  | .pending t false => modCore fun k => k.cancelOp t 2
  | _ => pure ()
  pure .next) s

/-! Pipeline groups (R243) -/

/-- Whether a strand can join a pipeline group. -/
def Core.canPipe (k : Core) (l : Nat) : Bool :=
  let x := vget k.slots l
  (match x.st with | .free | .reserved => false | _ => true) && (k.pipeOf l).isNone
    && (List.range 4).all fun i => (vget x.g (28 + i)).st.ready

/-- PIPE (R243). The values of g28 to g31 are discarded: DEAD behind the ports. -/
def execPipe (d a : BitVec 5) (s : State) := instr (do
  let m ← readG a.toNat
  let s ← get
  let members := (List.range 16).filter fun l => m.getLsbD l
  if 65536 ≤ m.toNat || members.isEmpty || decide (4 < members.length) || !members.contains s.cur.2 then trap causeProt m
  if members.all (s.core s.cur.1).canPipe then do
    writeG d.toNat 0
    let hide (x : Strand) : Strand := { x with g := (List.range 4).foldl (fun (g : Vector (Reg 64) 32) i => vset g (28 + i) (Reg.dead 64)) x.g }
    modCore fun k => { k with
      pipes := k.pipes ++ [⟨m.setWidth 16, Vector.replicate 4 []⟩]
      slots := members.foldl (fun (v : Vector Strand 16) l => vset v l (hide (vget v l))) k.slots }
  else writeG d.toNat 1
  pure .next) s

end Sys2Proof.Machine
end

