-- ==== Sys2Proof/Machine/Fpu.lean ====
section
/-! DEFINITION. Scalar floating point, conversions and moves (R300 to R308). -/

namespace Sys2Proof.Machine

/-- The format of a two-bit format field (R183). -/
def fpFmt (f : BitVec 2) : Fmt :=
  match f.toNat with
  | 0 => fmtD
  | 1 => fmtS
  | 2 => fmtH
  | _ => fmtBf

/-- The rounding mode of s.fcr (R290). -/
def rmOf (x : Strand) : Nat := wbits x.fcr 2 0

/-- Raise flags and count draws (R291, R292, R294): FP when one raised is enabled. The checks of a store that the result makes through a
stream come before it (R178). -/
def raise (fl : Flags) (draws : Nat) : M Unit := do
  let x ← me
  if fl &&& BitVec.ofNat 5 (wbits x.fcr 12 8) ≠ 0 then trap causeFp (zext64 fl)
  else modMe fun x => { x with fcr := x.fcr ||| (zext64 fl <<< 3), rng := x.rng + w64 draws }

/-- Round an exact result under a mode, write its code to an f register, and raise its flags. -/
def deliver (d : BitVec 5) (f : Fmt) (rm : Nat) (e : Exact) : M Unit := do
  let x ← me
  let r := f.round rm (satOf x.efmt) x.rng e.1
  writeF d.toNat (w64 r.code)
  raise (e.2 ||| r.fl) (if r.drew then 1 else 0)

/-- A form with two f sources, rounded under s.fcr (R302). -/
def fop2 (op : Nat → FVal → FVal → Exact) (d a b : BitVec 5) (f : BitVec 2) : M After := do
  let (x, y) ← two readF a.toNat b.toNat
  let g := fpFmt f
  let rm := rmOf (← me)
  deliver d g rm (op rm (g.decode x.toNat) (g.decode y.toNat))
  pure .next

/-- A form with one f source, rounded under s.fcr or, when `near`, to nearest with ties to even (R296). -/
def fop1 (near : Bool) (op : FVal → Exact) (d a : BitVec 5) (f : BitVec 2) : M After := do
  let x ← readF a.toNat
  let g := fpFmt f
  let t ← me
  let rm := if near then 0 else rmOf t
  deliver d g rm (op (g.decode x.toNat))
  pure .next

/-- a − b exactly (R302). -/
def subVal (rm : Nat) (a b : FVal) : Exact := addVal rm a b.negate

def execFadd (d a b : BitVec 5) (f : BitVec 2) (s : State) := instr (fop2 addVal d a b f) s
def execFsub (d a b : BitVec 5) (f : BitVec 2) (s : State) := instr (fop2 subVal d a b f) s
def execFmul (d a b : BitVec 5) (f : BitVec 2) (s : State) := instr (fop2 (fun _ => mulVal) d a b f) s
def execFdiv (d a b : BitVec 5) (f : BitVec 2) (s : State) := instr (fop2 (fun _ => divVal) d a b f) s

/-- FMA and FNMA (R302): c ± a × b with one rounding. -/
def fused (negate : Bool) (d a b c : BitVec 5) (f : BitVec 2) : M After := do
  let (x, y, z) ← three readF a.toNat b.toNat c.toNat
  let g := fpFmt f
  let rm := rmOf (← me)
  let p := g.decode x.toNat
  deliver d g rm (fmaVal rm (if negate then p.negate else p) (g.decode y.toNat) (g.decode z.toNat))
  pure .next

def execFma (d a b c : BitVec 5) (f : BitVec 2) (s : State) := instr (fused false d a b c f) s
def execFnma (d a b c : BitVec 5) (f : BitVec 2) (s : State) := instr (fused true d a b c f) s
def execFsqrt (d a : BitVec 5) (f : BitVec 2) (s : State) := instr (fop1 false sqrtVal d a f) s
def execFexp2 (d a : BitVec 5) (f : BitVec 2) (s : State) := instr (fop1 true exp2Val d a f) s
def execFlog2 (d a : BitVec 5) (f : BitVec 2) (s : State) := instr (fop1 true log2Val d a f) s
def execFrcp (d a : BitVec 5) (f : BitVec 2) (s : State) := instr (fop1 true rcpVal d a f) s
def execFrsqrt (d a : BitVec 5) (f : BitVec 2) (s : State) := instr (fop1 true rsqrtVal d a f) s

/-- The pattern FMIN or FMAX returns, and its flags (R303). -/
def minmaxCode (f : Fmt) (isMax : Bool) (x y : Nat) : Nat × Flags :=
  match minmaxVal isMax (f.decode x) (f.decode y) with
  | (none, fl) => (f.nan, fl)
  | (some first, fl) => ((if first then x else y) % 2 ^ f.width, fl)

/-- FMIN and FMAX (R303). -/
def fminmax (isMax : Bool) (d a b : BitVec 5) (f : BitVec 2) : M After := do
  let (x, y) ← two readF a.toNat b.toNat
  let (c, fl) := minmaxCode (fpFmt f) isMax x.toNat y.toNat
  writeF d.toNat (w64 c)
  raise fl 0
  pure .next

def execFmin (d a b : BitVec 5) (f : BitVec 2) (s : State) := instr (fminmax false d a b f) s
def execFmax (d a b : BitVec 5) (f : BitVec 2) (s : State) := instr (fminmax true d a b f) s

/-- The three comparisons of R303: 0 equal, 1 less, 2 less or equal. Truth and flags. -/
def cmpVal (k : Nat) (x y : FVal) : Bool × Flags :=
  let nv := if k = 0 then nvOf x ||| nvOf y else if x.isNan || y.isNan then flagNV else 0
  let t := if k = 0 then eqVal x y else if k = 1 then ltVal false x y else ltVal false x y || eqVal x y
  (t, nv)

/-- FEQ, FLT and FLE (R303). -/
def fcmp (k : Nat) (d a b : BitVec 5) (f : BitVec 2) : M After := do
  let (x, y) ← two readF a.toNat b.toNat
  let g := fpFmt f
  let (t, fl) := cmpVal k (g.decode x.toNat) (g.decode y.toNat)
  raise fl 0
  writeG d.toNat (if t then 1 else 0)
  pure .next

def execFeq (d a b : BitVec 5) (f : BitVec 2) (s : State) := instr (fcmp 0 d a b f) s
def execFlt (d a b : BitVec 5) (f : BitVec 2) (s : State) := instr (fcmp 1 d a b f) s
def execFle (d a b : BitVec 5) (f : BitVec 2) (s : State) := instr (fcmp 2 d a b f) s

/-- FSGN (R302): a with its sign bit replaced. -/
def execFsgn (d a b : BitVec 5) (m f : BitVec 2) (s : State) := instr (do
  let (x, y) ← two readF a.toNat b.toNat
  let w := (fpFmt f).width
  let (sx, sy) := (x.getLsbD (w - 1), y.getLsbD (w - 1))
  let sg := match m.toNat with | 0 => sy | 1 => !sy | _ => sx != sy
  writeF d.toNat (w64 (x.toNat % 2 ^ (w - 1) + if sg then 2 ^ (w - 1) else 0))
  pure .next) s

/-- The class mask of R303. -/
def classMask (f : Fmt) (x : Nat) : Nat :=
  match f.decode x with
  | .nan sig => if sig then 256 else 512
  | .inf neg => if neg then 1 else 128
  | .fin neg n _ =>
    if n = 0 then (if neg then 8 else 16)
    else if x % 2 ^ (f.width - 1) < 2 ^ (f.p - 1) then (if neg then 4 else 32)
    else if neg then 2 else 64

/-- FCLASS (R303). -/
def execFclass (d a : BitVec 5) (f : BitVec 2) (s : State) := instr (do
  let x ← readF a.toNat
  writeG d.toNat (w64 (classMask (fpFmt f) x.toNat))
  pure .next) s

/-! Conversions (R304 to R307) -/

/-- A narrow format named by a word must be its descriptor's (R300). -/
def checkNarrow (i : Instr) (code : BitVec 5) (d : Desc) : M Unit :=
  if narrow code.toNat && d.code != code.toNat then illop i else pure ()

/-- Convert a source pattern under s.fcr, write the destination pattern, and raise the flags. -/
def converted (dst src : BitVec 5) (x : Nat) (write : Nat → M Unit) : M Unit := do
  let t ← me
  let r := convert dst.toNat (primary t.efmt) src.toNat (secondary t.efmt) (rmOf t) (satOf t.efmt) t.rng x
  write r.code
  raise r.fl (if r.drew then 1 else 0)

/-- FCVT (R305). -/
def execFcvt (d a b c : BitVec 5) (s : State) := instr (do
  let t ← me
  checkNarrow (.fcvt d a b c) b (primary t.efmt)
  checkNarrow (.fcvt d a b c) c (secondary t.efmt)
  let x ← readF a.toNat
  converted b c x.toNat fun v => writeF d.toNat (w64 v)
  pure .next) s

/-- An integer pattern extended to 64 bits by its format (R306). -/
def extendInt (code x : Nat) : Word := match intFmt code with | some (w, sg) => wOfInt (intOf w sg x) | none => w64 x

/-- FCVTI (R306). -/
def execFcvti (d a b c : BitVec 5) (s : State) := instr (do
  let t ← me
  checkNarrow (.fcvti d a b c) c (secondary t.efmt)
  let x ← readF a.toNat
  converted b c x.toNat fun v => writeG d.toNat (extendInt b.toNat v)
  pure .next) s

/-- ICVTF (R307). -/
def execIcvtf (d a b c : BitVec 5) (s : State) := instr (do
  let t ← me
  checkNarrow (.icvtf d a b c) b (primary t.efmt)
  let x ← readG a.toNat
  converted b c x.toNat fun v => writeF d.toNat (w64 v)
  pure .next) s

/-- FMVGF (R308). -/
def execFmvgf (d a : BitVec 5) (s : State) := instr (do
  writeF d.toNat (← readG a.toNat)
  pure .next) s

/-- FMVFG (R308). -/
def execFmvfg (d a : BitVec 5) (s : State) := instr (do
  writeG d.toNat (← readF a.toNat)
  pure .next) s

end Sys2Proof.Machine
end

