-- ==== Sys2Proof/Machine/Vector.lean ====
section
/-! DEFINITION. Vector forms: lanes, VALU, VPERM, reductions, merges, conversions and VDOT (R309 to R318). -/

namespace Sys2Proof.Machine

/-! Lanes (R309) -/

/-- The distance between lanes of a format code: its width, a byte for q6. -/
def laneStride (code : Nat) : Nat := if code = 6 then 8 else codeWidth code

/-- The number of lanes. -/
def laneCount (code : Nat) : Nat := 256 / laneStride code

/-- Lane i of a register. -/
def lane (code : Nat) (v : VWord) (i : Nat) : Nat := v.toNat / 2 ^ (laneStride code * i) % 2 ^ codeWidth code

/-- A register from its lanes, lane 0 first. -/
def ofLanes (stride : Nat) (xs : List Nat) : VWord :=
  BitVec.ofNat 256 (xs.foldr (fun x n => n * 2 ^ stride + x) 0)

/-- All lanes. -/
def lanes (code : Nat) (v : VWord) : List Nat := (List.range (laneCount code)).map (lane code v)

/-- A lane type: a floating format, or an integer's width and signedness. -/
inductive LaneT where
  | fl (f : Fmt)
  | int (w : Nat) (signed : Bool)
  deriving DecidableEq, Repr

/-- The lane type of a descriptor; none for no format and, unless `all`, for sc8 and fx16. -/
def Desc.lanes (d : Desc) (all : Bool := false) : Option LaneT :=
  if !all && (d.code == 18 || d.code == 19) then none
  else match floatFmt d.code d, intFmt d.code with
    | some f, _ => some (.fl f)
    | none, some (w, sg) => some (.int w sg)
    | none, none => none

/-- The lane type of the primary descriptor, or ILLOP of the word (R309). -/
def laneType (i : Instr) : M (Nat × LaneT) := do
  let d := primary (← me).efmt
  match d.lanes with
  | some t => pure (d.code, t)
  | none => illop i

/-- A destination of rounded lanes, each drawing after the one before (R294, R312), their flags raised together. -/
def roundLanes (d : BitVec 4) (stride : Nat) (f : Fmt) (rm : Nat) (es : List Exact) : M Unit := do
  let x ← me
  let (codes, fl, n) := es.foldl (fun (a : List Nat × Flags × Nat) e =>
    let r := f.round rm (satOf x.efmt) (x.rng + w64 a.2.2) e.1
    (r.code :: a.1, a.2.1 ||| e.2 ||| r.fl, if r.drew then a.2.2 + 1 else a.2.2)) ([], 0, 0)
  writeV d.toNat (ofLanes stride codes.reverse)
  raise fl n

/-! VALU (R310 to R312) -/

/-- An integer lane operation at a width. -/
abbrev IntOp := (w : Nat) → Bool → Nat → Nat → Nat

/-- A form on two v registers: floating lanes rounded under s.fcr, integer lanes by `g`. -/
def valu2 (i : Instr) (op : Nat → FVal → FVal → Exact) (g : Option IntOp) (d a b : BitVec 4) : M After := do
  let (code, t) ← laneType i
  let (x, y) ← two readV a.toNat b.toNat
  let ps := (lanes code x).zip (lanes code y)
  match t with
  | .fl f => do
    let rm := rmOf (← me)
    roundLanes d (laneStride code) f rm (ps.map fun p => op rm (f.decode p.1) (f.decode p.2))
    pure .next
  | .int w sg => match g with
    | none => illop i
    | some g => do
      writeV d.toNat (ofLanes w (ps.map fun p => g w sg p.1 p.2 % 2 ^ w))
      pure .next

/-- Quotient of R202 at a lane's width. -/
def laneDiv : IntOp := fun w sg x y =>
  if sg then (quot (BitVec.ofNat w x) (BitVec.ofNat w y)).toNat else (quotN (BitVec.ofNat w x) (BitVec.ofNat w y)).toNat

def execVadd (d a b : BitVec 4) (s : State) := instr (valu2 (.vadd d a b) addVal (some fun _ _ x y => x + y) d a b) s
def execVsub (d a b : BitVec 4) (s : State) :=
  instr (valu2 (.vsub d a b) subVal (some fun w _ x y => x + 2 ^ w - y) d a b) s
def execVmul (d a b : BitVec 4) (s : State) :=
  instr (valu2 (.vmul d a b) (fun _ => mulVal) (some fun _ _ x y => x * y) d a b) s
def execVdiv (d a b : BitVec 4) (s : State) := instr (valu2 (.vdiv d a b) (fun _ => divVal) (some laneDiv) d a b) s

/-- VFMA (R311). -/
def execVfma (d a b c : BitVec 4) (s : State) := instr (do
  let (code, t) ← laneType (.vfma d a b c)
  let (x, y, z) ← three readV a.toNat b.toNat c.toNat
  let ps := (lanes code x).zip ((lanes code y).zip (lanes code z))
  match t with
  | .fl f => do
    let rm := rmOf (← me)
    roundLanes d (laneStride code) f rm (ps.map fun p => fmaVal rm (f.decode p.1) (f.decode p.2.1) (f.decode p.2.2))
  | .int w _ => writeV d.toNat (ofLanes w (ps.map fun p => (p.1 * p.2.1 + p.2.2) % 2 ^ w))
  pure .next) s

/-- VMIN and VMAX (R311). -/
def vminmax (i : Instr) (isMax : Bool) (d a b : BitVec 4) : M After := do
  let (code, t) ← laneType i
  let (x, y) ← two readV a.toNat b.toNat
  let ps := (lanes code x).zip (lanes code y)
  match t with
  | .fl f => do
    let rs := ps.map fun p => minmaxCode f isMax p.1 p.2
    writeV d.toNat (ofLanes (laneStride code) (rs.map fun r => r.1))
    raise (rs.foldl (fun fl r => fl ||| r.2) 0) 0
  | .int w sg =>
    writeV d.toNat (ofLanes w (ps.map fun p => if decide (intOf w sg p.1 < intOf w sg p.2) != isMax then p.1 else p.2))
  pure .next

def execVmin (d a b : BitVec 4) (s : State) := instr (vminmax (.vmin d a b) false d a b) s
def execVmax (d a b : BitVec 4) (s : State) := instr (vminmax (.vmax d a b) true d a b) s

/-- VABS or VNEG of a floating lane: pattern and flags (R311). -/
def signLane (f : Fmt) (neg : Bool) (x : Nat) : Nat × Flags :=
  let top := 2 ^ (f.width - 1)
  if f.ieee then (if neg then x ^^^ top else x % top, 0)
  else if f.signed then (if x = 0 || x = f.nan then x else if neg then x ^^^ top else x % top, 0)
  else if !neg || x = 0 || x = f.nan then (x, 0) else (f.nan, flagNV)

/-- VABS and VNEG (R311). -/
def vsign (i : Instr) (neg : Bool) (d a : BitVec 4) : M After := do
  let (code, t) ← laneType i
  let x ← readV a.toNat
  match t with
  | .fl f => do
    let rs := (lanes code x).map (signLane f neg)
    writeV d.toNat (ofLanes (laneStride code) (rs.map fun r => r.1))
    raise (rs.foldl (fun fl r => fl ||| r.2) 0) 0
  | .int w sg =>
    writeV d.toNat (ofLanes w ((lanes code x).map fun v =>
      if neg || decide (intOf w sg v < 0) then (2 ^ w - v) % 2 ^ w else v))
  pure .next

def execVabs (d a : BitVec 4) (s : State) := instr (vsign (.vabs d a) false d a) s
def execVneg (d a : BitVec 4) (s : State) := instr (vsign (.vneg d a) true d a) s

/-- VCEQ, VCLT and VCLE (R311). -/
def vcmp (i : Instr) (k : Nat) (d a b : BitVec 4) : M After := do
  let (code, t) ← laneType i
  let (x, y) ← two readV a.toNat b.toNat
  let ps := (lanes code x).zip (lanes code y)
  let ones (w : Nat) (c : Bool) : Nat := if c then 2 ^ w - 1 else 0
  match t with
  | .fl f => do
    let rs := ps.map fun p => cmpVal k (f.decode p.1) (f.decode p.2)
    writeV d.toNat (ofLanes (laneStride code) (rs.map fun r => ones (codeWidth code) r.1))
    raise (rs.foldl (fun fl r => fl ||| r.2) 0) 0
  | .int w sg =>
    let test (x y : Int) : Bool := if k = 0 then x == y else if k = 1 then decide (x < y) else decide (x ≤ y)
    writeV d.toNat (ofLanes w (ps.map fun p => ones w (test (intOf w sg p.1) (intOf w sg p.2))))
  pure .next

def execVceq (d a b : BitVec 4) (s : State) := instr (vcmp (.vceq d a b) 0 d a b) s
def execVclt (d a b : BitVec 4) (s : State) := instr (vcmp (.vclt d a b) 1 d a b) s
def execVcle (d a b : BitVec 4) (s : State) := instr (vcmp (.vcle d a b) 2 d a b) s

/-- VSEL (R311): a lane of c counts as zero when its pattern is (log 15). -/
def execVsel (d a b c : BitVec 4) (s : State) := instr (do
  let (code, _) ← laneType (.vsel d a b c)
  let (x, y, z) ← three readV a.toNat b.toNat c.toNat
  writeV d.toNat (ofLanes (laneStride code) ((List.range (laneCount code)).map fun i =>
    if lane code z i ≠ 0 then lane code x i else lane code y i))
  pure .next) s

/-- VAND, VOR and VXOR (R311). -/
def vbits (i : Instr) (op : VWord → VWord → VWord) (d a b : BitVec 4) : M After := do
  let _ ← laneType i
  let (x, y) ← two readV a.toNat b.toNat
  writeV d.toNat (op x y)
  pure .next

def execVand (d a b : BitVec 4) (s : State) := instr (vbits (.vand d a b) (· &&& ·) d a b) s
def execVor (d a b : BitVec 4) (s : State) := instr (vbits (.vor d a b) (· ||| ·) d a b) s
def execVxor (d a b : BitVec 4) (s : State) := instr (vbits (.vxor d a b) (· ^^^ ·) d a b) s

/-- VSHL, VSHR and VSRA (R311): integer lanes only. -/
def vshift (i : Instr) (g : (w : Nat) → BitVec w → Nat → BitVec w) (d a b : BitVec 4) : M After := do
  let (code, t) ← laneType i
  match t with
  | .fl _ => illop i
  | .int w _ => do
    let (x, y) ← two readV a.toNat b.toNat
    writeV d.toNat (ofLanes w (((lanes code x).zip (lanes code y)).map fun p => (g w (BitVec.ofNat w p.1) (p.2 % w)).toNat))
    pure .next

def execVshl (d a b : BitVec 4) (s : State) := instr (vshift (.vshl d a b) (fun _ x n => x <<< n) d a b) s
def execVshr (d a b : BitVec 4) (s : State) := instr (vshift (.vshr d a b) (fun _ x n => x >>> n) d a b) s
def execVsra (d a b : BitVec 4) (s : State) := instr (vshift (.vsra d a b) (fun _ x n => x.sshiftRight n) d a b) s

/-- A floating form on one v register (R311); binary64 lanes are refused when `noD`. -/
def valu1 (i : Instr) (near noD : Bool) (op : FVal → Exact) (d a : BitVec 4) : M After := do
  let (code, t) ← laneType i
  match t with
  | .int _ _ => illop i
  | .fl f => do
    if noD && code = 1 then illop i
    let x ← readV a.toNat
    let t ← me
    let rm := if near then 0 else rmOf t
    roundLanes d (laneStride code) f rm ((lanes code x).map fun v => op (f.decode v))
    pure .next

def execVsqrt (d a : BitVec 4) (s : State) := instr (valu1 (.vsqrt d a) false false sqrtVal d a) s
def execVexp2 (d a : BitVec 4) (s : State) := instr (valu1 (.vexp2 d a) true true exp2Val d a) s
def execVlog2 (d a : BitVec 4) (s : State) := instr (valu1 (.vlog2 d a) true true log2Val d a) s
def execVrcp (d a : BitVec 4) (s : State) := instr (valu1 (.vrcp d a) true false rcpVal d a) s
def execVrsqrt (d a : BitVec 4) (s : State) := instr (valu1 (.vrsqrt d a) true false rsqrtVal d a) s

/-- a × 2^n exactly. Beyond ±8,192 every format gives the same rounded result, so n stops there. -/
def scaleBy (v : FVal) (n : Int) : Exact :=
  match v with
  | .fin neg m d =>
    let (p, q) := pow2 (max (-8192) (min 8192 n))
    (.fin neg (m * p) (d * q), 0)
  | .inf neg => (.inf neg, 0)
  | .nan sig => (.nan false, nvOf (.nan sig))

/-- VSCALE (R311). -/
def execVscale (d a b : BitVec 4) (s : State) := instr (do
  let (code, t) ← laneType (.vscale d a b)
  match t with
  | .int _ _ => illop (.vscale d a b)
  | .fl f => do
    let (x, y) ← two readV a.toNat b.toNat
    let es := ((lanes code x).zip (lanes code y)).map fun p => scaleBy (f.decode p.1) (intOf (codeWidth code) true p.2)
    roundLanes d (laneStride code) f (rmOf (← me)) es
    pure .next) s

/-! VPERM (R313) -/

/-- VBCAST. -/
def execVbcast (d : BitVec 4) (a : BitVec 5) (s : State) := instr (do
  let (code, _) ← laneType (.vbcast d a)
  let x ← readG a.toNat
  writeV d.toNat (ofLanes (laneStride code) (List.replicate (laneCount code) (x.toNat % 2 ^ codeWidth code)))
  pure .next) s

/-- VEXTR. -/
def execVextr (d : BitVec 5) (a : BitVec 4) (b : BitVec 5) (s : State) := instr (do
  let (code, _) ← laneType (.vextr d a b)
  let x ← readV a.toNat
  let n ← readG b.toNat
  writeG d.toNat (extendInt code (lane code x (n.toNat % laneCount code)))
  pure .next) s

/-- A register with one lane replaced. -/
def setLane (code : Nat) (v : VWord) (i x : Nat) : VWord :=
  let st := laneStride code
  let old := v.toNat / 2 ^ (st * i) % 2 ^ st
  BitVec.ofNat 256 (v.toNat - old * 2 ^ (st * i) + x % 2 ^ codeWidth code * 2 ^ (st * i))

/-- VINSR: d is a source (R300). -/
def execVinsr (d : BitVec 4) (a b : BitVec 5) (s : State) := instr (do
  let (code, _) ← laneType (.vinsr d a b)
  let (x, n) ← two readG a.toNat b.toNat
  let v ← readV d.toNat
  writeV d.toNat (setLane code v (n.toNat % laneCount code) x.toNat)
  pure .next) s

/-- VPERM: bytes, whatever the type. -/
def execVperm (d a b : BitVec 4) (s : State) := instr (do
  let (x, y) ← two readV a.toNat b.toNat
  writeV d.toNat (ofLanes 8 ((lanes 9 y).map fun i => lane 9 x (i % 32)))
  pure .next) s

/-- The lane division of a form that only moves lanes: sc8 and fx16 divide as their widths say (R309, R313). -/
def moveType (i : Instr) : M Nat := do
  let d := primary (← me).efmt
  match d.lanes true with
  | some _ => pure d.code
  | none => illop i

/-- VSLIDE. -/
def execVslide (d a b : BitVec 4) (c : BitVec 5) (s : State) := instr (do
  let code ← moveType (.vslide d a b c)
  let (x, y) ← two readV a.toNat b.toNat
  let n ← readG c.toNat
  let l := laneCount code
  let n := min n.toNat l
  writeV d.toNat (ofLanes (laneStride code) ((List.range l).map fun i =>
    if i + n < l then lane code x (i + n) else lane code y (i + n - l)))
  pure .next) s

/-- VZIP. -/
def execVzip (d a b : BitVec 4) (h : BitVec 1) (s : State) := instr (do
  let code ← moveType (.vzip d a b h)
  let (x, y) ← two readV a.toNat b.toNat
  let l := laneCount code
  writeV d.toNat (ofLanes (laneStride code) ((List.range l).map fun i =>
    lane code (if i % 2 = 0 then x else y) (h.toNat * (l / 2) + i / 2)))
  pure .next) s

/-- VUNZIP. -/
def execVunzip (d a b : BitVec 4) (h : BitVec 1) (s : State) := instr (do
  let code ← moveType (.vunzip d a b h)
  let (x, y) ← two readV a.toNat b.toNat
  let l := laneCount code
  writeV d.toNat (ofLanes (laneStride code) ((List.range l).map fun i =>
    let j := 2 * i + h.toNat
    if j < l then lane code x j else lane code y (j - l)))
  pure .next) s

/-- VMOV. -/
def execVmov (d a : BitVec 4) (s : State) := instr (do
  writeV d.toNat (← readV a.toNat)
  pure .next) s

/-! Reductions (R315) -/

/-- VREDSUM. -/
def execVredsum (d : BitVec 5) (a : BitVec 4) (s : State) := instr (do
  let (code, t) ← laneType (.vredsum d a)
  let x ← readV a.toNat
  match t with
  | .fl f => do
    let vs := (lanes code x).map f.decode
    let (v, fl) := sumVal vs
    deliver d f (rmOf (← me)) (v, vs.foldl (fun fl v => fl ||| nvOf v) fl)
  | .int w sg => writeG d.toNat (wOfInt ((lanes code x).foldl (fun n v => n + intOf w sg v) 0))
  pure .next) s

/-- The greatest or least lane that is no NaN; none when all are. -/
def extreme (f : Fmt) (isMax : Bool) (xs : List Nat) : Option Nat :=
  xs.foldl (fun r x =>
    if (f.decode x).isNan then r
    else match r with
      | none => some x
      | some y => some (minmaxCode f isMax y x).1) none

/-- VREDMAX and VREDMIN. -/
def vredm (i : Instr) (isMax : Bool) (d : BitVec 5) (a : BitVec 4) : M After := do
  let (code, t) ← laneType i
  let x ← readV a.toNat
  match t with
  | .fl f => do
    writeF d.toNat (w64 ((extreme f isMax (lanes code x)).getD f.nan))
    raise ((lanes code x).foldl (fun fl v => fl ||| nvOf (f.decode v)) 0) 0
  | .int w sg =>
    let vs := (lanes code x).map (intOf w sg)
    writeG d.toNat (wOfInt (vs.foldl (if isMax then max else min) (vs.headD 0)))
  pure .next

def execVredmax (d : BitVec 5) (a : BitVec 4) (s : State) := instr (vredm (.vredmax d a) true d a) s
def execVredmin (d : BitVec 5) (a : BitVec 4) (s : State) := instr (vredm (.vredmin d a) false d a) s

/-! Merging lists (R316, R348, R349) -/

/-- Whether an entry (value pattern, index) comes before another: descending value, −0 below +0, ties to the lower index. -/
def entryBefore (f : Fmt) (x y : Nat × Nat) : Bool :=
  let (a, b) := (f.decode x.1, f.decode y.1)
  ltVal true b a || (!ltVal true a b && decide (x.2 < y.2))

/-- Insert in order. -/
def entryInsert (f : Fmt) (e : Nat × Nat) : List (Nat × Nat) → List (Nat × Nat)
  | [] => [e]
  | x :: xs => if entryBefore f e x then e :: x :: xs else x :: entryInsert f e xs

/-- Sort entries. -/
def entrySort (f : Fmt) (xs : List (Nat × Nat)) : List (Nat × Nat) := xs.foldl (fun a e => entryInsert f e a) []

/-- Drop empty entries, and later entries of an index already met. -/
def entryDedup (f : Fmt) (xs : List (Nat × Nat)) : List (Nat × Nat) :=
  (xs.foldl (fun (a : List (Nat × Nat)) e =>
    if e.2 = 0xFFFFFFFF || (f.decode e.1).isNan || a.any (fun x => x.2 == e.2) then a else e :: a) []).reverse

/-- VMERGEK (R316). -/
def execVmergek (d a b : BitVec 4) (s : State) := instr (do
  let (x, xi, y, yi) ← four readV a.toNat (a.toNat + 1) b.toNat (b.toNat + 1)
  let es (v i : VWord) : List (Nat × Nat) := (lanes 2 v).zip (lanes 13 i)
  let kept := (entrySort fmtS (entryDedup fmtS (es x xi ++ es y yi))).take 8
  let full := kept ++ List.replicate (8 - kept.length) (0x7FC00000, 0xFFFFFFFF)
  writeV d.toNat (ofLanes 32 (full.map fun e => e.1))
  writeV (d.toNat + 1) (ofLanes 32 (full.map fun e => e.2))
  pure .next) s

/-! VCVT (R314) -/

/-- VCVT. -/
def execVcvt (d a p : BitVec 4) (s : State) := instr (do
  let t ← me
  let (dd, sd) := (primary t.efmt, secondary t.efmt)
  if (dd.lanes true).isNone || (sd.lanes true).isNone then illop (.vcvt d a p)
  let (ls, ld) := (laneCount sd.code, laneCount dd.code)
  if max ls ld / min ls ld ≤ p.toNat then illop (.vcvt d a p)
  let x ← readV a.toNat
  let old ← if ls < ld then (if d = a then pure x else readV d.toNat) else pure 0
  let src := if ld ≤ ls then (List.range ld).map fun i => lane sd.code x (p.toNat * ld + i) else lanes sd.code x
  let t ← me
  let (codes, fl, n) := src.foldl (fun (a : List Nat × Flags × Nat) v =>
    let r := convert dd.code dd sd.code sd (rmOf t) (satOf t.efmt) (t.rng + w64 a.2.2) v
    (r.code :: a.1, a.2.1 ||| r.fl, if r.drew then a.2.2 + 1 else a.2.2)) (([], 0, 0) : List Nat × Flags × Nat)
  let cs := codes.reverse
  writeV d.toNat (if ld ≤ ls then ofLanes (laneStride dd.code) cs
    else (cs.zipIdx (p.toNat * ls)).foldl (fun v c => setLane dd.code v c.2 c.1) old)
  raise fl n
  pure .next) s

/-! VDOT (R317, R318) and the element types of the pairs (R184) -/

/-- The format codes of a pair's operands. -/
def pairCodes (p : Nat) : Nat × Nat :=
  match p with
  | 0 => (5, 5) | 1 => (5, 4) | 2 => (4, 4) | 3 => (3, 3) | 5 => (6, 6) | 6 => (7, 7) | 7 => (7, 5)
  | 8 => (8, 8) | 9 => (16, 16) | 10 => (1, 1) | _ => (2, 2)

/-- Products for each lane of VDOT (R317). -/
def pairLanes (p : Nat) : Nat := if p = 6 || p = 9 then 8 else if p = 1 || p = 2 || p = 3 then 2 else 4

/-- Both narrow formats of a pair agree with their descriptors (R300, R317, R334). -/
def pairOk (p : Nat) (efmt : Word) : Bool :=
  let (a, b) := pairCodes p
  (!narrow a || (primary efmt).code == a) && (!narrow b || (secondary efmt).code == b)

/-- An element as a scaled value (R288): narrow types take the scale, others none. -/
def scaledElem (code : Nat) (d : Desc) (x sc : Nat) : Exact :=
  match floatFmt code d with
  | none => (ofInt code x, 0)
  | some f => if narrow code then scaleVal (f.decode x) (fmtSc8.decode sc) else (f.decode x, nvOf (f.decode x))

/-- The terms of a sum of products, with the flags of its elements and products (R298). -/
def products (xs ys : List Exact) : List FVal × Flags :=
  (xs.zip ys).foldl (fun (a : List FVal × Flags) p =>
    let (v, f) := mulVal p.1.1 p.2.1
    (a.1 ++ [v], a.2 ||| p.1.2 ||| p.2.2 ||| (f &&& flagNV))) ([], 0)

/-- VDOT. -/
def execVdot (d a b : BitVec 4) (c : BitVec 5) (p : BitVec 6) (s : State) := instr (do
  let efmt := (← me).efmt
  let pair := p.toNat
  if !pairOk pair efmt then illop (.vdot d a b c p)
  let (x, y) ← two readV a.toNat b.toNat
  let sc ← readF c.toNat
  let z ← if d = a then pure x else if d = b then pure y else readV d.toNat
  let (ca, cb) := pairCodes pair
  let n := pairLanes pair
  let ks (j : Nat) : List Nat := (List.range n).map (n * j + ·)
  if pair = 8 || pair = 9 then
    writeV d.toNat (ofLanes 32 ((List.range 8).map fun j =>
      let dot := (ks j).foldl (fun (t : Int) k => t + intOf (codeWidth ca) true (lane ca x k) * intOf (codeWidth cb) true (lane cb y k)) 0
      ((dot + (lane 13 z j : Int)) % 2 ^ 32).toNat))
  else do
    let scale (at_ k : Nat) : Nat := wbits sc (8 * (at_ + k / 32) + 7) (8 * (at_ + k / 32))
    let es := (List.range 8).map fun j =>
      let (ts, fl) := products ((ks j).map fun k => scaledElem ca (primary efmt) (lane ca x k) (scale 0 k))
        ((ks j).map fun k => scaledElem cb (secondary efmt) (lane cb y k) (scale 2 k))
      let acc := fmtS.decode (lane 13 z j)
      let (v, g) := sumVal (ts ++ [acc])
      ((v, fl ||| g ||| nvOf acc) : Exact)
    roundLanes d 32 fmtS 0 es
  pure .next) s

end Sys2Proof.Machine
end

