-- ==== Sys2Proof/Machine/Tile.lean ====
section
/-! DEFINITION. The tile table and rings of a core (R73 to R79), and how an engine operation reaches memory, ends, and lets rings
settle (R79, R132, R329, R337, R345). -/

namespace Sys2Proof.Machine

/-! Tiles (R73, R74) -/

/-- Fields of a tile-table entry. -/
def tileBase (w : Word) : Nat := wbits w 19 0
def tileSize (w : Word) : Nat := wbits w 39 20
def tileState (w : Word) : Nat := wbits w 41 40
def tileZero (w : Word) : Bool := wbit w 42

/-- Whether a tile-table value is well-formed (R73). -/
def tileOk (w : Word) : Bool :=
  wbits w 63 43 == 0 && tileBase w % 64 == 0 && tileSize w != 0 && tileSize w % 64 == 0 && decide (tileBase w + tileSize w ≤ 0x80000)

/-- An entry with another STATE and Z. -/
def tileWith (w : Word) (st : Nat) (z : Bool) : Word :=
  w64 (w.toNat % 2 ^ 40 + st % 4 * 2 ^ 40 + (if z then 2 ^ 42 else 0) + wbits w 63 43 * 2 ^ 43)

/-- A tile of a core. -/
def Core.tile (k : Core) (t : Nat) : Word := vget k.tiles t

/-- Whether a tile carries an owner mark. -/
def Core.owned (k : Core) (t : Nat) : Bool := k.owners.getLsbD (t % 64)

/-- Replace a tile's entry; a change of STATE is a core event (R220). -/
def Core.putTile (k : Core) (t : Nat) (w : Word) : Core :=
  let k' := { k with tiles := vset k.tiles t w }
  if tileState w = tileState (k.tile t) then k' else k'.signal 3

/-- Change a tile's STATE, Z and owner mark. -/
def Core.markTile (k : Core) (t st : Nat) (z own : Bool) : Core :=
  let bit := 1#64 <<< (t % 64)
  let k := { k with owners := if own then k.owners ||| bit else k.owners &&& ~~~bit }
  k.putTile t (tileWith (k.tile t) st z)

/-- Physical address of a byte of a tile. -/
def State.tileAddr (s : State) (c t off : Nat) : Nat :=
  s.devid.toNat * 2 ^ 46 + 0x100000000000 + c * 2 ^ 20 + tileBase ((s.core c).tile t) + off

/-! Rings (R78, R79) -/

/-- Fields of a ring descriptor. -/
def ringFirst (w : Word) : Nat := wbits w 5 0
def ringCount (w : Word) : Nat := wbits w 12 6
def ringHead (w : Word) : Nat := wbits w 19 13
def ringTail (w : Word) : Nat := wbits w 26 20

/-- The descriptor with other HEAD and TAIL. -/
def ringWith (w : Word) (head tail : Nat) : Word := w64 (w.toNat % 2 ^ 13 + head * 2 ^ 13 + tail * 2 ^ 20)

/-- The tile at a position of a ring. -/
def ringTile (w : Word) (pos : Nat) : Nat := ringFirst w + pos % ringCount w

/-- Claimed tiles of a ring. -/
def ringHeld (w : Word) : Nat := (ringTail w + 2 * ringCount w - ringHead w) % (2 * ringCount w)

/-- A ring's descriptor. -/
def Core.ring (k : Core) (r : Nat) : Word := vget k.rings r

/-- Advance HEAD by one. -/
def Core.advHead (k : Core) (r : Nat) : Core :=
  let w := k.ring r
  ({ k with rings := vset k.rings r (ringWith w ((ringHead w + 1) % (2 * ringCount w)) (ringTail w)) } : Core).signal 4

/-- Advance TAIL by one. -/
def Core.advTail (k : Core) (r : Nat) : Core :=
  let w := k.ring r
  ({ k with rings := vset k.rings r (ringWith w (ringHead w) ((ringTail w + 1) % (2 * ringCount w))) } : Core).signal 4

/-- The head tile of a ring. -/
def Core.headTile (k : Core) (r : Nat) : Nat := ringTile (k.ring r) (ringHead (k.ring r))

/-- Pop the head tile: it goes EMPTY and HEAD advances. -/
def Core.popRing (k : Core) (r : Nat) : Core := (k.markTile (k.headTile r) 0 false false).advHead r

/-! Engine registers (R326) -/

/-- Where an engine's registers begin in a strand's file, and how many there are. -/
def engSpan (eng : Nat) : Nat × Nat :=
  match eng with
  | 0 => (0, 6) | 1 => (6, 27) | 2 => (33, 3) | 3 => (36, 4) | _ => (40, 4)

/-- A strand's registers of one engine. -/
def Strand.engRegs (x : Strand) (eng : Nat) : List Word :=
  let (b, n) := engSpan eng
  (List.range n).map fun i => vget x.eregs (b + i)

/-- Register i of an operation's snapshot. -/
def EngOp.reg (o : EngOp) (i : Nat) : Word := o.regs.getD i 0

/-! An engine's accesses (R131, R329) -/

/-- What stops a unit of an engine operation before it has any effect. -/
inductive EngStop where
  | walk (va : Nat) (kind : Kind) (upd : Bool)
  | fault (va : Nat) (kind : Kind) (reason level : Nat)
  | reroute                              -- routes to another device are being recomputed (R415)
  | error (bad : Option Nat)             -- a refused access, or an uncorrectable sector to count
  deriving DecidableEq, Repr

/-- A unit of an engine operation. -/
abbrev E (α : Type) := StateT State (Except EngStop) α

/-- Translate an engine's access (R18, R24, R29); a refused one stops the operation. DESIGN CHOICE (log 67): so does one to engine, tile and
control space, of which R17 speaks for strands only. -/
def engAccess (c : Nat) (o : EngOp) (va : Nat) (kind : Kind) : E Access := do
  let s ← get
  if 2 ^ 57 ≤ va then throw (.error none)
  else match s.tlbFind c o.ctx va with
    | none => throw (.walk va kind false)
    | some e =>
      if !leafAllows e.leaf kind o.user then throw (.fault va kind 1 e.level)
      else if leafStale e.leaf kind then throw (.walk va kind true)
      else match s.accessOf e va with
        | none => throw (.error none)
        | some a =>
          if s.refused a.pa || s.gone a.pa || inControl a.pa then throw (.error none)
          else if s.reroute && devOf a.pa != s.devid.toNat then throw .reroute
          else pure a

/-- Cut `n` bytes at an address where doublewords end. -/
def chunks : Nat → Nat → Nat → List (Nat × Nat)
  | 0, _, _ => []
  | f + 1, a, n => if n = 0 then [] else
    let k := min n (8 - a % 8)
    (a, k) :: chunks f (a + k) (n - k)

/-- Read bytes at their homes, whose caches they leave as they are (R84); what no cache has comes from the controllers (R51). -/
def engRead (c : Nat) (o : EngOp) (va n : Nat) : E (List Byte) := do
  let ps ← (chunks (n / 8 + 2) va n).mapM fun (p : Nat × Nat) => do
    let a ← engAccess c o p.1 .engineRead
    match (← get).readAt a.place a.pa p.2 with
    | (some bs, s) => do
      set (s.passBy a.place a.pa p.2 a.lc)
      pure bs
    | (none, _) => throw (.error (some (a.pa / 64 * 64)))
  pure ps.flatten

/-- Write bytes at their homes. -/
def engWrite (c : Nat) (o : EngOp) (va : Nat) (bs : List Byte) : E Unit :=
  (chunks (bs.length / 8 + 2) va bs.length).forM fun (p : Nat × Nat) => do
    let a ← engAccess c o p.1 .engineWrite
    modify fun s => (s.settle a.place).performAt a.place a.pa ((bs.drop (p.1 - va)).take p.2)

/-- Read bytes of a tile. -/
def tileRead (c t off n : Nat) : E (List Byte) := do
  modify fun s => s.applyDue c
  let s ← get
  match s.homeRead (s.tileAddr c t off) n with
  | some bs => pure bs
  | none => throw (.error (some (s.tileAddr c t off / 64 * 64)))

/-- Change an operation of a core. -/
def State.modOp (s : State) (c : Nat) (t : BitVec 12) (f : EngOp → EngOp) : State :=
  s.modCore c fun k => { k with ops := k.ops.map fun (o : EngOp) => if o.tag == t then f o else o }

/-- An operation of a core, by tag. -/
def Core.op (k : Core) (t : BitVec 12) : Option EngOp := k.ops.find? fun o => o.tag == t

/-- The piece that an operation has been writing is whole, and watchpoints look at it (R107, R280). -/
def State.seePart (s : State) (c : Nat) (t : BitVec 12) : State :=
  match ((s.core c).op t).map (·.part) with
  | some (a :: as) => (s.modOp c t fun o => { o with part := [] }).watchAll a (a :: as)
  | _ => s

/-- An element written at its home is a part of its aligned 8-byte piece (R107): what the operation writes next of that piece belongs to the
same write. -/
def State.addPart (s : State) (c : Nat) (t : BitVec 12) (pa n : Nat) : State :=
  let as := (List.range n).map (pa + ·)
  let old := match (s.core c).op t with | some o => o.part | none => []
  let s := if old.all (fun a => a / 8 == pa / 8 && !as.contains a) then s else s.seePart c t
  let s := s.modOp c t fun o => { o with part := o.part ++ as }
  if (pa + n) % 8 = 0 then s.seePart c t else s

/-- Write an element of at most 8 bytes to memory, or to the tile an operation fills. -/
def elemWrite (c : Nat) (o : EngOp) (tile : Option Nat) (va : Nat) (bs : List Byte) : E Unit :=
  match tile with
  | none => do
    let a ← engAccess c o va .engineWrite
    modify fun s =>
      let s := (s.settle a.place).book a.place a.pa
      if s.refused a.pa || s.gone a.pa then s else (s.homeStore a.pa bs).addPart c o.tag a.pa bs.length
  | some t => modify fun s =>
    let pa := s.tileAddr c t va
    (((s.applyDue c).homeStore pa bs).addPart c o.tag pa bs.length).modOp c o.tag fun o => { o with zero := o.zero && bs.all (· == 0) }

/-- Write bytes of the tile an operation fills, noting whether all are zero (R74). -/
def tileWrite (c : Nat) (o : EngOp) (t off : Nat) (bs : List Byte) : E Unit :=
  modify fun s =>
    let a := s.tileAddr c t off
    let s := (chunks (bs.length / 8 + 2) a bs.length).foldl
      (fun s (p : Nat × Nat) => s.homeWrite p.1 ((bs.drop (p.1 - a)).take p.2)) (s.applyDue c)
    s.modOp c o.tag fun o => { o with zero := o.zero && bs.all (· == 0) }

/-! Completion (R132, R226) -/

/-- A completion word (R226). -/
def completionWord (status src count : Nat) : Word := w64 (status * 2 ^ 56 + src * 2 ^ 53 + count % 2 ^ 48)

/-- Settle the producer word of a join registered with an operation that has completed (R389, R392), `who` being the operation. -/
def State.joinDone (s : State) (pa who : Nat) : State :=
  let s := s.settle (s.placeOf pa false)
  match s.getJoin pa with
  | none => s
  | some j =>
    let j' := (List.range 4).foldl (fun (j : Join) i =>
      if j.kind i = 3 && j.who i = who then { j with pw := j.pw.set i (4 * 2 ^ 29) } else j) j
    if j'.pw = j.pw then s else s.putJoin pa j'.recycle.1

/-- An operation has completed: the joins it is registered with are told, those on a core whose launch has been saved when it resumes. -/
def State.settleOp (s : State) (c : Nat) (o : EngOp) (pa : Nat) : State :=
  let who := c * 2 ^ 12 + o.tag.toNat
  if ((s.joinHome pa).bind fun h => (s.core h).launch) == some o.key then s.joinDone pa who
  else { s with joins := s.joins ++ [⟨c, o.slot, o.gen, 0, 0, pa, .done who, false, o.key⟩] }

/-- Send a completion word where it goes (R132, R242). -/
def State.sendCompletion (s : State) (c : Nat) (o : EngOp) (w : Word) : State :=
  match o.fwd with
  | some (addr, rep) =>
    { s with posted := s.posted ++ [⟨c, 16, 0, o.key, fillOp addr w (max o.scope (scopeOf c (wbits addr 22 12))) rep⟩] }
  | none =>
    if o.dest = 0 then s
    else { s with comps := s.comps ++ [⟨c, o.slot, o.gen, o.dest, o.tag, w, some o.scope, o.key⟩] }

/-- End an operation (R74, R79, R132): its tiles, its pegs, its joins and its completion word. `popped` says that its claimed ring tile has
been popped by an owed pop. The completion is a release at its scope: an engine leaves nothing in a remote-data cache (R131), and at system
scope the CXL bytes go down (R119). A piece that it has not written whole is one write as it stands (R107, R280). -/
def State.endOp (s : State) (c : Nat) (o : EngOp) (status count : Nat) (popped : Bool := false) : State :=
  let s := s.seePart c o.tag
  let k := s.core c
  let k := match o.fill with
    | some t => k.markTile t (if status = 0 then 2 else 0) (status == 0 && o.zero) false
    | none => k
  let k := match o.claim with
    | some (r, pos) => if status = 0 || popped then k else { k with ringWd := k.ringWd ++ [(r, pos)] }
    | none => k
  let k := match o.src with
    | some t => match o.pop with
      | some r => k.popRing r
      | none => k.markTile t 2 (tileZero (k.tile t)) false
    | none => k
  let k := { k with
    pegs := k.pegs.map fun (p : Option Peg) => match p with
      | some g => if g.of o then none else some g
      | none => none
    ops := k.ops.filter fun q => q.tag != o.tag }
  let s := s.setCore c k
  let s := (if o.scope = 5 then s.flushCxl else s).sendCompletion c o (completionWord status o.eng count)
  o.joins.foldl (fun s pa => s.settleOp c o pa) s

/-- The NS bit of an operation that may be withdrawn (R345). -/
def EngOp.ns (o : EngOp) : Bool := o.eng == 1 && decide (o.cmd ≤ 2) && wbit (o.reg 0) 3

/-! Rings settle (R79, R337) -/

/-- Which operation of the matrix engine owes the ring an unread pop. -/
def Core.owing (k : Core) (r : Nat) : Option EngOp := k.ops.find? fun o => o.owes.contains r

/-- Whether an operation is reading a tile: it is DRAINING under an owner mark (R74). -/
def Core.reading (k : Core) (t : Nat) : Bool := tileState (k.tile t) == 3 && k.owned t

/-- One settlement at a ring's head, if one is due and nothing reads the tile there (R79). `stop` withdraws the operation filling the head tile,
whether it names the tile or claimed it; the pop is that of its claim when it claimed this position (R337, R345). -/
def State.settleOnce (stop : State → Nat → EngOp → Bool → State) (s : State) (c r : Nat) : Option State :=
  let k := s.core c
  let w := k.ring r
  let pos := ringHead w
  if ringCount w = 0 || k.reading (k.headTile r) then none
  else if k.ringWd.contains (r, pos) then
    some (s.setCore c (({ k with ringWd := k.ringWd.erase (r, pos) } : Core).advHead r))
  else match k.owing r with
    | none => none
    | some o =>
      let paid (s : State) : State := s.modOp c o.tag fun o => { o with owes := o.owes.erase r }
      let t := k.headTile r
      if tileState (k.tile t) = 2 && !k.owned t then some (paid (s.setCore c (k.popRing r)))
      else match k.ops.find? fun q => q.ns && q.fill == some t with
        | some q => some (paid ((stop s c q (q.claim == some (r, pos))).modCore c fun k => k.advHead r))
        | none => none

/-- Settle a ring until nothing more is due. -/
def State.settleRing (stop : State → Nat → EngOp → Bool → State) (c r : Nat) : Nat → State → State
  | 0, s => s
  | n + 1, s => match s.settleOnce stop c r with
    | some s' => State.settleRing stop c r n s'
    | none => s

/-- Settle every ring of a core. -/
def State.settleRings (stop : State → Nat → EngOp → Bool → State) (s : State) (c : Nat) : State :=
  (List.range 16).foldl (fun s r => State.settleRing stop c r 256 s) s

end Sys2Proof.Machine
end

