-- ==== Sys2Proof/Machine/Engine.lean ====
section
/-! DEFINITION. What the matrix, copy and selection engines do to memory, tiles and accumulators (R333 to R349), unit by unit. -/

namespace Sys2Proof.Machine

/-! Packed elements (R333) -/

/-- Bytes of one element, 4-bit and 6-bit ones taken as whole bytes. -/
def elemBytes (code : Nat) : Nat := if codeWidth code ≤ 8 then 1 else codeWidth code / 8

/-- Bytes of n packed elements. -/
def runBytes (code n : Nat) : Nat := if codeWidth code = 4 then (n + 1) / 2 else n * elemBytes code

/-- Offset of packed element i in its run. -/
def elemOff (code i : Nat) : Nat := if codeWidth code = 4 then i / 2 else i * elemBytes code

/-- Element i from the bytes at its offset. -/
def elemOf (code i : Nat) (bs : List Byte) : Nat :=
  if codeWidth code = 4 then (if i % 2 = 0 then leNat bs % 16 else leNat bs / 16 % 16) else leNat bs % 2 ^ codeWidth code

/-- Element i of packed bytes. -/
def elemAt (code : Nat) (bs : List Byte) (i : Nat) : Nat := elemOf code i ((bs.drop (elemOff code i)).take (elemBytes code))

/-! The copy engine's parameters (R340) -/

def EngOp.dfmt (o : EngOp) : Nat := wbits (o.reg 0) 41 37
def EngOp.sfmt (o : EngOp) : Nat := wbits (o.reg 0) 36 32
def EngOp.st_ (o : EngOp) : Nat := wbits (o.reg 0) 31 26
def EngOp.dt_ (o : EngOp) : Nat := wbits (o.reg 0) 25 20
def EngOp.ndim (o : EngOp) : Nat := wbits (o.reg 0) 19 16
def EngOp.dkind (o : EngOp) : Nat := wbits (o.reg 0) 15 14
def EngOp.skind (o : EngOp) : Nat := wbits (o.reg 0) 13 12

/-- Extent of dimension j. -/
def EngOp.ext (o : EngOp) (j : Nat) : Nat := wbits (o.reg (1 + j)) 31 0

/-- Source stride of dimension j, from 1. -/
def EngOp.sstr (o : EngOp) (j : Nat) : Int := (o.reg (9 + j)).toInt

/-- Destination stride of dimension j, from 1. -/
def EngOp.dstr (o : EngOp) (j : Nat) : Int := (o.reg (17 + j)).toInt

/-- The number of elements. -/
def EngOp.elems (o : EngOp) : Nat := (List.range o.ndim).foldl (fun n j => n * o.ext j) 1

/-- The indices of element i in iteration order, i0 first. -/
def EngOp.index (o : EngOp) (i : Nat) : List Nat :=
  ((List.range o.ndim).foldl (fun (a : List Nat × Nat) j => (a.1 ++ [a.2 % o.ext j], a.2 / o.ext j)) ([], i)).1

/-- The offset of an element's row from its base: Σ over j ≥ 1. -/
def rowOff (str : Nat → Int) (idx : List Nat) : Int :=
  (idx.zipIdx.drop 1).foldl (fun (t : Int) (p : Nat × Nat) => t + p.1 * str p.2) 0

/-- An address modulo 2^64. -/
def addr64 (i : Int) : Nat := (BitVec.ofInt 64 i).toNat

/-- The lowest and highest byte an operand touches, relative to nothing: base and strides as they stand (R330). -/
def EngOp.span (o : EngOp) (base : Nat) (str : Nat → Int) (code : Nat) : Int × Int :=
  let js := (List.range o.ndim).drop 1
  let reach (j : Nat) : Int := ((o.ext j : Int) - 1) * str j
  (js.foldl (fun (t : Int) j => t + min 0 (reach j)) base,
    js.foldl (fun (t : Int) j => t + max 0 (reach j)) base + runBytes code (o.ext 0) - 1)

/-! Moving elements -/

/-- Read the bytes of a source: memory, or the tile being drained. -/
def readAt (c : Nat) (o : EngOp) (kind va n : Nat) : E (List Byte) :=
  if kind = 0 then engRead c o va n else tileRead c (o.src.getD 0) va n

/-- Write an element to a destination: memory, or the tile being filled. -/
def writeAt (c : Nat) (o : EngOp) (kind va : Nat) (bs : List Byte) : E Unit :=
  elemWrite c o (if kind = 0 then none else some (o.fill.getD 0)) va bs

/-- Read packed element i of a run. -/
def readElem (c : Nat) (o : EngOp) (kind base code i : Nat) : E Nat := do
  pure (elemOf code i (← readAt c o kind (base + elemOff code i) (elemBytes code)))

/-- Write packed element i of a run. The first of a pair of 4-bit elements writes the high nibble as zero (R341). -/
def writeElem (c : Nat) (o : EngOp) (kind base code i x : Nat) : E Unit := do
  let va := base + elemOff code i
  if codeWidth code = 4 && i % 2 = 1 then do
    let low := leNat (← if kind = 0 then engLow va else tileRead c (o.fill.getD 0) va 1)
    writeAt c o kind va [BitVec.ofNat 8 (low % 16 + x % 16 * 16)]
  else writeAt c o kind va (natLe x (elemBytes code))
where
  /-- The byte just written at a memory destination. -/
  engLow (va : Nat) : E (List Byte) := do
    let a ← engAccess c o va .engineWrite
    match (← get).homeRead a.pa 1 with
    | some bs => pure bs
    | none => throw (.error (some (a.pa / 64 * 64)))

/-- Conv of R342. -/
def EngOp.conv (o : EngOp) (x : Nat) : Nat :=
  if o.sfmt = o.dfmt then x
  else (convert o.dfmt (primary o.efmt) o.sfmt (secondary o.efmt) 0 (satOf o.efmt) 0 x).code

/-- One element of COPY or FILLT (R341, R343). -/
def copyUnit (c : Nat) (o : EngOp) (i : Nat) : E Unit := do
  let idx := o.index i
  let i0 := idx.headD 0
  let x ← if o.cmd = 1 then pure (o.ga.toNat % 2 ^ codeWidth o.dfmt)
    else do pure (o.conv (← readElem c o o.skind (addr64 (o.ga.toNat + rowOff o.sstr idx)) o.sfmt i0))
  writeElem c o o.dkind (addr64 (o.gb.toNat + rowOff o.dstr idx)) o.dfmt i0 x

/-- The first `m` elements of a row of GATHER or SCATTER (R344). -/
def rowPart (c : Nat) (o : EngOp) (m i : Nat) : E Unit := do
  let n := leNat (← engRead c o (wbits (o.reg 26) 56 0 + 4 * i) 4)
  let (si, di) := if o.cmd = 2 then (n, i) else (i, n)
  let src := addr64 (o.ga.toNat + (si : Int) * o.sstr 1)
  let dst := addr64 (o.gb.toNat + (di : Int) * o.dstr 1)
  if n = 0xFFFFFFFF && o.cmd = 3 then pure ()
  else (List.range m).forM fun j => do
    let x ← if n = 0xFFFFFFFF then pure 0 else do pure (o.conv (← readElem c o o.skind src o.sfmt j))
    writeElem c o o.dkind dst o.dfmt j x

/-- One row of GATHER or SCATTER (R344). -/
def rowUnit (c : Nat) (o : EngOp) (i : Nat) : E Unit := rowPart c o (o.ext 0) i

/-! The matrix engine (R332 to R339) -/

/-- Kc of an element type (R333). -/
def elemKc (code : Nat) : Nat :=
  match code with
  | 5 | 6 | 8 => 64
  | 7 | 16 => 128
  | 3 | 4 => 32
  | 2 => 16
  | _ => 8

/-- Kc of a pair (R333). -/
def pairKc (p : Nat) : Nat := let (a, b) := pairCodes p; min (elemKc a) (elemKc b)

/-- One output of one K-chunk (R297, R335): the accumulator pattern, the elements with k < K, and their scales. -/
def dotStep (p : Nat) (efmt : Word) (acc : Nat) (xs ys : List Nat) (sa sb : Nat → Nat) : Nat :=
  let (ca, cb) := pairCodes p
  if p = 8 || p = 9 then
    let w := codeWidth ca
    let t := (xs.zip ys).foldl (fun (t : Int) q => t + intOf w true q.1 * intOf w true q.2) 0
    (((acc : Int) + t) % 2 ^ 32).toNat
  else if p = 10 then
    let y := (xs.zip ys).foldl (fun acc q => fmtD.rne (fmaVal 0 (fmtD.decode q.1) (fmtD.decode q.2) (fmtD.decode acc)).1) acc
    -- elements with k ≥ K contribute +0 (R299)
    if xs.length < pairKc p then fmtD.rne (addVal 0 (fmtD.decode y) (.fin false 0 1)).1 else y
  else
    let ex (cd : Nat) (d : Desc) (sc : Nat → Nat) (l : List Nat) : List Exact :=
      l.zipIdx.map fun q => scaledElem cd d q.1 (sc q.2)
    let (ts, _) := products (ex ca (primary efmt) sa xs) (ex cb (secondary efmt) sb ys)
    let ts := if xs.length < pairKc p then ts ++ [.fin false 0 1] else ts
    fmtS.rne (addVal 0 (sumVal ts).1 (fmtS.decode acc)).1

/-- Parameters of MCTL (R332). -/
def EngOp.ra (o : EngOp) : Nat := wbits (o.reg 0) 11 8
def EngOp.rb (o : EngOp) : Nat := wbits (o.reg 0) 15 12
def EngOp.sra (o : EngOp) : Nat := wbits (o.reg 0) 19 16
def EngOp.srb (o : EngOp) : Nat := wbits (o.reg 0) 23 20
def EngOp.accN (o : EngOp) : Nat := wbits (o.reg 0) 6 4

/-- Whether a pair's operands carry scales (R334). -/
def pairScaled (p : Nat) : Bool × Bool := let (a, b) := pairCodes p; (narrow a, narrow b)

/-- The rings a tile step pops: operands, and scales of a scaled pair (R334). -/
def EngOp.mmaRings (o : EngOp) : List Nat :=
  let (a, b) := pairScaled o.cmd
  [o.ra, o.rb] ++ (if a then [o.sra] else []) ++ (if b then [o.srb] else [])

/-- Tile steps of an MMA (R335). -/
def EngOp.mmaSteps (o : EngOp) : Nat := (o.ga.toNat + pairKc o.cmd - 1) / pairKc o.cmd

/-- Every accumulator element of an operation changed by `f m n old` (R336). -/
def accMap (dd : Bool) (acc : Memory) (a : Nat) (f : Nat → Nat → Nat → Nat) : Memory :=
  let w := if dd then 8 else 4
  (List.range 256).foldl (fun acc i =>
    let at_ := 1024 * a + w * i
    mwrite acc at_ (natLe (f (i / 16) (i % 16) (leNat (mread acc at_ w))) w)) acc

/-- The accumulators after a strict tile step (R335). -/
def mmaAcc (o : EngOp) (acc : Memory) (ta tb sa sb : List Byte) : Memory :=
  let p := o.cmd
  let kc := pairKc p
  let (ca, cb) := pairCodes p
  let n := min kc (o.ga.toNat - o.step * kc)
  let row (t : List Byte) (m : Nat) : List Byte := (t.drop (64 * m)).take 64
  let elems (cd : Nat) (t : List Byte) (m : Nat) : List Nat := (List.range n).map (elemAt cd (row t m))
  let scale (t : List Byte) (m i : Nat) : Nat := (t.getD (4 * m + i / 32) 0).toNat
  accMap (p == 10) acc o.accN fun m q old => dotStep p o.efmt old (elems ca ta m) (elems cb tb q) (scale sa m) (scale sb q)

/-- The accumulators after a non-strict step (R337): every product is +0. -/
def zeroAcc (o : EngOp) (acc : Memory) : Memory :=
  if o.cmd = 8 || o.cmd = 9 then acc
  else
    let f := if o.cmd = 10 then fmtD else fmtS
    accMap (o.cmd == 10) acc o.accN fun _ _ old => f.rne (addVal 0 (f.decode old) (.fin false 0 1)).1

/-- The parameters of MMV (R332, R338). -/
def EngOp.mvK (o : EngOp) : Nat := wbits (o.reg 1) 31 0
def EngOp.mvV (o : EngOp) : Nat := wbits (o.reg 2) 34 32 + 1
def EngOp.mvN (o : EngOp) : Nat := wbits (o.reg 2) 14 0
def EngOp.mvPair (o : EngOp) : Nat := wbits (o.reg 4) 19 16
def EngOp.mvYt (o : EngOp) : Nat := wbits (o.reg 4) 13 8
def EngOp.mvXt (o : EngOp) : Nat := wbits (o.reg 4) 5 0

/-- Row bytes of the vectors of MMV, rounded up to 64 (R338). -/
def EngOp.mvRow (o : EngOp) : Nat := (runBytes (pairCodes o.mvPair).2 o.mvK + 63) / 64 * 64

/-- Scale blocks of a row (R338). -/
def EngOp.mvBlocks (o : EngOp) : Nat := (o.mvK + 31) / 32

/-- One output of MMV (R338). -/
def mvUnit (c : Nat) (o : EngOp) (i : Nat) : E Unit := do
  let p := o.mvPair
  let (ca, cb) := pairCodes p
  let (na, nb) := pairScaled p
  let kc := pairKc p
  let (v, n) := (i / o.mvN, i % o.mvN)
  let xt := o.src.getD 0
  let w ← engRead c o (addr64 ((o.ga + w64 n * w64 (wbits (o.reg 3) 31 0)).toNat)) (runBytes ca o.mvK)
  let x ← tileRead c xt (v * o.mvRow) (runBytes cb o.mvK)
  let sw ← if na then engRead c o (addr64 (o.gb + w64 (n * o.mvBlocks)).toNat) o.mvBlocks else pure []
  let sx ← if nb then tileRead c xt (o.mvV * o.mvRow + v * o.mvBlocks) o.mvBlocks else pure []
  let y := (List.range ((o.mvK + kc - 1) / kc)).foldl (fun acc t =>
    let ks := (List.range (min kc (o.mvK - t * kc))).map (t * kc + ·)
    dotStep p o.efmt acc (ks.map (elemAt ca w)) (ks.map (elemAt cb x))
      (fun q => (sw.getD ((t * kc + q) / 32) 0).toNat) (fun q => (sx.getD ((t * kc + q) / 32) 0).toNat)) 0
  elemWrite c o (some (o.fill.getD 0)) (4 * (v * o.mvN + n)) (natLe y 4)

/-- MLD and MST (R339). -/
def mldUnit (c : Nat) (o : EngOp) : E Unit := do
  let bs ← tileRead c (o.src.getD 0) 0 1024
  modify fun s => s.modCore c fun k => { k with acc := mwrite k.acc (1024 * o.ga.toNat) bs }

/-- The bytes MST writes. -/
def mstBytes (o : EngOp) (acc : Memory) : List Byte :=
  let code := wbits (o.reg 5) 4 0
  let xs := (List.range 256).map fun i => leNat (mread acc (1024 * o.ga.toNat + 4 * i) 4)
  let conv (x : Nat) : Nat := if code = 2 || code = 12 then x
    else (convert code (primary o.efmt) 2 (secondary o.efmt) 0 (satOf o.efmt) 0 x).code
  if codeWidth code = 4 then (List.range 128).map fun i => BitVec.ofNat 8 (conv (xs.getD (2 * i) 0) + 16 * conv (xs.getD (2 * i + 1) 0))
  else xs.flatMap fun x => natLe (conv x) (elemBytes code)

def mstUnit (c : Nat) (o : EngOp) : E Unit := do
  let s ← get
  tileWrite c o (o.fill.getD 0) 0 (mstBytes o (s.core c).acc)

/-- MCLR of accumulator i (R339). -/
def mclrUnit (c : Nat) (o : EngOp) (i : Nat) : E Unit :=
  let a := ((List.range 8).filter fun j => o.ga.getLsbD j).getD i 0
  modify fun s => s.modCore c fun k => { k with acc := mwrite k.acc (1024 * a) (List.replicate 1024 0) }

/-! The selection engine (R346 to R349) -/

def EngOp.slRows (o : EngOp) : Nat := wbits (o.reg 0) 47 32
def EngOp.slLen (o : EngOp) : Nat := wbits (o.reg 0) 28 16
def EngOp.slFmt (o : EngOp) : Nat := wbits (o.reg 0) 15 11
def EngOp.slK (o : EngOp) : Nat := wbits (o.reg 0) 10 4

/-- The value format of a selection. -/
def EngOp.slF (o : EngOp) : Fmt := (floatFmt o.slFmt (primary o.efmt)).getD fmtS

/-- A sum of values, rounded once into binary32 (R348). -/
def sum32 (f : Fmt) (xs : List Nat) : Nat := if xs.isEmpty then 0 else fmtS.rne (sumVal (xs.map f.decode)).1

/-- Write a selection record (R347). -/
def writeRecord (c : Nat) (o : EngOp) (va : Nat) (kept : List (Nat × Nat)) (sumIn sumOut : Nat) : E Unit := do
  let f := o.slF
  let w := elemBytes o.slFmt
  let full := kept ++ List.replicate (o.slK - kept.length) (f.nan, 0xFFFFFFFF)
  engWrite c o va (full.flatMap fun e => natLe e.1 w)
  engWrite c o (va + 256) (full.flatMap fun e => natLe e.2 4)
  engWrite c o (va + 512) (natLe sumIn 4 ++ natLe sumOut 4 ++ List.replicate 8 0)

/-- One row of TOPK (R348). -/
def topkUnit (c : Nat) (o : EngOp) (r : Nat) : E Unit := do
  let f := o.slF
  let w := elemBytes o.slFmt
  let bs ← engRead c o (addr64 (o.ga.toNat + (r : Int) * (o.reg 1).toInt)) (o.slLen * w)
  let es := (List.range o.slLen).map fun i => (leNat ((bs.drop (i * w)).take w), i)
  let sorted := entrySort f (es.filter fun e => !(f.decode e.1).isNan)
  let kept := sorted.take o.slK
  writeRecord c o (addr64 (o.gb.toNat + (r : Int) * (o.reg 2).toInt)) kept
    (sum32 f (kept.map fun e => e.1)) (sum32 f ((sorted.drop o.slK).map fun e => e.1))

/-- MERGEL (R349): what stays out of the record enters SUMOUT with the lists' own SUMOUTs. -/
def mergelUnit (c : Nat) (o : EngOp) : E Unit := do
  let f := o.slF
  let w := elemBytes o.slFmt
  let lists ← (List.range o.slRows).mapM fun (l : Nat) => do
    let at_ := addr64 (o.ga.toNat + (l : Int) * (o.reg 1).toInt)
    let vs ← engRead c o at_ (o.slK * w)
    let is ← engRead c o (at_ + 256) (o.slK * 4)
    let out ← engRead c o (at_ + 516) 4
    pure ((List.range o.slK).map fun i => (leNat ((vs.drop (i * w)).take w), leNat ((is.drop (i * 4)).take 4)), leNat out)
  let sorted := entrySort f (entryDedup f (lists.flatMap fun (l : List (Nat × Nat) × Nat) => l.1))
  let kept := sorted.take o.slK
  let outs := lists.map (fun (l : List (Nat × Nat) × Nat) => fmtS.decode l.2) ++ (sorted.drop o.slK).map fun e => f.decode e.1
  writeRecord c o o.gb.toNat kept (sum32 f (kept.map fun e => e.1)) (fmtS.rne (sumVal outs).1)

/-! Units -/

/-- Units of an operation of engines 0 to 2 other than MMA (R330). -/
def EngOp.units (o : EngOp) : Nat :=
  match o.eng, o.cmd with
  | 0, 0x10 => o.mvV * o.mvN
  | 0, 0x11 => (List.range 8).countP fun j => o.ga.getLsbD j
  | 0, _ => 1
  | 1, 0 => o.elems
  | 1, 1 => o.elems
  | 1, _ => o.ext 1
  | 2, 0 => o.slRows
  | _, _ => 1

/-- Perform one unit. -/
def engUnit (c : Nat) (o : EngOp) (i : Nat) : E Unit :=
  match o.eng, o.cmd with
  | 0, 0x10 => mvUnit c o i
  | 0, 0x11 => mclrUnit c o i
  | 0, 0x12 => mldUnit c o
  | 0, _ => mstUnit c o
  | 1, 0 => copyUnit c o i
  | 1, 1 => copyUnit c o i
  | 1, _ => rowUnit c o i
  | 2, 0 => topkUnit c o i
  | _, _ => mergelUnit c o

/-- Perform up to `n` units from unit `i`: the state, and what stopped it. -/
def State.runUnits (s : State) (c : Nat) (o : EngOp) : Nat → Nat → State × Option EngStop
  | 0, _ => (s.seePart c o.tag, none)
  | n + 1, i => match (engUnit c o i).run s with
    | .ok (_, s') => (s'.modOp c o.tag fun o => { o with step := i + 1 }).runUnits c o n (i + 1)
    | .error (.error e) => (s.seePart c o.tag, some (.error e))
    | .error e => (s, some e)

/-- End an operation with the units done so far. -/
def State.endNow (s : State) (c : Nat) (t : BitVec 12) (status : Nat) (popped : Bool := false) : State :=
  match (s.core c).op t with
  | some o => s.endOp c o status o.step popped
  | none => s

/-- The elements of its next row that a withdrawn GATHER has still written (R345): how many is open. -/
def State.gatherPart (s : State) (c : Nat) (o : EngOp) : State :=
  match ((s.core c).op o.tag).filter fun o => o.eng == 1 && o.cmd == 2 && decide (o.step < o.units) with
  | none => s
  | some o => match (rowPart c o (s.free.1 % (o.ext 0)) o.step).run s.free.2 with
    | .ok (_, s') => s'.seePart c o.tag
    | .error _ => s.free.2

/-- Stop an operation that has begun, at a boundary it has not passed yet; how far that is, is open: a unit's for FCANCEL (R331), an element's
for a withdrawal (R345). -/
def State.stopOp (status : Nat) (s : State) (c : Nat) (o : EngOp) (popped : Bool) : State :=
  if o.st != .begun then s.endNow c o.tag status popped
  else
    let (n, s) := s.free
    let s := (s.runUnits c o (n % (o.units - o.step + 1)) o.step).1
    (if status = 3 then s.gatherPart c o else s).endNow c o.tag status popped

/-- Withdraw an operation for an owed pop (R337). -/
def State.withdrawFill : State → Nat → EngOp → Bool → State := State.stopOp 3

/-- Settle a core's rings. -/
def State.settleCore (s : State) (c : Nat) : State := s.settleRings State.withdrawFill c

/-- Withdraw an operation for a firing or cancelled join (R345, R389): one that may be withdrawn stops; any other runs on. -/
def State.withdrawOp (s : State) (c : Nat) (t : BitVec 12) : State :=
  match (s.core c).op t with
  | none => s
  | some o =>
    if o.ns && (o.fill.isSome || o.claim.isSome || o.dkind == 1) then (State.stopOp 3 s c o false).settleCore c else s

end Sys2Proof.Machine
end

