-- ==== Sys2Proof/Machine/Commands.lean ====
section
/-! DEFINITION. Engine registers and the issue of engine commands: snapshots, issue checks, pegs, ring claims and handles (R326 to
R354, R366 to R378). -/

namespace Sys2Proof.Machine

/-! Engine registers (R187, R326) -/

/-- The place of an engine register in a strand's file. -/
def eregAt (er : BitVec 10) : Nat := (engSpan (er.toNat / 128)).1 + er.toNat % 128

/-- ESET (R326). -/
def execEset (a : BitVec 5) (er : BitVec 10) (s : State) := instr (do
  let v ← readG a.toNat
  modMe fun x => { x with eregs := vset x.eregs (eregAt er) v }
  pure .next) s

/-- EGET (R326). -/
def execEget (d : BitVec 5) (er : BitVec 10) (s : State) := instr (do
  writeG d.toNat (vget (← me).eregs (eregAt er))
  pure .next) s

/-! Issue checks (R328) -/

/-- Refuse the issue over an engine register. -/
def badReg {α : Type} (eng i : Nat) : M α := trap causeProt (w64 (eng * 128 + i))

/-- Require a condition on engine register i. -/
def needReg (eng i : Nat) (ok : Bool) : M Unit := if ok then pure () else badReg eng i

/-- Require a condition on a g operand. -/
def needOp (v : Word) (ok : Bool) : M Unit := if ok then pure () else trap causeProt v

/-- A range an operation registers (R129, R330): writing, first byte, length, and what s.einfo holds when it is refused. -/
structure Range where
  w    : Bool
  base : Nat
  len  : Nat
  info : Word
  deriving DecidableEq, Repr

/-- A range from its lowest and highest byte. -/
def rangeOf (w : Bool) (lh : Int × Int) (info : Word) : Range := ⟨w, (lh.1 % 2 ^ 57).toNat, (lh.2 - lh.1 + 1).toNat, info⟩

/-- Whether two ranges overlap. -/
def Range.meets (x y : Range) : Bool := decide (x.base < y.base + y.len ∧ y.base < x.base + x.len)

/-- The checks of R330 on an operation's ranges. -/
def checkRanges : List Range → M Unit
  | [] => pure ()
  | [x] => needOp x.info (decide (x.len ≤ 2 ^ 32 - 1))
  | x :: y :: _ => do
    needOp x.info (decide (x.len ≤ 2 ^ 32 - 1))
    needOp y.info (decide (y.len ≤ 2 ^ 32 - 1) && !x.meets y)

/-- The snapshot of an operation (R326). -/
def snapshot (eng cmd : Nat) (ga gb : Word) (scope : Nat) : M EngOp := do
  let s ← get
  let x ← me
  pure ⟨eng, cmd, 0, s.cur.2, x.gen, 0, none, x.engRegs eng, ga, gb, x.efmt, x.lane, x.launch, s.ctxOf x.launch, !x.sup,
    x.dl.toNat, scope, 0, .queued, 0, true, none, none, none, none, [], [], [], none, none, [], none⟩

/-- Whether a store FIFO of the core holds an entry that overlaps a range (R129). -/
def Core.fifoMeets (k : Core) (ctx : Nat) (r : Range) : Bool :=
  k.slots.toList.any fun x => x.fifo.any fun e => e.ctx == ctx && decide (e.va < r.base + r.len ∧ r.base < e.va + e.data.length)

/-- The indices of free peg entries. -/
def Core.freePegs (k : Core) : List Nat := (List.range 16).filter fun i => (vget k.pegs i).isNone

/-- The last lines of R327: wait for room, then claim the ring's tail, register the pegs, and enqueue with a new handle. -/
def enqueue (d : Nat) (o : EngOp) (ranges : List Range) (ring : Option Nat) : M After := do
  release o.scope
  let k ← myCore
  if 16 ≤ k.ops.countP (fun q => q.eng == o.eng) || ranges.any (k.fifoMeets o.ctx) || decide (k.freePegs.length < ranges.length) then
    park .engine
  match ring with
  | some r => if ringHeld (k.ring r) = ringCount (k.ring r) then park (.ring r) else pure ()
  | none => pure ()
  let t ← newTag
  let port ← isPort d
  let o := { o with tag := t, dest := if port then 0 else d, claim := ring.map fun r => (r, ringTail (k.ring r)) }
  modCore fun k =>
    let k := match ring with | some r => k.advTail r | none => k
    let pegs := (ranges.zip k.freePegs).foldl (fun (v : Vector (Option Peg) 16) (p : Range × Nat) =>
      vset v p.2 (some ⟨p.1.w, o.ctx, p.1.base, p.1.len, t.setWidth 8⟩)) k.pegs
    { k with ops := k.ops ++ [o], pegs := pegs }
  setPending d t false
  count 7
  pure .next

/-- Whether a ring can be named (R78). -/
def Core.hasRing (k : Core) (r : Nat) : Bool := ringCount (k.ring r) != 0

/-! Matrix commands -/

/-- The scope and must-be-zero fields of MCTL (R332). -/
def checkMctl (o : EngOp) (ok : Bool) : M Unit :=
  let w := o.reg 0
  needReg 0 0 (wbits w 63 24 == 0 && !wbit w 3 && decide (o.scope ≤ 5) && ok)

/-- MMA (R334, R335). Its word is ILLOP before its source is read (R178). -/
def execMma (d a : BitVec 5) (p : BitVec 4) (s : State) := instr (do
  let x ← me
  if !pairOk p.toNat x.efmt then illop (.mma d a p)
  let ga ← readG a.toNat
  let o ← snapshot 0 p.toNat ga 0 (wbits (vget x.eregs 0) 2 0)
  let k ← myCore
  let rs := o.mmaRings
  checkMctl o (decide rs.Nodup && rs.all k.hasRing && !(p == 10 && o.accN % 2 == 1))
  needOp ga (decide (1 ≤ ga.toNat ∧ ga.toNat < 2 ^ 32))
  enqueue d.toNat o [] none) s

/-- MMV (R338). -/
def execMmv (d a b : BitVec 5) (s : State) := instr (do
  let (ga, gb) ← two readG a.toNat b.toNat
  let x ← me
  let o ← snapshot 0 0x10 ga gb (wbits (vget x.eregs 0) 2 0)
  checkMctl o true
  needReg 0 1 (decide (1 ≤ (o.reg 1).toNat ∧ (o.reg 1).toNat < 2 ^ 32))
  needReg 0 2 (wbits (o.reg 2) 63 35 == 0 && wbits (o.reg 2) 31 15 == 0 && decide (1 ≤ o.mvN ∧ o.mvN ≤ 16384))
  let pairIs := isMmaPair o.mvPair && o.mvPair != 10
  let stride := wbits (o.reg 3) 31 0
  let row := runBytes (pairCodes o.mvPair).1 o.mvK
  needReg 0 3 (wbits (o.reg 3) 63 32 == 0 && stride % 64 == 0 && (!pairIs || decide (row ≤ stride)))
  needReg 0 4 (wbits (o.reg 4) 63 20 == 0 && wbits (o.reg 4) 15 14 == 0 && wbits (o.reg 4) 7 6 == 0 && pairIs)
  needOp ga (ga.toNat % 64 == 0)
  let weights : Range := ⟨false, ga.toNat % 2 ^ 57, (o.mvN - 1) * stride + row, ga⟩
  let ranges := if (pairScaled o.mvPair).1 then [weights, ⟨false, gb.toNat % 2 ^ 57, o.mvN * o.mvBlocks, gb⟩] else [weights]
  checkRanges ranges
  needOp x.efmt (pairOk o.mvPair x.efmt)
  enqueue d.toNat o ranges none) s

/-- MCLR (R339). -/
def execMclr (d a : BitVec 5) (s : State) := instr (do
  let ga ← readG a.toNat
  let o ← snapshot 0 0x11 ga 0 (wbits (vget (← me).eregs 0) 2 0)
  checkMctl o true
  needOp ga (decide (ga.toNat < 256))
  enqueue d.toNat o [] none) s

/-- MLD (R339). -/
def execMld (d a b : BitVec 5) (s : State) := instr (do
  let (ga, gb) ← two readG a.toNat b.toNat
  let o ← snapshot 0 0x12 ga gb (wbits (vget (← me).eregs 0) 2 0)
  checkMctl o true
  needOp ga (decide (ga.toNat < 8))
  needOp gb (decide (gb.toNat < 64))
  enqueue d.toNat o [] none) s

/-- MST (R339). -/
def execMst (d a b : BitVec 5) (s : State) := instr (do
  let (ga, gb) ← two readG a.toNat b.toNat
  let x ← me
  let o ← snapshot 0 0x13 ga gb (wbits (vget x.eregs 0) 2 0)
  checkMctl o true
  let f := (o.reg 5).toNat
  needReg 0 5 (f == 12 || decide (2 ≤ f ∧ f ≤ 7))
  needOp ga (decide (ga.toNat < 8))
  needOp gb (decide (gb.toNat < 64))
  needOp x.efmt (!narrow f || ((primary x.efmt).valid && (primary x.efmt).code == f))
  enqueue d.toNat o [] none) s

/-! Copy commands -/

/-- A format code and the descriptor it takes (R342). -/
def descOk (code : Nat) (d : Desc) : Bool := !narrow code || (d.valid && d.code == code)

/-- The checks of CPCTL and the extents and strides (R340, R341, R344). -/
def checkCopy (o : EngOp) (src : Bool) : M Unit := do
  let k ← myCore
  let w := o.reg 0
  let two := o.cmd == 2 || o.cmd == 3
  let fmtOk (f : Nat) : Bool := decide (1 ≤ f ∧ f ≤ 19)
  let ringOk (kind n : Nat) : Bool := kind != 2 || (decide (n < 16) && k.hasRing n)
  needReg 1 0 (wbits w 63 42 == 0 && wbits w 11 4 == 0 && fmtOk o.dfmt && (!src || fmtOk o.sfmt)
    && decide (1 ≤ o.ndim ∧ o.ndim ≤ 9) && (!two || o.ndim == 2) && o.dkind != 3 && (!src || o.skind != 3)
    && (o.cmd != 2 || o.skind == 0) && (o.cmd != 3 || o.dkind == 0)
    && ringOk o.dkind o.dt_ && (!src || ringOk o.skind o.st_) && decide (o.scope ≤ 5))
  (List.range o.ndim).forM fun j => needReg 1 (1 + j) (decide (1 ≤ (o.reg (1 + j)).toNat ∧ (o.reg (1 + j)).toNat < 2 ^ 32))
  ((List.range o.ndim).drop 1).forM fun j => needReg 1 (9 + j) (!src || o.sstr j % elemBytes o.sfmt == 0)
  ((List.range o.ndim).drop 1).forM fun j => needReg 1 (17 + j) (o.dstr j % elemBytes o.dfmt == 0)
  if two then needReg 1 26 (decide ((o.reg 26).toNat < 2 ^ 57))
  if src then needOp o.ga (o.ga.toNat % elemBytes o.sfmt == 0)
  needOp o.gb (o.gb.toNat % elemBytes o.dfmt == 0)

/-- The ring a copy command fills. -/
def EngOp.fillRing (o : EngOp) : Option Nat := if o.dkind = 2 then some o.dt_ else none

/-- A copy command (R341 to R344). -/
def copyIssue (cmd : Nat) (d a b : BitVec 5) : M After := do
  let (ga, gb) ← two readG a.toNat b.toNat
  let x ← me
  let o ← snapshot 1 cmd ga gb (wbits (vget x.eregs 6) 2 0)
  checkCopy o (cmd != 1)
  let src := if cmd ≠ 1 && cmd ≠ 2 && o.skind = 0 then [rangeOf false (o.span ga.toNat o.sstr o.sfmt) ga] else []
  let dst := if cmd ≠ 3 && o.dkind = 0 then [rangeOf true (o.span gb.toNat o.dstr o.dfmt) gb] else []
  let index := if 2 ≤ cmd then [(⟨false, wbits (o.reg 26) 56 0, 4 * o.ext 1, w64 (128 + 26)⟩ : Range)] else []
  let ranges := index ++ src ++ dst
  checkRanges ranges
  needOp x.efmt ((cmd == 1 || descOk o.sfmt (secondary x.efmt)) && descOk o.dfmt (primary x.efmt))
  enqueue d.toNat o ranges o.fillRing

def execCopy (d a b : BitVec 5) (s : State) := instr (copyIssue 0 d a b) s
def execFillt (d a b : BitVec 5) (s : State) := instr (copyIssue 1 d a b) s
def execGather (d a b : BitVec 5) (s : State) := instr (copyIssue 2 d a b) s
def execScatter (d a b : BitVec 5) (s : State) := instr (copyIssue 3 d a b) s

/-! Selection commands -/

/-- The bytes of rows at a stride, from a base. -/
def rowsSpan (base : Word) (str : Word) (rows bytes : Nat) : Int × Int :=
  let reach : Int := ((rows : Int) - 1) * str.toInt
  ((base.toNat : Int) + min 0 reach, (base.toNat : Int) + max 0 reach + bytes - 1)

/-- SLCTL (R346). -/
def checkSlctl (o : EngOp) (topk : Bool) : M Unit :=
  let w := o.reg 0
  needReg 2 0 (wbits w 63 48 == 0 && wbits w 31 29 == 0 && !wbit w 3 && decide (1 ≤ o.slRows)
    && (if topk then decide (1 ≤ o.slLen ∧ o.slLen ≤ 4096) else decide (o.slRows ≤ 64) && o.slLen == 0)
    && decide (2 ≤ o.slFmt ∧ o.slFmt ≤ 5) && decide (1 ≤ o.slK ∧ o.slK ≤ 64) && decide (o.scope ≤ 5))

/-- TOPK (R347, R348). -/
def execTopk (d a b : BitVec 5) (s : State) := instr (do
  let (ga, gb) ← two readG a.toNat b.toNat
  let x ← me
  let o ← snapshot 2 0 ga gb (wbits (vget x.eregs 33) 2 0)
  checkSlctl o true
  let w := elemBytes o.slFmt
  needReg 2 1 ((o.reg 1).toInt % w == 0)
  needReg 2 2 ((o.reg 2).toInt % 16 == 0 && (decide (o.slRows < 2) || decide (528 ≤ (o.reg 2).toInt.natAbs)))
  needOp ga (ga.toNat % w == 0)
  needOp gb (gb.toNat % 16 == 0)
  let ranges := [rangeOf false (rowsSpan ga (o.reg 1) o.slRows (o.slLen * w)) ga,
    rangeOf true (rowsSpan gb (o.reg 2) o.slRows 528) gb]
  checkRanges ranges
  needOp x.efmt (descOk o.slFmt (primary x.efmt))
  enqueue d.toNat o ranges none) s

/-- MERGEL (R347, R349). -/
def execMergel (d a b : BitVec 5) (s : State) := instr (do
  let (ga, gb) ← two readG a.toNat b.toNat
  let x ← me
  let o ← snapshot 2 1 ga gb (wbits (vget x.eregs 33) 2 0)
  checkSlctl o false
  needReg 2 1 ((o.reg 1).toInt % 16 == 0)
  needOp ga (ga.toNat % 16 == 0)
  needOp gb (gb.toNat % 16 == 0)
  let ranges := [rangeOf false (rowsSpan ga (o.reg 1) o.slRows 528) ga, ⟨true, gb.toNat % 2 ^ 57, 528, gb⟩]
  checkRanges ranges
  needOp x.efmt (descOk o.slFmt (primary x.efmt))
  enqueue d.toNat o ranges none) s

/-! Collective commands -/

def EngOp.colNdev (o : EngOp) : Nat := wbits (o.reg 0) 42 32
def EngOp.colPpd (o : EngOp) : Nat := wbits (o.reg 0) 20 16
def EngOp.colFmt (o : EngOp) : Nat := wbits (o.reg 0) 12 8
def EngOp.colOp (o : EngOp) : Nat := wbits (o.reg 0) 6 4
def EngOp.colList (o : EngOp) : Nat := wbits (o.reg 1) 56 0
def EngOp.colCount (o : EngOp) : Nat := wbits (o.reg 2) 31 0
def EngOp.colTag (o : EngOp) : BitVec 32 := (o.reg 3).setWidth 32

/-- The participants of a tag on this device that have not been stopped and have no result yet: those whose group has begun combining, or
those whose group has not (R351, R355). -/
def State.group (s : State) (tag : BitVec 32) (begun : Bool := false) : List (Nat × EngOp) :=
  s.cores.flatMap fun (p : Nat × Core) =>
    (p.2.ops.filter fun o => o.eng == 3 && o.colTag == tag && o.res.isNone && o.cancel.isNone && o.comb.isSome == begun).map fun o => (p.1, o)

/-- Stop every participant of a group with a STATUS. -/
def State.stopGroup (s : State) (tag : BitVec 32) (status : Nat) (begun : Bool := false) : State :=
  (s.group tag begun).foldl (fun s (p : Nat × EngOp) => s.modOp p.1 p.2.tag fun o => { o with cancel := some status }) s

/-- Two participants of a device with one lane are a MISMATCH as soon as the second arrives, at issue or at its launch's resume (R351). -/
def State.clash (s : State) (tag : BitVec 32) : State :=
  if ((s.group tag).map fun (p : Nat × EngOp) => p.2.lane).Nodup then s else s.stopGroup tag 6

/-- ALLRED and BCAST (R350, R351). -/
def colIssue (cmd : Nat) (d a b : BitVec 5) : M After := do
  let (ga, gb) ← two readG a.toNat b.toNat
  let x ← me
  let o ← snapshot 3 cmd ga gb (wbits (vget x.eregs 36) 2 0)
  let w := o.reg 0
  let f := o.colFmt
  let fmtOk := if cmd = 0 then decide ((1 ≤ f ∧ f ≤ 4) ∨ (12 ≤ f ∧ f ≤ 15)) else decide (1 ≤ f ∧ f ≤ 19 ∧ 8 ≤ codeWidth f)
  needReg 3 0 (wbits w 63 43 == 0 && wbits w 31 21 == 0 && wbits w 15 13 == 0 && !wbit w 7 && !wbit w 3
    && decide (1 ≤ o.colNdev ∧ o.colNdev ≤ 1536) && decide (1 ≤ o.colPpd ∧ o.colPpd ≤ 16) && fmtOk
    && decide (o.colOp ≤ 2) && (cmd == 0 || o.colOp == 0) && (o.scope == 4 || o.scope == 5))
  needReg 3 1 (decide ((o.reg 1).toNat < 2 ^ 57) && (o.reg 1).toNat % 2 == 0)
  needReg 3 2 (decide (1 ≤ (o.reg 2).toNat ∧ (o.reg 2).toNat < 2 ^ 32))
  needReg 3 3 (decide ((o.reg 3).toNat < 2 ^ 32))
  let n := o.colCount * elemBytes f
  let dst : Range := ⟨true, gb.toNat % 2 ^ 57, n, gb⟩
  let ranges := if ga = gb then [dst] else [⟨false, ga.toNat % 2 ^ 57, n, ga⟩, dst]
  checkRanges ranges
  let a ← enqueue d.toNat o ranges none
  modify fun s => s.clash o.colTag
  pure a

def execAllred (d a b : BitVec 5) (s : State) := instr (colIssue 0 d a b) s
def execBcast (d a b : BitVec 5) (s : State) := instr (colIssue 1 d a b) s

/-! Pond commands -/

def EngOp.pSup (o : EngOp) : Bool := wbit (o.reg 0) 3
def EngOp.pK (o : EngOp) : Nat := wbits (o.reg 1) 42 32
def EngOp.pBeta (o : EngOp) : Nat := wbits (o.reg 1) 31 0
def EngOp.pRing (o : EngOp) : Bool := wbit (o.reg 3) 38
def EngOp.pTile (o : EngOp) : Nat := wbits (o.reg 3) 37 32
def EngOp.pWin (o : EngOp) : Nat := wbits (o.reg 3) 31 16
def EngOp.pNapp (o : EngOp) : Nat := wbits (o.reg 3) 15 0

/-- A handle operand's must-be-zero fields (R359). -/
def handleOk (h : Word) : Bool := wbits h 63 42 == 0 && wbits h 35 32 == 0

/-- Die and store of a handle. -/
def handleStore (h : Word) : Nat × Nat := (wbits h 41 40, wbits h 39 36)

/-- A pond command's snapshot with PCTL checked (R365, R366). -/
def pondSnap (cmd : Nat) (ga gb : Word) : M EngOp := do
  let x ← me
  let o ← snapshot 4 cmd ga gb (wbits (vget x.eregs 40) 2 0)
  let w := o.reg 0
  needReg 4 0 (wbits w 63 12 == 0 && wbits w 5 4 == 0 && decide (o.scope ≤ 5))
  pure o

/-- TJINS (R368). -/
def execTjins (d : BitVec 5) (s : State) := instr (do
  let o ← pondSnap 0 0 0
  enqueue d.toNat o [] none) s

/-- TJAPP (R369). With no store at issue the step source is read with Z = 64, and the command completes NOSTORE: the size noted is 0. -/
def execTjapp (d a b : BitVec 5) (s : State) := instr (do
  let (ga, gb) ← two readG a.toNat b.toNat
  let o ← pondSnap 1 ga gb
  needReg 4 3 (wbits (o.reg 3) 63 39 == 0 && o.pNapp != 0)
  needOp ga (handleOk ga)
  needOp gb (gb.toNat % 64 == 0)
  let (die, st) := handleStore ga
  let z := match tget ((← get).die die).ponds st with | some p => 64 + p.obs | none => 0
  let ranges := [(⟨false, gb.toNat % 2 ^ 57, o.pNapp * max 64 z, gb⟩ : Range)]
  checkRanges ranges
  enqueue d.toNat { o with z := z } ranges none) s

/-- A command on a handle with a 32-bit second operand (R370, R375). -/
def handleIssue (cmd : Nat) (d a b : BitVec 5) : M After := do
  let (ga, gb) ← two readG a.toNat b.toNat
  let o ← pondSnap cmd ga gb
  needOp ga (handleOk ga)
  needOp gb (decide (gb.toNat < 2 ^ 32))
  enqueue d.toNat o [] none

def execTjcls (d a b : BitVec 5) (s : State) := instr (handleIssue 2 d a b) s
def execTjpri (d a b : BitVec 5) (s : State) := instr (handleIssue 5 d a b) s

/-- TJSMP (R371). β is a binary32 between 0 and 1. -/
def execTjsmp (d a b : BitVec 5) (s : State) := instr (do
  let ga ← readG a.toNat
  let sup := wbit (vget (← me).eregs 40) 3
  let gb ← if b = a then pure ga else readG b.toNat
  let o ← pondSnap 3 ga gb
  let beta := o.pBeta
  needReg 4 1 (wbits (o.reg 1) 63 43 == 0 && decide (1 ≤ o.pK ∧ o.pK ≤ 1024)
    && (decide (beta ≤ 0x3F800000) || beta == 0x80000000))
  needOp ga (ga.toNat % 32 == 0)
  if sup then needOp gb (gb.toNat % 8 == 0)
  let recs : Range := ⟨true, ga.toNat % 2 ^ 57, 32 * o.pK, ga⟩
  let ranges := if sup then [recs, ⟨false, gb.toNat % 2 ^ 57, 8 * o.pK, gb⟩] else [recs]
  checkRanges ranges
  enqueue d.toNat o ranges none) s

/-- TJGET (R374). -/
def execTjget (d a b : BitVec 5) (s : State) := instr (do
  let (ga, gb) ← two readG a.toNat b.toNat
  let o ← pondSnap 4 ga gb
  let k ← myCore
  needReg 4 3 (wbits (o.reg 3) 63 39 == 0 && o.pWin != 0 && (!o.pRing || (decide (o.pTile < 16) && k.hasRing o.pTile)))
  needOp ga (ga.toNat % 32 == 0)
  needOp gb (decide (1 ≤ gb.toNat ∧ gb.toNat ≤ 1024))
  let ranges := [(⟨false, ga.toNat % 2 ^ 57, 32 * gb.toNat, ga⟩ : Range)]
  checkRanges ranges
  enqueue d.toNat o ranges (if o.pRing then some o.pTile else none)) s

/-- TJEVI (R376). -/
def execTjevi (d a : BitVec 5) (s : State) := instr (do
  let ga ← readG a.toNat
  let o ← pondSnap 6 ga 0
  needOp ga (handleOk ga)
  enqueue d.toNat o [] none) s

/-- TJVER (R377). -/
def execTjver (d a b : BitVec 5) (s : State) := instr (do
  let (ga, gb) ← two readG a.toNat b.toNat
  let o ← pondSnap 7 ga gb
  needOp ga (decide (ga.toNat < 2 ^ 32))
  needOp gb (decide (gb.toNat < 2 ^ 32))
  enqueue d.toNat o [] none) s

/-- TJSTAT (R378). -/
def execTjstat (d b : BitVec 5) (s : State) := instr (do
  let gb ← readG b.toNat
  let o ← pondSnap 8 0 gb
  needOp gb (gb.toNat % 64 == 0)
  let ranges := [(⟨true, gb.toNat % 2 ^ 57, 64, gb⟩ : Range)]
  checkRanges ranges
  enqueue d.toNat o ranges none) s

end Sys2Proof.Machine
end

