-- ==== Sys2Proof/Machine/Control.lean ====
section
/-! DEFINITION. Branches, jumps, calls and returns (R206 to R213); traps raised by program, special and core-shared registers,
cache control, TLB invalidation and waiting for core events (R99, R100, R214 to R220). -/

namespace Sys2Proof.Machine

/-- The program counter of the strand. -/
def myPc : M Word := do pure (← me).pc

/-- A conditional branch (R206). -/
def branch (test : Word → Word → Bool) (a b : BitVec 5) (o : BitVec 16) : M After := do
  let (x, y) ← two readG a.toNat b.toNat
  let pc ← myPc
  pure (if test x y then .jump (pc + 4 + (sext64 o <<< 2)) else .next)

def execBeq (a b : BitVec 5) (o : BitVec 16) (s : State) := instr (branch (· == ·) a b o) s
def execBne (a b : BitVec 5) (o : BitVec 16) (s : State) := instr (branch (· != ·) a b o) s
def execBlt (a b : BitVec 5) (o : BitVec 16) (s : State) := instr (branch BitVec.slt a b o) s
def execBge (a b : BitVec 5) (o : BitVec 16) (s : State) := instr (branch (fun x y => !x.slt y) a b o) s
def execBltn (a b : BitVec 5) (o : BitVec 16) (s : State) := instr (branch BitVec.ult a b o) s
def execBgen (a b : BitVec 5) (o : BitVec 16) (s : State) := instr (branch (fun x y => !x.ult y) a b o) s

/-- The target of a J26 form (R175). -/
def jtarget (pc : Word) (o : BitVec 26) : Word := pc + 4 + (sext64 o <<< 2)

/-- JMP (R207). -/
def execJmp (o : BitVec 26) (s : State) := instr (do pure (.jump (jtarget (← myPc) o))) s

/-- A computed target must be word-aligned (R172). -/
def checkTarget (t : Word) : M Unit := if t.toNat % 4 ≠ 0 then trap causeMisalign t else pure ()

/-- JR (R208). -/
def execJr (a : BitVec 5) (s : State) := instr (do
  let t ← readG a.toNat
  checkTarget t
  pure (.jump t)) s

/-- A FULL register becomes DEAD (R213). -/
def Reg.kill {w : Nat} (r : Reg w) : Reg w := if r.st == .full then { r with st := .dead, owe := none } else r

/-- MarkDead (R213). Bit 0 of s.dmask, and bits 28 to 31 in a pipeline group, have no effect. -/
def Strand.markDead (x : Strand) (port : Bool) : Strand :=
  { x with
    g := Vector.ofFn fun (i : Fin 32) => if x.dmask.getLsbD i.val && i.val != 0 && !(port && 28 ≤ i.val) then (x.g.get i).kill else x.g.get i
    f := Vector.ofFn fun (i : Fin 32) => if x.dmask.getLsbD (32 + i.val) then (x.f.get i).kill else x.f.get i
    v := Vector.ofFn fun (i : Fin 16) => if x.vmask.getLsbD i.val then (x.v.get i).kill else x.v.get i }

/-- MarkDead for the strand that is performing. -/
def markDead : M Unit := do
  let port ← isPort 28
  modMe fun x => x.markDead port

/-- The checks of a return-address spill or refill (R211): translated and refused like an access, without pegs. DESIGN CHOICE (log 71):
withdrawn or unbacked CXL capacity (R39) is RAS_SPILL_FAULT with the virtual address, as a refusal is. -/
def rasAccess (va : Word) (kind : Kind) : M Access := do
  let (a, bad) ← translate va kind true
  checkControl a va 8 kind
  let s ← get
  if bad || s.refused a.pa || s.gone a.pa then trap causeRasSpill va
  else match a.place with
    | .device _ _ => if s.reroute then park .reroute else pure a
    | _ => pure a

/-- The body of CALL and CALLR after the target is known (R209). A spill is no access of R88 (log 75). -/
def callTo (t : Word) : M After := do
  let x ← me
  if 16 ≤ x.ras.length then do
    let a ← rasAccess x.rasp .store
    pushStore x.rasp.toNat a (natLe (x.ras.headD 0).toNat 8)
    modMe fun x => { x with ras := x.ras.tail, rasp := x.rasp + 8 }
  modMe fun x => { x with ras := x.ras ++ [x.pc + 4] }
  markDead
  pure (.jump t)

/-- CALL (R209). -/
def execCall (o : BitVec 26) (s : State) := instr (do callTo (jtarget (← myPc) o)) s

/-- CALLR (R209). -/
def execCallr (a : BitVec 5) (s : State) := instr (do
  let t ← readG a.toNat
  checkTarget t
  callTo t) s

/-- A refill's eight bytes (R210, R211): forwarded from the FIFO, or read at their coherence point in this step (log 12). An uncorrectable
sector is RAS_SPILL_FAULT, and is counted (R66). It is no access of R88 (log 75). -/
def rasLoad (va : Word) (a : Access) : M Word := do
  let x ← me
  let got := (List.range 8).map fun i => fifoByte x.fifo (a.pa + i)
  if got.all Option.isSome then pure (w64 (leNat (got.map fun b => b.getD 0)))
  else if got.any Option.isSome then park (.covered a.pa 8)
  else do
    let s ← get
    let c := s.cur.1
    let bad : M Word := throw (.badSector causeRasSpill va (a.pa / 64 * 64))
    let home : M Word := do
      match s.readAtHome c s.cur.2 a 8 with
      | (some bs, s') => do
        set s'
        if a.place != .core c then countRemote a 8
        pure (w64 (leNat bs))
      | (none, _) => bad
    if s.trails c s.cur.2 a 8 then park (.covered a.pa 8)
    match a.place with
    | .control => pure (s.readControl a.pa)
    | .core y =>
      if dieOf y ≠ dieOf c && (regionOf (localOf a.pa)).cached then
        match ← readCached a 8 with
        | some bs => pure (w64 (leNat bs))
        | none => bad
      else home
    | .device _ _ => home

/-- RET (R210). -/
def execRet (s : State) := instr (do
  let x ← me
  if !x.ras.isEmpty then do
    let t := x.ras.getLastD 0
    checkTarget t
    modMe fun x => { x with ras := x.ras.dropLast }
    markDead
    pure (.jump t)
  else if x.rasb.toNat < x.rasp.toNat then do
    let va := x.rasp - 8
    let a ← rasAccess va .load
    let t ← rasLoad va a
    checkTarget t
    modMe fun x => { x with rasp := va }
    markDead
    pure (.jump t)
  else trap causeRasUnder 0) s

/-- TRAP (R214). -/
def execTrap (k : BitVec 10) (s : State) := instr (trap causeTrap (zext64 k)) s

/-- BRK (R214). -/
def execBrk (k : BitVec 10) (s : State) := instr (trap causeBrk (zext64 k)) s

/-- ERET (R215). An s.epc that is no word address takes MISALIGN. -/
def execEret (s : State) := instr (do
  let x ← me
  checkTarget x.epc
  modMe Strand.trapReturn
  pure (.jump x.epc)) s

/-! Special registers (R186, R394, R408) -/

/-- s.status as read (R394). -/
def statusOf (s : State) (x : Strand) : Word :=
  let b (c : Bool) (n : Nat) : Nat := if c then n else 0
  w64 (b x.bm 64 + b x.hu 32 + b x.report.isSome 16 + b x.sup 8 + b ((s.die (dieOf s.cur.1)).lock == .locked) 4
    + b x.wt 2 + b x.dt 1)

/-- A special register as MFS reads it (R186). -/
def readSpecial (s : State) (x : Strand) (n : Nat) : Word :=
  match n with
  | 0x000 => statusOf s x
  | 0x001 => x.efmt
  | 0x002 => x.fcr
  | 0x003 => x.dmask
  | 0x004 => zext64 x.vmask
  | 0x005 => x.tbm
  | 0x006 => sidOf s.devid s.cur.1 s.cur.2 x.gen
  | 0x007 => x.lane
  | 0x008 => x.nlane
  | 0x009 => w64 (s.atime (dieOf s.cur.1))
  | 0x00A => x.tvec
  | 0x00B => x.epc
  | 0x00C => x.einfo
  | 0x00D => x.rasp
  | 0x00E => x.rasb
  | 0x00F => w64 x.ras.length
  | 0x010 => x.wd
  | 0x011 => x.rng
  | 0x012 => zext64 x.launch
  | 0x013 => zext64 x.dl
  | 0x014 => zext64 x.mig
  | 0x015 => x.late
  | 0x016 => x.cause
  | _ => vget x.hpm (n - 0x20)

/-- A word with the fields `ro` kept from the old value (R216). -/
def keep (old new ro : Word) : Word := (old &&& ro) ||| (new &&& ~~~ro)

/-- A strand with a special register written (R186, R189, R212, R216, R290, R394, R399). -/
def writeSpecial (x : Strand) (n : Nat) (v : Word) : Strand :=
  match n with
  | 0x000 => { x with bm := wbit v 6, wt := wbit v 1, dt := wbit v 0, hu := if x.sup then wbit v 5 else x.hu }
  | 0x001 => { x with efmt := v }
  | 0x002 => { x with fcr := v }
  | 0x003 => { x with dmask := v }
  | 0x004 => { x with vmask := v.setWidth 16 }
  | 0x007 => if x.dl = 2 then x else { x with lane := v }
  | 0x008 => if x.dl = 2 then x else { x with nlane := v }
  | 0x00A => { x with tvec := v &&& ~~~3#64 }
  | 0x00B => { x with epc := v }
  | 0x00C => { x with einfo := v }
  | 0x00D => { x with rasp := v &&& ~~~7#64 }
  | 0x00E => { x with rasb := v &&& ~~~7#64 }
  | 0x010 => { x with wd := keep x.wd v 0xFE00000000000030#64 }
  | 0x011 => { x with rng := v }
  | 0x014 => { x with mig := if wbits v 1 0 = 3 then (v.setWidth 3) &&& 4 else v.setWidth 3 }
  | 0x015 => { x with late := v }
  | 0x016 => { x with cause := v }
  | _ => { x with hpm := vset x.hpm (n - 0x20) v }

/-- MFS (R216). -/
def execMfs (d : BitVec 5) (sc : BitVec 10) (s : State) := instr (do
  writeG d.toNat (readSpecial (← get) (← me) sc.toNat)
  pure .next) s

/-- The privilege check of an MTS operand (R178, R408): s.hpm0 to s.hpm7 in user mode need HU. -/
def mtsPriv (i : Instr) (n : Nat) : M Unit := do
  let x ← me
  if decide (0x20 ≤ n) && !x.sup && !x.hu then needSup i else pure ()

/-- The values MTS refuses (R189, R290). -/
def mtsRefuses (n : Nat) (v : Word) : Bool :=
  (n == 0x001 && !efmtValid v) || (n == 0x002 && (decide (2 ^ 13 ≤ v.toNat) || decide (6 ≤ v.toNat % 8)))

/-- MTS (R216). -/
def execMts (a : BitVec 5) (sc : BitVec 10) (s : State) := instr (do
  mtsPriv (.mts a sc) sc.toNat
  let v ← readG a.toNat
  if mtsRefuses sc.toNat v then trap causeIllop v
  modMe fun x => writeSpecial x sc.toNat v
  pure .next) s

/-! Core-shared registers (R217) -/

/-- Whether register n's order has an earlier entry than a slot's own (R217): a write, or for a write any. -/
def Core.heldK (k : Core) (me n : Nat) (w : Bool) : Bool :=
  (k.kq.takeWhile fun e => e.2.1 != me).any fun e => e.1 == n && (w || e.2.2)

/-- MFK (R217): held behind the MTKs on its register that issued before it. -/
def execMfk (d : BitVec 5) (k : BitVec 4) (s : State) := instr (do
  let s ← get
  if (s.core s.cur.1).heldK s.cur.2 k.toNat false then throw (.parkK k.toNat false (.kHeld k.toNat))
  writeG d.toNat (vget (s.core s.cur.1).k k.toNat)
  modCore fun y => y.leaveK s.cur.2
  pure .next) s

/-- MTK (R217): a release at core scope, then the write, in the order in which the MTKs and MFKs of its register issued. -/
def execMtk (k : BitVec 4) (a : BitVec 5) (s : State) := instr (do
  let v ← readG a.toNat
  releaseOr (.parkK k.toNat true (.release 0)) 0
  let s ← get
  if (s.core s.cur.1).heldK s.cur.2 k.toNat true then throw (.parkK k.toNat true (.kHeld k.toNat))
  modCore fun c => (({ c with k := vset c.k k.toNat v } : Core).signal 0).leaveK s.cur.2
  pure .next) s

/-! Cache control (R99, R100) -/

/-- CCTL waits for its strand's store FIFO. -/
def fifoEmpty : M Unit := do if (← me).fifo.isEmpty then pure () else park .fifoEmpty

/-- The line CCTL acts on, when it is one that caches hold (R100). -/
def cctlLine (a : BitVec 5) (kind : Kind) : M (Option Access) := do
  let va ← readG a.toNat
  fifoEmpty
  let (x, bad) ← translate va kind
  checkRefused x bad
  pure (if (regionOf (localOf x.pa)).cached then some x else none)

/-- Another device's caches have written a line back: what their memory holds of it is what they held (R100). -/
def State.farSaved (s : State) (line : Nat) : State := { s with farOld := s.farOld.filter fun c => c.1 / 256 != line }

/-- Another device's caches lose a line of its memory: of each byte written since the last write-back, memory there holds that value or one
before it, which of them is free, as a cache may have given the line up meanwhile (R100, log 2). -/
def State.farLost (s : State) (line : Nat) : State :=
  ((s.farOld.filter fun c => c.1 / 256 == line && devOf c.1 != s.devid.toNat).foldl (fun s c =>
    let vs := c.2 ++ [mget s.mem c.1]
    { s.free.2 with mem := mput s.mem c.1 (vs.getD (s.free.1 % vs.length) 0) }) s).farSaved line

/-- Write a line back everywhere; its copies stay valid and clean (code 0). -/
def State.cctlWb (s : State) (x : Access) : State :=
  (((s.settle x.place).rdcFlush (dieOf s.cur.1) (x.pa / 256)).lineToMem (x.pa / 256)).farSaved (x.pa / 256)

/-- CCTL.WB (R99). -/
def execCctlWb (a : BitVec 5) (s : State) := instr (do
  match ← cctlLine a .load with
  | some x => modify fun s => s.cctlWb x
  | none => pure ()
  pure .next) s

/-- CCTL.INV (R99): as WB, then the copies go. -/
def execCctlInv (a : BitVec 5) (s : State) := instr (do
  match ← cctlLine a .load with
  | some x => modify fun s => ((s.cctlWb x).rdcDrop (dieOf s.cur.1) (x.pa / 256)).lineOut (x.pa / 256)
  | none => pure ()
  pure .next) s

/-- Drop a line and its dirty bytes in the three places (code 2). A timed store whose time has come is in them (R147). -/
def State.cctlDrop (s : State) (x : Access) : State :=
  let line := x.pa / 256
  let d := dieOf s.cur.1
  let s := (s.settle x.place).modDie d fun y => { y with rdc := tdel y.rdc line }
  (({ s with badWords := s.badWords.filter fun w => !(w.1 == some d && w.2 / 32 == line) } : State).lineLost line).farLost line

/-- CCTL.DROP (R99), supervisor only. -/
def execCctlDrop (a : BitVec 5) (s : State) := instr (do
  needSup (.cctlDrop a)
  match ← cctlLine a .store with
  | some x => modify fun s => s.cctlDrop x
  | none => pure ()
  pure .next) s

/-- CCTL.FLASH (R99). -/
def execCctlFlash (s : State) := instr (do
  fifoEmpty
  modify fun s => s.rdcFlash (dieOf s.cur.1)
  pure .next) s

/-- CCTL.IINV (R99). -/
def execCctlIinv (s : State) := instr (do
  fifoEmpty
  modify fun s => s.modCore s.cur.1 fun k => { k with fetchBuf := [], histAt := s.clean.hist.length }
  pure .next) s

/-! TLB invalidation (R28, R219) -/

/-- The entries a TLBINV removes (R219). -/
def tlbinvHits (kind : Nat) (va : Word) (ctx : Nat) (e : TlbEnt) : Bool :=
  match kind with
  | 0 => e.covers ctx va.toNat
  | 1 => e.ctx == ctx && !e.leaf.getLsbD 5
  | 2 => true
  | _ => e.covers e.ctx va.toNat

/-- Whether an access already translated falls under a TLBINV and is not yet performed (R28). -/
def tlbinvPage (kind : Nat) (va : Word) (ctx : Nat) (ectx eva : Nat) : Bool :=
  match kind with
  | 0 => decide (eva / 2 ^ 30 = va.toNat / 2 ^ 30)
  | 1 => ectx == ctx
  | 2 => true
  | _ => decide (eva / 2 ^ 30 = va.toNat / 2 ^ 30)

/-- Whether every access of a die translated through a removed entry and accepted into a FIFO or a leap has been performed (R28): nothing of
it is in a FIFO, on a posted path or in a calendar, and no strand that has leapt still has its access to make. What lies dirty in remote-data
caches the completion writes back. -/
def State.tlbinvDone (s : State) (die : Option Nat) (kind : Nat) (va : Word) (ctx : Nat) : Bool :=
  let on (c : Nat) : Bool := match die with | some d => dieOf c == d | none => true
  let hit (e : FifoEntry) : Bool := tlbinvPage kind va ctx e.ctx e.va
  let due (e : CalEntry) : Bool := on e.core && tlbinvPage kind va ctx e.ctx e.va
  !(s.cores.any fun k => (on k.1 && k.2.slots.toList.any fun x => x.fifo.any hit) || k.2.cal.any due || k.2.calWait.any due)
    && !(s.fars.any fun f => f.2.cal.any due || f.2.wait.any due)
    && !(s.posted.any fun p => on p.core && match p.op with | .store e => hit e | _ => false)
    && !s.leaping on

/-- The dies a TLBINV names. -/
def tlbinvDies (all : Bool) (c : Nat) : List Nat := if all then [0, 1, 2, 3] else [dieOf c]

/-- A TLBINV completes: the dirty bytes of the dies' remote-data caches are at their homes (R28). -/
def State.tlbinvEnd (s : State) (dies : List Nat) : State := dies.foldl State.rdcFlushAll s

/-- TLBINV (R219), supervisor only: a release at package scope, the entries go, and the strand parks until R28 is met. g[a] is read for KIND 0
and 3 alone. -/
def execTlbinv (a b : BitVec 5) (l : BitVec 1) (k : BitVec 3) (s : State) := instr (do
  needSup (.tlbinv a b l k)
  let byVa := k == 0 || k == 3
  let (va, c) ← if byVa then two readG a.toNat b.toNat else do pure (0, ← readG b.toNat)
  if byVa && decide (2 ^ 57 ≤ va.toNat) then trap causeProt va
  if !(← me).fifo.isEmpty then park .fifoEmpty
  releaseKept 3
  let ctx := c.toNat % 65536
  let here := (← get).cur.1
  let dies := tlbinvDies (l == 1) here
  modify fun s => dies.foldl (fun s d => s.tlbDrop d (tlbinvHits k.toNat va ctx)) s
  if (← get).tlbinvDone (if l = 1 then none else some (dieOf here)) k.toNat va ctx then do
    modify fun s => s.tlbinvEnd dies
    pure .next
  else pure (.wait (.tlbinv va ctx (l == 1) k.toNat))) s

/-! Waiting for core events (R220) -/

/-- WAITEV (R220). -/
def execWaitev (d a : BitVec 5) (s : State) := instr (do
  let m := (← readG a.toNat).setWidth 5
  let x ← me
  if m = 0 then writeG d.toNat 0
  else if x.latch &&& m ≠ 0 then do
    modMe fun x => { x with latch := x.latch &&& ~~~m }
    writeG d.toNat (zext64 (x.latch &&& m))
  else park (.latch m)
  pure .next) s

end Sys2Proof.Machine
end

