-- ==== Sys2Proof/Machine/Pond.lean ====
section
/-! DEFINITION. Trajectory stores: handles, slots, the sum tree and the turns of the nine commands (R356 to R378). -/

namespace Sys2Proof.Machine

/-! Stores -/

/-- A store by die and number. -/
def State.pond (s : State) (d t : Nat) : Option Pond := tget (s.die d).ponds t

/-- Replace a store. -/
def State.setPond (s : State) (d t : Nat) (p : Pond) : State := s.modDie d fun x => { x with ponds := tset x.ponds t p }

/-- Slots of a store. -/
def Pond.cap (p : Pond) : Nat := 2 ^ p.lcap

/-- Bytes of a step record (R357). -/
def Pond.z (p : Pond) : Nat := 64 + p.obs

/-- Bytes of the leaf area (R357). -/
def Pond.leafBytes (p : Pond) : Nat := (p.cap * 16 + 65535) / 65536 * 65536

/-- Bytes of the region. -/
def Pond.bytes (p : Pond) : Nat := p.leafBytes + p.cap * p.maxsteps * p.z

/-- Physical address of step i of a slot (R357). -/
def Pond.stepAt (p : Pond) (slot i : Nat) : Nat := p.base + p.leafBytes + (slot * p.maxsteps + i) * p.z

/-- A slot; an unlisted one is FREE with generation 0 (R356). -/
def Pond.slot (p : Pond) (i : Nat) : PondSlot := (tget p.slots i).getD ⟨.free, 0, 0, 0, 0xFFFFFFFF, 0⟩

/-- Replace a slot. -/
def Pond.setSlot (p : Pond) (i : Nat) (x : PondSlot) : Pond := { p with slots := tset p.slots i x }

/-- The tree value of a slot (R360). -/
def PondSlot.leaf (x : PondSlot) : Nat := if x.st == .closed then x.p else 0

/-- T, the root (R362). -/
def Pond.total (p : Pond) : Nat := p.slots.foldl (fun t (x : Nat × PondSlot) => t + x.2.leaf) 0

/-- Slots in a state. -/
def Pond.inState (p : Pond) (st : PondSt) : Nat :=
  let n := p.slots.countP fun (x : Nat × PondSlot) => x.2.st == st
  if st == .free then n + (p.cap - p.slots.length) else n

/-- Descend(u) (R362): the leaf i with C_i ≤ u < C_i + p_i. -/
def descend : Tab PondSlot → Nat → Nat
  | [], _ => 0
  | (i, x) :: t, u => if u < x.leaf then i else descend t (u - x.leaf)

/-- A handle (R359). -/
def handleWord (d t slot : Nat) (gen : BitVec 8) : Word := w64 (d * 2 ^ 40 + t * 2 ^ 36 + slot * 2 ^ 8 + gen.toNat)

/-- SLOT and GEN of a handle. -/
def handleSlot (h : Word) : Nat × BitVec 8 := (wbits h 31 8, BitVec.ofNat 8 h.toNat)

/-- Whether a handle is current (R359). -/
def Pond.current (p : Pond) (h : Word) : Bool :=
  let (i, g) := handleSlot h
  let x := p.slot i
  decide (i < p.cap) && x.gen == g && (x.st == .open_ || x.st == .closed)

/-- The store a command goes to (R366); a TJGET's comes from its list. -/
def EngOp.store (o : EngOp) : Nat × Nat :=
  match o.cmd with
  | 1 | 2 | 5 | 6 => handleStore o.ga
  | _ => (wbits (o.reg 0) 11 10, wbits (o.reg 0) 9 6)

/-- The store as a command finds it in its turn: NOSTORE when it is absent, going, or another context's (R356, R367). -/
def State.pondFor (s : State) (o : EngOp) (d t : Nat) : Option Pond :=
  match s.pond d t with
  | some p => if p.ctx = o.ctx ∧ p.dying.isNone then some p else none
  | none => none

/-- The result of a turn with no writes after it. -/
def plain (status count : Nat) : OpResult := ⟨status, count, [], 1, [], []⟩

/-- A command that completes GONE counts in GONES (R364, R378). -/
def gone (s : State) (d t : Nat) (p : Pond) (count : Nat := 0) : OpResult × State :=
  (plain 5 count, s.setPond d t { p with gones := p.gones + 1 })

/-! Turns -/

/-- The slot that TJINS takes (R368). -/
def Pond.firstFree (p : Pond) : Option Nat :=
  (List.range (p.slots.length + 1)).find? fun i => decide (i < p.cap) && (p.slot i).st == .free

/-- TJINS (R368). -/
def turnIns (s : State) (d t : Nat) (p : Pond) : OpResult × State :=
  match p.firstFree with
  | none => (plain 8 0, s)
  | some i =>
    let x := p.slot i
    let p := { p with inserts := p.inserts + 1 }.setSlot i { x with st := .open_, p := 0, steps := 0, minver := 0xFFFFFFFF }
    (plain 0 (handleWord d t i x.gen).toNat, s.setPond d t p)

/-- A step record as it is written (R361, R369). -/
def stepRecord (bs : List Byte) (n : Nat) : List Byte :=
  bs.take 4 ++ natLe n 4 ++ (bs.drop 8).take 16 ++ [bs.getD 24 0 &&& 3] ++ List.replicate 39 0 ++ bs.drop 64

/-- The first leaf of some slots that cannot be read: refused, or (its sector with it) uncorrectable (R65, R357, R367). DESIGN CHOICE (log 68):
a turn reads the leaves of the slots that it names, takes or draws. -/
def State.leafBad (s : State) (p : Pond) (slots : List Nat) : Option (Option Nat) :=
  if s.badSectors.isEmpty && s.failed == 0 then none
  else ((slots.filter (· < p.cap)).map fun i => (p.base + 16 * i) / 64 * 64).findSome? fun a =>
    if s.refused a true then some none else if s.badSectors.contains a then some (some a) else none

/-- The pond engine's own access to its region (R357). -/
def State.pondBad (s : State) (pa n : Nat) : Bool :=
  (List.range ((n + 63) / 64)).any fun i => s.refused (pa + 64 * i) true

/-- TJAPP, its steps read (R369). -/
def turnApp (s : State) (o : EngOp) (d t : Nat) (p : Pond) (recs : List (List Byte)) : Except EngStop (OpResult × State) :=
  let (i, _) := handleSlot o.ga
  let x := p.slot i
  if o.z ≠ p.z then .ok (plain 0xB 0, s)
  else if !p.current o.ga then .ok (gone s d t p)
  else if x.st != .open_ then .ok (plain 9 0, s)
  else if p.maxsteps < x.steps + o.pNapp then .ok (plain 0xA 0, s)
  else if s.pondBad (p.stepAt i x.steps) (o.pNapp * p.z) then .error (.error none)
  else
    let s := (recs.zipIdx).foldl (fun s (r : List Byte × Nat) =>
      s.homeWrite (p.stepAt i (x.steps + r.2)) (stepRecord r.1 (x.steps + r.2))) s
    let mv := recs.foldl (fun m r => min m (leNat (r.take 4))) x.minver
    -- its own bytes are none of those that were there before it (R419)
    let p := { p with stale := p.stale.filter fun q => decide (q * 64 < p.stepAt i x.steps ∨ p.stepAt i (x.steps + o.pNapp) ≤ q * 64) }
    .ok (plain 0 o.pNapp, s.setPond d t (p.setSlot i { x with steps := x.steps + o.pNapp, minver := mv }))

/-- TJCLS (R370). -/
def turnCls (s : State) (o : EngOp) (d t : Nat) (p : Pond) : OpResult × State :=
  let (i, _) := handleSlot o.ga
  let x := p.slot i
  if !p.current o.ga then gone s d t p
  else if x.st != .open_ || x.steps == 0 then (plain 9 0, s)
  else (plain 0 1, s.setPond d t (p.setSlot i { x with st := .closed, p := wbits o.gb 31 0 }))

/-- TJPRI (R375). -/
def turnPri (s : State) (o : EngOp) (d t : Nat) (p : Pond) : OpResult × State :=
  let (i, _) := handleSlot o.ga
  let x := p.slot i
  if !p.current o.ga then gone s d t p
  else if x.st == .open_ then (plain 9 0, s)
  else (plain 0 1, s.setPond d t (p.setSlot i { x with p := wbits o.gb 31 0 }))

/-- TJEVI (R360, R376). -/
def turnEvi (s : State) (o : EngOp) (d t : Nat) (p : Pond) : OpResult × State :=
  let (i, _) := handleSlot o.ga
  let x := p.slot i
  if !p.current o.ga then gone s d t p
  else (plain 0 1, s.setPond d t (p.setSlot i { x with st := if x.holds = 0 then .free else .held, gen := x.gen + 1, p := 0 }))

/-- TJVER (R377). -/
def turnVer (s : State) (o : EngOp) (d t : Nat) (p : Pond) : OpResult × State :=
  (plain 0 p.version, s.setPond d t { p with version := wbits o.ga 31 0, lag := wbits o.gb 31 0 })

/-- The importance weights of a batch of priorities (R372). -/
def weights (n total beta : Nat) (ps : List Nat) : List Nat :=
  let r (v : FVal) : Nat := fmtS.rne v
  let w0 := ps.map fun pi =>
    let x := fmtS.decode (r (.fin false (n * pi) total))
    let l := fmtS.decode (r (log2Val x).1)
    let b := fmtS.decode (if beta = 0x80000000 then 0 else beta)
    let e := fmtS.decode (r (mulVal b.negate l).1)
    r (exp2Val e).1
  let top := fmtS.decode (w0.foldl max 0)
  w0.map fun w => r (divVal (fmtS.decode w) top).1

/-- The slots that a TJSMP draws (R371). -/
def smpPicks (o : EngOp) (p : Pond) (draws : List Nat) : List Nat :=
  let total := p.total
  let k := o.pK
  if total = 0 then []
  else (List.range k).map fun j =>
    let lo := j * total / k
    let hi := (j + 1) * total / k
    let r := if o.pSup then draws.getD j 0 else (mix64x3 (o.reg 2) p.smpseq (w64 j)).toNat
    descend p.slots (if lo < hi then lo + r % (hi - lo) else lo)

/-- TJSMP, its draws read (R371 to R373). -/
def turnSmp (s : State) (o : EngOp) (d t : Nat) (p : Pond) (draws : List Nat) : OpResult × State :=
  let total := p.total
  let k := o.pK
  if total = 0 then (plain 7 0, s)
  else
    let is := smpPicks o p draws
    let ws := weights (p.inState .closed) total o.pBeta (is.map fun i => (p.slot i).p)
    let recs := is.zipIdx.map fun (q : Nat × Nat) =>
      let x := p.slot q.1
      let stale := p.lag < (2 ^ 32 + p.version - x.minver) % 2 ^ 32
      let dup := (is.take q.2).contains q.1
      (o.ga.toNat + 32 * q.2, natLe (handleWord d t q.1 x.gen).toNat 8 ++ natLe x.steps 4 ++ natLe (ws.getD q.2 0) 4 ++ natLe x.p 4
        ++ natLe x.minver 4 ++ [(if stale then 1 else 0) ||| (if dup then 2 else 0)] ++ List.replicate 7 0)
    (⟨0, k, recs, 1, [], []⟩, s.setPond d t { p with smpseq := p.smpseq + 1, draws := p.draws + w64 k })

/-- TJSTAT (R378). -/
def turnStat (s : State) (o : EngOp) (p : Pond) : OpResult × State :=
  let block := natLe p.total 8 ++ natLe (p.inState .closed) 4 ++ natLe (p.inState .open_) 4 ++ natLe (p.inState .held) 4
    ++ natLe (p.inState .free) 4 ++ natLe p.version 4 ++ natLe p.lag 4 ++ natLe p.smpseq.toNat 8 ++ natLe p.inserts.toNat 8
    ++ natLe p.draws.toNat 8 ++ natLe p.gones.toNat 8
  (⟨0, 1, [(o.gb.toNat, block)], 1, [], []⟩, s)

/-- A held slot by die, store and slot, as one number. -/
def holdKey (d t i : Nat) : Nat := d * 2 ^ 28 + t * 2 ^ 24 + i

/-- Drop one hold; the last one on a HELD slot reclaims it (R360). -/
def State.dropHold (s : State) (k : Nat) : State :=
  let (d, t, i) := (k / 2 ^ 28, k / 2 ^ 24 % 16, k % 2 ^ 24)
  match s.pond d t with
  | none => s
  | some p =>
    let x := p.slot i
    let n := x.holds - 1
    s.setPond d t (p.setSlot i { x with holds := n, st := if n = 0 && x.st == .held then .free else x.st })

/-- The window of one record of a TJGET (R374); none at an uncorrectable sector or a refused access. -/
def gatherRec (s : State) (p : Pond) (win slot steps start : Nat) : Option (List Byte) :=
  ((List.range win).mapM fun w =>
    let i := start + w
    if steps ≤ i then some (List.replicate p.z 0)
    else if s.pondBad (p.stepAt slot i) p.z then none
    else s.homeRead (p.stepAt slot i) p.z).map List.flatten

/-- The first uncorrectable sector that the window of one record meets (R367). -/
def gatherBad (s : State) (p : Pond) (win slot steps start : Nat) : Option Nat :=
  (List.range win).findSome? fun w =>
    let a := p.stepAt slot (start + w)
    if steps ≤ start + w || s.pondBad a p.z then none
    else ((List.range (p.z / 64)).map fun i => a + 64 * i).find? fun b => (s.homeRead b 64).isNone

/-- The pond engine's reads of the window of one record that no cache serves; they carry no leaf's latency class (R51, R84). -/
def State.passRec (s : State) (p : Pond) (win slot steps start : Nat) : State :=
  ((List.range win).filter fun w => decide (start + w < steps)).foldl (fun s w =>
    (pieces (p.stepAt slot (start + w)) p.z).foldl (fun s q => s.passBy (s.placeOf q.1 false) q.1 q.2) s) s

/-- TJGET in its turn (R374): the handles with their WSTART. An uncorrectable sector is counted (R367). -/
def turnGet (s : State) (o : EngOp) (d t : Nat) (p : Pond) (list : List (Word × Nat)) : OpResult × State :=
  match s.leafBad p (list.map fun h => (handleSlot h.1).1) with
  | some bad => (plain 1 0, match bad with | some a => s.countUe a | none => s)
  | none => match list.findIdx? fun h => !p.current h.1 with
  | some i => gone s d t p i
  | none =>
    let slots := list.map fun h => (handleSlot h.1).1
    let held := slots.foldl (fun (p : Pond) i => p.setSlot i { p.slot i with holds := (p.slot i).holds + 1 }) p
    let imgs := list.map fun h => let i := (handleSlot h.1).1; gatherRec s p o.pWin i (p.slot i).steps h.2
    let good := (imgs.takeWhile Option.isSome).map (·.getD [])
    let s := (list.take good.length).foldl (fun s h => let i := (handleSlot h.1).1; s.passRec p o.pWin i (p.slot i).steps h.2) s
    let s := match list[good.length]? with
      | none => s
      | some h => let i := (handleSlot h.1).1
        match gatherBad s p o.pWin i (p.slot i).steps h.2 with | some a => s.countUe a | none => s
    (⟨if good.length = list.length then 0 else 1, good.length, [], 1, slots.map (holdKey d t), good.flatten⟩, s.setPond d t held)

/-! Operands, read before the turn (R363) -/

/-- The records of a TJGET: handles and WSTART. -/
def getList (c : Nat) (o : EngOp) : E (List (Word × Nat)) :=
  (List.range o.gb.toNat).mapM fun r => do
    let h ← engRead c o (o.ga.toNat + 32 * r) 8
    let w ← engRead c o (o.ga.toNat + 32 * r + 28) 4
    pure (w64 (leNat h), leNat w)

/-- Read the operands of a command other than TJGET and take its turn. -/
def pondTurn (c : Nat) (o : EngOp) : E OpResult := do
  let (d, t) := o.store
  let recs ← if o.cmd = 1 then (List.range o.pNapp).mapM fun i => engRead c o (o.gb.toNat + max 64 o.z * i) (max 64 o.z) else pure []
  let draws ← if o.cmd = 3 && o.pSup then (List.range o.pK).mapM fun j => do pure (leNat (← engRead c o (o.gb.toNat + 8 * j) 8))
    else pure []
  let s ← get
  match s.pondFor o d t with
  | none => pure (plain 0xB 0)
  | some p =>
    let named : List Nat := match o.cmd with
      | 0 => p.firstFree.toList
      | 3 => smpPicks o p draws
      | 7 | 8 => []
      | _ => [(handleSlot o.ga).1]
    if let some bad := s.leafBad p named then throw (.error bad)
    let done (r : OpResult × State) : E OpResult := do
      set r.2
      pure r.1
    match o.cmd with
    | 0 => done (turnIns s d t p)
    | 1 => match turnApp s o d t p recs with
      | .ok r => done r
      | .error e => throw e
    | 2 => done (turnCls s o d t p)
    | 3 => done (turnSmp s o d t p draws)
    | 5 => done (turnPri s o d t p)
    | 6 => done (turnEvi s o d t p)
    | 7 => done (turnVer s o d t p)
    | _ => done (turnStat s o p)

end Sys2Proof.Machine
end

