-- ==== Sys2Proof/Machine/EngineSteps.lean ====
section
/-! DEFINITION. The steps of the engines: an operation begins, an MMA takes a tile step, a collective combines, an operation completes
(R74, R75, R79, R132, R329 to R355, R363). -/

namespace Sys2Proof.Machine

/-! What stops a unit -/

/-- An operation meets a missing translation, a fault or an error (R27, R34, R329). -/
def State.engStopped (s : State) (c : Nat) (t : BitVec 12) (e : EngStop) : State :=
  match (s.core c).op t with
  | none => s
  | some o =>
    let d := dieOf c
    match e with
    | .walk va kind upd =>
      (s.modOp c t fun o => { o with st := .walk }).modDie d fun x => { x with
        walks := x.walks ++ [⟨c, o.slot, some t, va, kind, false, upd, o.ctx, o.user⟩] }
    | .fault va kind reason level =>
      let (i, s) := s.postFault d (newFault c o.slot o.gen o.ctx va kind reason level o.user)
      s.modOp c t fun o => { o with st := match i with | some i => .fault d i | none => .faultWait d (va / 2 ^ 16) }
    | .reroute => s
    | .error bad =>
      let s := match bad with | some a => s.countUe a | none => s
      (s.endNow c t 1).settleCore c

/-! Beginning (R74, R75, R329) -/

/-- The tile an operation of engines 0 to 2 reads, and the ring it pops. -/
def EngOp.srcTile (o : EngOp) (k : Core) : Option (Nat × Option Nat) :=
  match o.eng, o.cmd with
  | 0, 0x10 => some (o.mvXt, none)
  | 0, 0x12 => some (o.gb.toNat % 64, none)
  | 1, 1 => none
  | 1, _ => if o.skind = 1 then some (o.st_, none) else if o.skind = 2 then some (k.headTile o.st_, some o.st_) else none
  | _, _ => none

/-- The tile an operation of engines 0 to 2 fills. -/
def EngOp.dstTile (o : EngOp) (k : Core) : Option Nat :=
  match o.eng, o.cmd with
  | 0, 0x10 => some o.mvYt
  | 0, 0x13 => some (o.gb.toNat % 64)
  | 1, _ => if o.dkind = 1 then some o.dt_ else o.claim.map fun p => ringTile (k.ring p.1) p.2
  | _, _ => none

/-- The first and last byte it touches of the tile it reads. -/
def EngOp.srcReach (o : EngOp) : Int × Int :=
  match o.eng, o.cmd with
  | 0, 0x10 => (0, (o.mvV * o.mvRow + (if (pairScaled o.mvPair).2 then o.mvV * o.mvBlocks else 0) : Nat) - 1)
  | 0, _ => (0, 1023)
  | _, _ => o.span o.ga.toNat o.sstr o.sfmt

/-- The first and last byte it touches of the tile it fills. -/
def EngOp.dstReach (o : EngOp) : Int × Int :=
  match o.eng, o.cmd with
  | 0, 0x10 => (0, (4 * (o.mvV * o.mvN) : Nat) - 1)
  | 0, _ => (0, (runBytes (wbits (o.reg 5) 4 0) 256 : Nat) - 1)
  | _, _ => o.span o.gb.toNat o.dstr o.dfmt

/-- Whether a reach lies within a tile. -/
def Core.fits (k : Core) (t : Nat) (r : Int × Int) : Bool := decide (0 ≤ r.1 ∧ r.2 < tileSize (k.tile t))

/-- A ring holds a tile, its head tile is READY without an owner, and no pop of it is owed (R79, R337). -/
def Core.headReady (k : Core) (r : Nat) : Bool :=
  let w := k.ring r
  ringHead w != ringTail w && tileState (k.tile (k.headTile r)) == 2 && !k.owned (k.headTile r) && (k.owing r).isNone

/-- An operation of engines 0 to 2 begins, if its tiles let it (R75). DESIGN CHOICE (log 83): one whose ring is empty, and whose head entry has
SIZE 0, ends with error status at once. -/
def State.beginTiled (s : State) (c : Nat) (o : EngOp) : State :=
  let k := s.core c
  let src := o.srcTile k
  let dst := o.dstTile k
  let none_ (t : Option Nat) : Bool := match t with | some t => tileSize (k.tile t) == 0 | none => false
  let fail := (s.endNow c o.tag 1).settleCore c
  let srcOk := match src with
    | some (t, none) => tileState (k.tile t) == 2 && !k.owned t
    | some (_, some r) => k.headReady r
    | none => true
  let dstOk := match dst with
    | some t => tileState (k.tile t) == 0 && !k.owned t
    | none => true
  if none_ (src.map Prod.fst) || none_ dst then fail
  else if !srcOk || !dstOk then s
  else if (match src with | some (t, _) => !k.fits t o.srcReach | none => false)
      || (match dst with | some t => !k.fits t o.dstReach | none => false) then fail
  else
    let k := match src with | some (t, _) => k.markTile t 3 (tileZero (k.tile t)) true | none => k
    let k := match dst with | some t => k.markTile t 1 false true | none => k
    (s.setCore c k).modOp c o.tag fun o => { o with
      st := .begun, src := src.map Prod.fst, pop := src.bind Prod.snd, fill := dst, zero := true }

/-- TJGET up to its turn (R374). -/
def State.beginGet (s : State) (c : Nat) (o : EngOp) : State :=
  match (getList c o).run s with
  | .error e => s.engStopped c o.tag e
  | .ok (list, s) =>
    let (d, t) := handleStore ((list.headD (0, 0)).1)
    let k := s.core c
    let tile := match o.claim with | some p => ringTile (k.ring p.1) p.2 | none => o.pTile
    let finish (r : OpResult) (s : State) : State := s.modOp c o.tag fun o => { o with st := .begun, res := some r }
    if list.any fun h => !handleOk h.1 || handleStore h.1 != (d, t) then (s.endNow c o.tag 1).settleCore c
    else if tileSize (k.tile tile) = 0 then (s.endNow c o.tag 1).settleCore c
    else if tileState (k.tile tile) ≠ 0 || k.owned tile then s
    else match s.pondFor o d t with
      | none => finish (plain 0xB 0) s
      | some p =>
        if tileSize (k.tile tile) < o.gb.toNat * o.pWin * p.z then (s.endNow c o.tag 1).settleCore c
        else
          let (r, s) := turnGet s o d t p list
          if r.status = 5 then finish r s
          else finish r ((s.modCore c fun k => k.markTile tile 1 false true).modOp c o.tag fun o => { o with fill := some tile, zero := true })

/-- ENGINE_OP_BEGIN (R329): the first operation of an engine that has not begun. Collectives begin when their group combines. -/
def execEngineOpBegin (core eng : Nat) (s : State) : Host.Outcome State Fault Refusal :=
  let k := s.core core
  let busy := (eng == 0 || eng == 2) && k.ops.any fun o => o.eng == eng && o.started
  match k.ops.find? fun o => o.eng == eng && o.cancel.isNone && !o.started with
  | none => .next s
  | some o =>
    if busy || eng = 3 || !(o.st == .queued || o.st == .ready true) then .next s
    else if eng = 4 then
      if o.cmd = 4 then .next (s.beginGet core o)
      else match (pondTurn core o).run s with
        | .error e => .next (s.engStopped core o.tag e)
        | .ok (r, s') => .next (s'.modOp core o.tag fun o => { o with st := .begun, res := some r })
    else .next (s.beginTiled core o)

/-! A tile step of MMA (R335, R337) -/

/-- NS of MCTL (R332). -/
def EngOp.mmaNs (o : EngOp) : Bool := wbit (o.reg 0) 7

/-- An operation ends with a status once its owed pops have settled. -/
def State.failMma (s : State) (c : Nat) (o : EngOp) : State := s.modOp c o.tag fun o => { o with cancel := some 1 }

/-- A step begins on the head tiles of some rings: they are DRAINING, under owner marks (R74, R335, R337). -/
def State.mmaTake (s : State) (c : Nat) (o : EngOp) (rings : List Nat) : State :=
  (s.modCore c fun k => rings.foldl (fun (k : Core) r => k.markTile (k.headTile r) 3 (tileZero (k.tile (k.headTile r))) true) k).modOp c o.tag
    fun o => { o with takes := rings }

/-- The rings whose head tiles a non-strict step reads and pops. -/
def EngOp.freeRings (o : EngOp) : List Nat := [o.ra] ++ if (pairScaled o.cmd).1 then [o.sra] else []

/-- A non-strict step ends. -/
def State.mmaFree (s : State) (c : Nat) (o : EngOp) : State :=
  let s := s.modCore c fun k => o.takes.foldl Core.popRing { k with acc := zeroAcc o k.acc }
  (s.modOp c o.tag fun o => { o with
    step := o.step + 1, takes := [], owes := o.owes ++ [o.rb] ++ if (pairScaled o.cmd).2 then [o.srb] else [] }).settleCore c

/-- The first `n` bytes of each of 16 rows of a tile, laid out with the rows where they stand: nothing past them is read (R299). -/
def rowsRead (c t stride n : Nat) : E (List Byte) := do
  let rows ← (List.range 16).mapM fun m => tileRead c t (stride * m) n
  pure (rows.flatMap fun bs => bs ++ List.replicate (stride - n) 0)

/-- A strict step ends: it has read its tiles, and one event updates the accumulator and pops them. -/
def State.mmaStrict (s : State) (c : Nat) (o : EngOp) : State :=
  let (na, nb) := pairScaled o.cmd
  let k := s.core c
  let read : E (List (List Byte)) := do
    let n := min (pairKc o.cmd) (o.ga.toNat - o.step * pairKc o.cmd)
    let (ca, cb) := pairCodes o.cmd
    let ta ← rowsRead c (k.headTile o.ra) 64 (runBytes ca n)
    let tb ← rowsRead c (k.headTile o.rb) 64 (runBytes cb n)
    let sa ← if na then rowsRead c (k.headTile o.sra) 4 ((n + 31) / 32) else pure []
    let sb ← if nb then rowsRead c (k.headTile o.srb) 4 ((n + 31) / 32) else pure []
    pure [ta, tb, sa, sb]
  let popAll (s : State) : State := (s.modCore c fun k => o.mmaRings.foldl Core.popRing k).modOp c o.tag fun o => { o with takes := [] }
  match read.run s with
  | .error e =>
    let s := match e with | .error (some a) => s.countUe a | _ => s
    ((popAll s).failMma c o).settleCore c
  | .ok (ts, s) =>
    let s := popAll (s.modCore c fun k => { k with acc := mmaAcc o k.acc (ts.getD 0 []) (ts.getD 1 []) (ts.getD 2 []) (ts.getD 3 []) })
    (s.modOp c o.tag fun o => { o with step := o.step + 1 }).settleCore c

/-- MMA_STEP (R75, R335, R337): a step ends, or the next one begins when the tiles it reads are READY. One that names a tile of SIZE 0, or a tile
too small for it, ends the operation with error. -/
def execMmaStep (core : Nat) (s : State) : Host.Outcome State Fault Refusal :=
  let k := s.core core
  match k.ops.find? fun o => o.eng == 0 && decide (o.cmd ≤ 11) && o.st == .begun
      && (!o.takes.isEmpty || (o.cancel.isNone && decide (o.step < o.mmaSteps))) with
  | none => .next s
  | some o =>
    let size (r : Nat) : Nat := tileSize (k.tile (k.headTile r))
    let small (rs : List Nat) : Bool := decide (size o.ra < 1024) || rs.any fun r => decide (size r < if r = o.rb then 1024 else 64)
    let fail : State := (s.failMma core o).settleCore core
    let begins (rs : List Nat) : State :=
      if rs.any fun r => size r == 0 then fail
      else if !rs.all k.headReady then s
      else if small (rs.filter (· != o.ra)) then fail
      else s.mmaTake core o rs
    if !o.takes.isEmpty then .next (if o.takes.contains o.rb then s.mmaStrict core o else s.mmaFree core o)
    else if o.mmaNs && size o.ra != 0 then
      if !k.headReady o.ra then .next s
      else .next (begins (if tileZero (k.tile (k.headTile o.ra)) then o.freeRings else o.mmaRings))
    else .next (begins o.mmaRings)

/-! Collectives (R351 to R355) -/

/-- A combination of two patterns of a format (R352). OP 0 SUM, 1 MAX, 2 MIN. -/
def colCombine (op fmt a b : Nat) : Nat :=
  match floatFmt fmt ⟨0, 0, false, false⟩ with
  | some f => if op = 0 then f.rne (addVal 0 (f.decode a) (f.decode b)).1 else (minmaxCode f (op == 1) a b).1
  | none =>
    let (w, sg) := (intFmt fmt).getD (64, false)
    if op = 0 then (a + b) % 2 ^ w
    else
      let less := decide (intOf w sg a < intOf w sg b)
      if op = 1 then (if less then b else a) else if less then a else b

/-- Combine in a pairing that the engines choose (R352), taking free numbers from the n-th on. -/
def pairUp (f : Nat → Nat → Nat) : Nat → Nat → List Nat → Nat
  | 0, _, l => l.headD 0
  | k + 1, n, l =>
    let i := Config.freeNat n % l.length
    let l' := l.eraseIdx i
    let j := Config.freeNat (n + 1) % l'.length
    pairUp f k (n + 2) (l'.eraseIdx j ++ [f (l.getD i 0) (l'.getD j 0)])

/-- A participant in chain order: position of its device, lane, elements. -/
structure Part where
  pos   : Nat
  lane  : Nat
  elems : List Nat
  deriving DecidableEq, Repr

/-- Chain order (R352). -/
def chainInsert (p : Part) : List Part → List Part
  | [] => [p]
  | q :: t => if p.pos < q.pos || (p.pos = q.pos && p.lane < q.lane) then p :: q :: t else q :: chainInsert p t

/-- A combined element as delivered: a float reduction, of one participant too, makes the default NaN (R283). -/
def colPlain (fmt x : Nat) : Nat :=
  match floatFmt fmt ⟨0, 0, false, false⟩ with
  | some f => f.plainNan x
  | none => x

/-- The result of a complete group, element by element. -/
def colResult (o : EngOp) (ordered : Bool) (tick : Nat) (chain : List Part) : List Nat :=
  (List.range o.colCount).map fun i =>
    let xs := chain.map fun p => p.elems.getD i 0
    if o.cmd = 1 then xs.headD 0
    else colPlain o.colFmt <|
      let f := colCombine o.colOp o.colFmt
      if ordered || o.colOp ≠ 0 || (floatFmt o.colFmt ⟨0, 0, false, false⟩).isNone then xs.tail.foldl f (xs.headD 0)
      else pairUp f (xs.length - 1) (tick + 2 * xs.length * i) xs

/-- What must agree among participants (R351), their lists apart. -/
def EngOp.colKey (o : EngOp) : List Nat := [o.cmd, o.colNdev, o.colPpd, o.colOp, o.colFmt, o.colCount]

/-- A participant's source. -/
def colSource (c : Nat) (o : EngOp) : E (List Nat) := do
  let w := elemBytes o.colFmt
  let x ← engRead c o o.ga.toNat (w * o.colCount)
  pure ((List.range o.colCount).map fun i => leNat ((x.drop (w * i)).take w))

/-- A participant's list, and its source unless a BCAST reads another one's. -/
def colRead (c : Nat) (o : EngOp) : E (List Nat × List Nat) := do
  let l ← engRead c o o.colList (2 * o.colNdev)
  let x ← if o.cmd = 1 then pure [] else colSource c o
  pure ((List.range o.colNdev).map fun i => leNat ((l.drop (2 * i)).take 2), x)

/-- The chain with the source of its first participant, which a BCAST reads alone: it may be one of this device. -/
def State.bcastRead (s : State) (g : List (Nat × EngOp)) (here : Nat) : List Part → Except (State → State) (State × List Part)
  | [] => .ok (s, [])
  | p :: t => match g.find? fun q => p.pos == here && q.2.lane.toNat == p.lane with
    | none => .ok (s, p :: t)
    | some (c, o) => match (colSource c o).run s with
      | .ok (xs, s') => .ok (s', { p with elems := xs } :: t)
      | .error (.error bad) => .error fun s => (match bad with | some a => s.countUe a | none => s).stopGroup o.colTag 1 true
      | .error e => .error fun s => s.engStopped c o.tag e

/-- Read the list, and the source, of every participant that has not been read yet; the first that cannot be read stops. -/
def colReadAll (s : State) : List (Nat × EngOp) → State × Option (Nat × BitVec 12 × EngStop)
  | [] => (s, none)
  | (c, o) :: t => if (o.comb.bind Comb.got).isSome then colReadAll s t
    else match (colRead c o).run s with
      | .error e => (s, some (c, o.tag, e))
      | .ok (x, s') => colReadAll (s'.modOp c o.tag fun o => { o with comb := o.comb.map fun b => { b with got := some x } }) t

/-- Whether every earlier collective of the core that has not begun belongs to the group (R329). -/
def Core.inOrder (k : Core) (o : EngOp) (tag : BitVec 32) : Bool :=
  (k.ops.takeWhile fun q => q.tag != o.tag).all fun q => q.eng != 3 || q.started || q.cancel.isSome || q.colTag == tag

/-- Combine a group whose lists and sources have been read (R351 to R353), unless they disagree or a device is out of reach. -/
def State.combineRead (s : State) (tag : BitVec 32) : State :=
  let g := s.group tag true
  match g with
  | [] => s
  | (_, o) :: _ =>
    let far := match o.comb with | some b => b.far | none => []
    let rs := g.map fun p => (p.2.comb.bind Comb.got).getD ([], [])
    let devs := (rs.headD ([], [])).1
    let here := s.devid.toNat
    let lanes (d : Nat) : List Nat := (if d = here then g.map fun p => p.2.lane.toNat else []) ++ (far.filter fun f => f.dev == d).map fun f => f.lane
    let bad := rs.any (fun r => r.1 != devs) || !decide devs.Nodup || !devs.contains here || far.any (fun f => !devs.contains f.dev)
      || devs.any (fun d => !decide (lanes d).Nodup || (lanes d).length != o.colPpd)
    if bad then s.stopGroup tag 6 true
    else if devs.any (fun d => d != here && !s.reach.contains d) then s.stopGroup tag 1 true
    else
      let pos (d : Nat) : Nat := devs.findIdx (· == d)
      let mine := (g.zip rs).map fun (p : (Nat × EngOp) × (List Nat × List Nat)) => (⟨pos here, p.1.2.lane.toNat, p.2.2⟩ : Part)
      let chain := (mine ++ far.map fun (f : FarPart) => (⟨pos f.dev, f.lane, f.elems⟩ : Part)).foldl (fun a p => chainInsert p a) []
      match (if o.cmd = 1 then s.bcastRead g (pos here) chain else .ok (s, chain)) with
      | .error stop => stop s
      | .ok (s, chain) =>
        let ordered := g.any (fun p => decide (1 ≤ p.2.lvl)) || far.any (fun f => f.ordered)
        let xs := colResult o ordered s.tick chain
        let w := elemBytes o.colFmt
        let s := { s with tick := s.tick + 2 * chain.length * o.colCount }
        g.foldl (fun s (p : Nat × EngOp) => s.modOp p.1 p.2.tag fun q => { q with
          st := .begun
          res := some ⟨0, q.colCount, xs.zipIdx.map fun (x : Nat × Nat) => (q.gb.toNat + w * x.2, natLe x.1 w), 1, devs, []⟩ }) s

/-- A group that has begun combining goes on: its lists and sources are read, once each, and combined. -/
def State.combine (s : State) (tag : BitVec 32) : State :=
  let g := s.group tag true
  if g.any (fun p => p.2.st == .ready false) then s.stopGroup tag 1 true
  else if g.any (fun p => !(p.2.st == .begun || p.2.st == .ready true)) then s
  else match colReadAll s g with
    | (s, some (_, _, .error bad)) => (match bad with | some a => s.countUe a | none => s).stopGroup tag 1 true
    | (s, some (c, t, e)) => s.engStopped c t e
    | (s, none) => s.combineRead tag

/-- COLLECTIVE_COMBINE (R351 to R355): the participants of a tag on this device, and those that have arrived from others. Combining begins when
NDEV × PPD of them have issued, each behind its core's earlier collectives; participants that disagree end before. -/
def execCollectiveCombine (tag : BitVec 32) (far : List FarPart) (s : State) : Host.Outcome State Fault Refusal :=
  if !(s.group tag true).isEmpty then .next (s.combine tag)
  else
    let g := s.group tag
    match g with
    | [] => .next s
    | (_, o) :: _ =>
      if g.any (fun p => p.2.colKey != o.colKey) || far.any (fun f => !f.same) || !decide (far.map fun f => (f.dev, f.lane)).Nodup then
        .next (s.stopGroup tag 6)
      else if decide (g.length + far.length < o.colNdev * o.colPpd) || g.any (fun p => !(s.core p.1).inOrder p.2 tag) then .next s
      else .next ((g.foldl (fun s (p : Nat × EngOp) =>
        s.modOp p.1 p.2.tag fun q => { q with st := .begun, comb := some ⟨far, none⟩ }) s).combine tag)

/-! Completing (R132) -/

/-- Whether FCANCEL or a withdrawal can stop an operation where it stands (R331, R354, R364). -/
def EngOp.stoppable (o : EngOp) : Bool :=
  match o.eng with
  | 0 => decide (o.cmd ≤ 11)
  | 1 => true
  | 2 => o.cmd == 0
  | _ => o.res.isNone

/-- Perform up to `n` of the results a turn or a combination has left to be written, from number `i` on. -/
def State.runWrites (s : State) (c : Nat) (o : EngOp) (ws : List (Nat × List Byte)) : Nat → Nat → State × Option EngStop
  | 0, _ => (s, none)
  | n + 1, i => match ws[i]? with
    | none => (s, none)
    | some w => match (engWrite c o w.1 w.2).run s with
      | .ok (_, s') => (s'.modOp c o.tag fun o => { o with step := i + 1 }).runWrites c o ws n (i + 1)
      | .error e => (s, some e)

/-- End an operation that has a result, dropping its holds (R374). -/
def State.endRes (s : State) (c : Nat) (t : BitVec 12) (status count : Nat) : State :=
  match (s.core c).op t with
  | none => s
  | some o =>
    let s := match o.res with
      | some r => if o.eng = 4 then r.holds.foldl State.dropHold s else s
      | none => s
    (s.endOp c o status count).settleCore c

/-- Complete an operation with a result (R353, R363, R367, R374). -/
def State.completeRes (s : State) (c : Nat) (o : EngOp) (r : OpResult) : State :=
  let left := r.writes.length - o.step
  let stopped := o.eng == 3 && o.cancel == some 1
  let (n, s) := if stopped then (s.free.1 % (left + 1), s.free.2) else (left, s)
  match s.runWrites c o r.writes n o.step with
  | (s, some (.error bad)) =>
    let s := match bad with | some a => s.countUe a | none => s
    s.endRes c o.tag 1 (((s.core c).op o.tag).getD o).step
  | (s, some e) => s.engStopped c o.tag e
  | (s, none) =>
    if stopped then s.endRes c o.tag 1 (((s.core c).op o.tag).getD o).step
    else
      let s := match o.fill with
        | some t => if r.tile.isEmpty then s else match (tileWrite c o t 0 r.tile).run s with | .ok (_, s') => s' | .error _ => s
        | none => s
      s.endRes c o.tag r.status r.count

/-- Perform every unit that is left, and end. -/
def State.finishUnits (s : State) (c : Nat) (o : EngOp) : State :=
  match s.runUnits c o (o.units - o.step) o.step with
  | (s, none) => (s.endNow c o.tag 0).settleCore c
  | (s, some e) => s.engStopped c o.tag e

/-- Complete an operation of engines 0 to 2 that has begun, or go as far as it gets. -/
def State.completeUnits (s : State) (c : Nat) (o : EngOp) : State :=
  if o.eng = 0 ∧ o.cmd ≤ 11 then
    if o.owes.isEmpty && o.takes.isEmpty && (o.cancel.isSome || o.step == o.mmaSteps) then
      (s.endNow c o.tag (if o.step = o.mmaSteps then 0 else o.cancel.getD 0)).settleCore c
    else s
  else if o.eng = 3 then
    match o.cancel with
    | some status => (s.endNow c o.tag status).settleCore c
    | none => s
  else match o.cancel with
    | some status => if o.stoppable then (State.stopOp status s c { o with st := .begun } false).settleCore c else s.finishUnits c o
    | none => s.finishUnits c o

/-- ENGINE_OP_COMPLETE (R132, R331, R354, R364). -/
def execEngineOpComplete (core : Nat) (tag : BitVec 12) (s : State) : Host.Outcome State Fault Refusal :=
  match (s.core core).op tag with
  | none => .next s
  | some o =>
    let stopNow (s : State) : State := match o.cancel with
      | some status => if o.stoppable then (s.endNow core tag status).settleCore core else s
      | none => s
    match o.st with
    | .queued => match o.cancel with
      | some status => .next ((s.endNow core tag status).settleCore core)
      | none => .next s
    | .ready false =>
      if o.comb.isSome && o.res.isNone && o.cancel.isNone then .next (s.stopGroup o.colTag 1 true)
      else .next (s.endRes core tag 1 o.step)
    | .walk => .next (stopNow s)
    | .fault _ _ => .next (stopNow s)
    | .faultWait _ _ => .next (stopNow s)
    | .begun => match o.res with
      | some r => .next (s.completeRes core o r)
      | none => .next (s.completeUnits core o)
    | .ready true => match o.res with
      | some r => .next (s.completeRes core o r)
      | none => if o.eng ≤ 2 then .next (s.completeUnits core o) else .next (stopNow s)

end Sys2Proof.Machine
end

