-- ==== Sys2Proof/Machine/Walk.lean ====
section
/-! DEFINITION. The walkers' turns, the deferred posting of faults, and the writes that resolve them (R27 to R36). -/

namespace Sys2Proof.Machine

/-! The walkers (R27) -/

/-- Which of the queued requests a walker ends next: 128 are under way at once (R27). -/
def State.pickWalk (s : State) (d : Nat) : Nat × State :=
  let n := min 128 (s.die d).walks.length
  if n ≤ 1 then (0, s) else (s.free.1 % n, s.free.2)

/-- A strand's walk ends. -/
def State.walked (s : State) (q : WalkReq) : Except (Nat × Nat) TlbEnt → State
  | .ok e =>
    let s := s.tlbFill q.core q.va e
    match q.op with
    | some t => s.modOp q.core t fun o => if o.st == .walk then { o with st := .ready true } else o
    | none => s.modStrand q.core q.slot fun x => if x.st == .parked (.walk q.va q.kind q.ras q.upd) then { x with st := .ready } else x
  | .error (reason, level) =>
    match q.op with
    | some t => match (s.core q.core).op t with
      | some o => if o.st == .walk then s.engStopped q.core t (.fault q.va (if q.upd then .store else q.kind) reason level) else s
      | none => s
    | none => if (s.strand q.core q.slot).st == .parked (.walk q.va q.kind q.ras q.upd) then
        s.strandFault q.core q.slot q.va q.kind reason level q.ras q.upd else s

/-- TABLE_WALK (R20 to R32). A walk that waits for a reroute stays queued (R415). -/
def execTableWalk (die : Nat) (s : State) : Host.Outcome State Fault Refusal :=
  let (i, s') := s.pickWalk die
  match (s.die die).walks[i]? with
  | none => .next s
  | some q =>
    if s'.walkHeld q.ctx q.va then .next s'
    else
      let s' := s'.modDie die fun x => { x with walks := x.walks.eraseIdx i }
      let (r, s') := s'.walk q.ctx q.va q.kind q.user
      .next (s'.walked q r)

/-! The fault queue -/

/-- FAULT_POST_DEFERRED (R32): the fault that has waited longest is posted when the entry at FQHEAD is free. -/
def execFaultPostDeferred (die : Nat) (s : State) : Host.Outcome State Fault Refusal :=
  let x := s.die die
  let i := x.fqHead.toNat % 1024
  let busy := match tget x.fq i with | some q => q.open_ | none => false
  match x.fqWait with
  | [] => .next s
  | w :: ws =>
    if 1024 ≤ (x.fqHead - x.fqTail).toNat || busy then .next s
    else
      let s' := s.modDie die fun x => { x with
        fq := tset x.fq i { w.r with seq := x.fqSeq, open_ := true }, fqHead := x.fqHead + 1, fqSeq := x.fqSeq + 1, fqWait := ws }
      let wake (y : Strand) : Strand := match y.st with
        | .parked (.faultWait d va k _ _ ras) =>
          if d == die && va / 2 ^ 16 == w.r.vpage && s.ctxOf y.launch == w.r.ctx then { y with st := .parked (.fault die i va k ras) } else y
        | _ => y
      .next { s' with cores := s'.cores.map fun (p : Nat × Core) => (p.1, { p.2 with
        slots := p.2.slots.map wake
        ops := p.2.ops.map fun (o : EngOp) =>
          if o.st == .faultWait die w.r.vpage && o.ctx == w.r.ctx then { o with st := .fault die i } else o }) }

/-- FQTAIL (R33). -/
def execFqTail (die : Nat) (v : Word) (s : State) : Host.Outcome State Fault Refusal := .next (s.writeFqTail die v)

/-- FQREPLAY with each outcome (R34, R35). -/
def execFqReplayReplay (die : Nat) (e : BitVec 10) (s : State) : Host.Outcome State Fault Refusal := .next (s.resolveFault die e.toNat 0)
def execFqReplayFail (die : Nat) (e : BitVec 10) (s : State) : Host.Outcome State Fault Refusal := .next (s.resolveFault die e.toNat 1)
def execFqReplayDeny (die : Nat) (e : BitVec 10) (s : State) : Host.Outcome State Fault Refusal := .next (s.resolveFault die e.toNat 2)
def execFqReplayGone (die : Nat) (e : BitVec 10) (s : State) : Host.Outcome State Fault Refusal := .next (s.resolveFault die e.toNat 3)

end Sys2Proof.Machine
end

