-- ==== Sys2Proof/Machine/Drain.lean ====
section
/-! DEFINITION. What leaves a strand and lands elsewhere: store drains, posted operations, probes, write-backs, remote word accesses
and leaps (R81, R90, R95, R107, R113, R114, R118, R119, R419). -/

namespace Sys2Proof.Machine

/-! Store drains (R113) -/

/-- How a store drains from a core (R105, R113). -/
inductive Drain where
  | control      -- control space of its die, or the device's own block
  | home         -- at a home of its die
  | cache        -- into its die's remote-data cache
  | far          -- placed on the posted path towards the home
  deriving DecidableEq, Repr

/-- The way of a store from core `c`. -/
def drainWay (c : Nat) (a : Access) : Drain :=
  match a.place with
  | .device _ _ => .far
  | .control => match regionOf (localOf a.pa) with
    | .dieBlock d _ => if d = dieOf c then .control else .far
    | _ => .control
  | .core y =>
    if dieOf y = dieOf c then .home
    else if (regionOf (localOf a.pa)).cached then .cache
    else .far

/-- The bytes of a store that go in one piece (R107): all of it where it is performed in one piece, else eight. -/
def FifoEntry.piece (c : Nat) (e : FifoEntry) : Nat :=
  match drainWay c e.acc, e.acc.place with
  | .home, .core y => if y = c then e.data.length else min 8 e.data.length
  | .cache, _ => e.data.length
  | _, _ => min 8 e.data.length

/-- What is left of an entry after a piece of `n` bytes has drained. -/
def FifoEntry.rest (e : FifoEntry) (n : Nat) : List FifoEntry :=
  if e.data.length ≤ n then []
  else [{ e with va := e.va + n, acc := { e.acc with pa := e.acc.pa + n }, data := e.data.drop n }]

/-- A remote word access that its strand's stores make is counted (R81, R408); one to control space is none (R80). -/
def State.countStore (s : State) (c l : Nat) (a : Access) : State :=
  if a.place == .core c || inControl a.pa then s else s.modStrand c l fun x => { x with hpm := vset x.hpm 2 (vget x.hpm 2 + 1) }

/-- A store to a sector that its home cache does not hold, valid or masked, is counted as a miss (R85, R408; log 6). -/
def State.storeMiss (s : State) (c l : Nat) (a : Access) : State :=
  let held := s.homeHolds (a.pa / 64) || s.homeDirty.any fun b => b.1 / 64 == a.pa / 64
  if (regionOf (localOf a.pa)).cached && !held then s.countMiss c l else s

/-- Drain a piece of an ordinary entry (R105, R113, R419). -/
def State.drainPiece (s : State) (c l : Nat) (e : FifoEntry) : State :=
  let bs := e.data.take (e.piece c)
  let way := drainWay c e.acc
  let s := if way == .home || way == .far then s.countStore c l e.acc else s
  match way with
  | .control => s.writeControl e.acc.pa (w64 (leNat bs))
  | .home => ((s.settle e.acc.place).storeMiss c l e.acc).performAt e.acc.place e.acc.pa bs
  | .cache => if s.refused e.acc.pa || s.gone e.acc.pa then s else s.rdcWrite (dieOf c) e.acc bs (groupOf c)
  | .far =>
    let x := s.strand c l
    { s.modStrand c l fun x => { x.mark 63 with exits := x.exits + 1 } with
      posted := s.posted ++ [⟨c, l, x.gen, x.launch, .store { e with data := bs }⟩] }

/-- STORE_DRAIN (R113): the head of a store FIFO. -/
def execStoreDrain (core slot : Nat) (s : State) : Host.Outcome State Fault Refusal :=
  match (s.strand core slot).fifo with
  | [] => .next s
  | e :: es => match e.timed with
    | some _ =>
      if e.sent then .next s
      else
        let s' := (s.yieldLine (dieOf core) e.acc.pa).countStore core slot e.acc
        .next (s'.modStrand core slot fun x => { x with fifo := { e with sent := true } :: es })
    | none => .next ((s.drainPiece core slot e).modStrand core slot fun x => { x with fifo := e.rest (e.piece core) ++ es })

/-! Posted operations (R114, R118, R167) -/

/-- Whether a posted operation is the first of its strand to its core that is not performed (R114), a SPAWNQ that waits there among them; an
engine's forwarded completions keep no order. -/
def State.firstTo (s : State) (i : Nat) (p : Posted) : Bool :=
  p.slot == 16 || (!((s.posted.take i).any fun q => q.by p.core p.slot p.gen && q.op.dst == p.op.dst)
    && !s.pushes.any fun q => q.by p.core p.slot p.gen && p.op.dst == some q.dst)

/-- What a core of launch `here` does with something of launch `key`: take it, keep it waiting (it is for a launch that does not hold
the core now, R224, R404), or discard it, also when its launch has aborted (R163, R399). -/
inductive Fate where
  | take | wait | drop
  deriving DecidableEq, Repr

/-- The fate of something of a launch at a core. -/
def State.fateAt (s : State) (c : Nat) (key : BitVec 24) : Fate :=
  match tget s.launches key.toNat with
    | some q =>
      if q.abort.isSome then .drop
      else if (s.core c).launch == some key then .take
      else if q.st == .waiting || q.st == .saving || q.st == .saved then .wait else .drop
    | none => .drop

/-- A core accepts a message or fill into its buffer; none while the buffer is full (R167). -/
def State.acceptMsg (s : State) (c : Nat) (m : Msg) : Option State :=
  let k := s.core c
  if 16 ≤ k.msgs.length then none
  else some (s.setCore c (({ k with msgs := k.msgs ++ [m] } : Core).signal 2))

/-- A fill for a strand that is saved: its core holds it outside the message buffer and the save area (R224). -/
def State.holdFill (s : State) (c : Nat) (key : BitVec 24) (m : Msg) : Option State :=
  match (tget s.launches key.toNat).bind fun q => tget q.cores c with
  | some k => some (s.modLaunch key fun q => { q with cores := tset q.cores c { k with late := k.late ++ [m] } })
  | none => none

/-- POSTED_ACCEPT (R118, R167): a posted operation reaches its core. -/
def execPostedAccept (idx : Nat) (s : State) : Host.Outcome State Fault Refusal :=
  match s.posted[idx]? with
  | none => .next s
  | some p =>
    match p.op.dst with
    | none => .next s
    | some c =>
      if !s.firstTo idx p then .next s
      else
        let gone : State := { s with posted := s.posted.eraseIdx idx }
        match s.fateAt c p.key with
        | .wait => match p.op with
          | .fill _ l g cls n v sc rep => .next ((gone.holdFill c p.key (.fill l g cls n v sc rep)).getD s)
          | _ => .next s
        | .drop => .next gone
        | .take => match p.op with
          | .msg r _ sc => .next ((gone.acceptMsg c (.msg r sc)).getD s)
          | .push r _ _ => .next (gone.pushFrom c r (some (p.core, p.slot, p.gen)))
          | .fill _ l g cls n v sc rep => .next ((gone.acceptMsg c (.fill l g cls n v sc rep)).getD s)
          | .store _ => .next s

/-- Whether a posted operation is a far store of a strand to a destination. -/
def Posted.farTo (p : Posted) (c l : Nat) (gen : BitVec 8) (dst : Nat) : Bool :=
  p.by c l gen && match p.op with | .store e => farDst e.acc == dst | _ => false

/-- FAR_STORE_ACK (R114): the destination performs a far store and acknowledges it; one that cannot be delivered is discarded. -/
def execFarStoreAck (idx : Nat) (s : State) : Host.Outcome State Fault Refusal :=
  match s.posted[idx]? with
  | none => .next s
  | some p => match p.op with
    | .store e =>
      let s' : State := { s with posted := s.posted.eraseIdx idx }
      if (s.posted.take idx).any fun q => q.farTo p.core p.slot p.gen (farDst e.acc) then .next s
      else if s.lostTo e.acc then .next ({ s' with linkErr := s.linkErr + 1 }.ackStore p)
      else if s.reroute && decide (4 ≤ farDst e.acc) then .next s
      else .next ((s'.farStore e).ackStore p)
    | _ => .next s

/-- PROBE_ECHO (R119): a release's probe of one channel group comes back, and its s.tbm bit clears. -/
def execProbeEcho (core slot grp : Nat) (s : State) : Host.Outcome State Fault Refusal :=
  let x := s.strand core slot
  match x.st with
  | .parked (.release sc) | .parked (.relKept sc) =>
    if x.fifo.isEmpty && decide (grp < 64) && covers sc (groupOf core) grp && s.probeDone core slot grp then
      .next (s.modStrand core slot fun x => { x with tbm := x.tbm &&& ~~~(1#64 <<< grp) })
    else .next s
  | _ => .next s

/-- RDC_WRITEBACK (R95): a line's dirty bytes are merged at its home; with `evict` the line is dropped too. -/
def execRdcWriteback (die line : Nat) (evict : Bool) (s : State) : Host.Outcome State Fault Refusal :=
  .next (if evict then s.rdcDrop die line else s.rdcFlush die line)

/-! Remote word accesses (R81, R107, R115) -/

/-- What becomes of an access at its point of performance when it cannot be made there: refused, withdrawn or uncorrectable. -/
def State.accessStop (s : State) (a : Access) (va : Nat) : Option Stop :=
  if s.refused a.pa then some (.trap causeProt (w64 va))
  else if s.gone a.pa then some (.trap causeExtent (w64 va))
  else none

/-- Deliver a value to a strand's destination and retire it, acquiring first where the access is an acquire; none when a queue port
has no room. -/
def State.deliver (s : State) (c l : Nat) (d : Dest) (bs : List Byte) (acq : Option Nat) : Option State :=
  match s.forStrand c l (do
      writeDest d bs
      match acq with
      | some sc => acquire sc
      | none => pure ()) with
  | .ok s' => some (s'.retireNext c l)
  | .error _ => none

/-- End a strand's access with a trap (R66, R8, R39). -/
def State.stopAt (s : State) (c l : Nat) (e : Stop) : State :=
  { ({ s with cur := (c, l) } : State).stopped e with cur := s.cur }

/-- Whether a remote access waits for a reroute (R415). -/
def State.heldBack (s : State) (a : Access) : Bool :=
  match a.place with | .device _ _ => s.reroute | _ => false

/-- One piece of a remote read: the value so far, or the value delivered. -/
def State.remoteRead (s : State) (c l : Nat) (a : Access) (n : Nat) (d : Dest) (got : List Byte) : State :=
  let a' : Access := { a with pa := a.pa + got.length }
  match s.accessStop a' a'.pa with
  | some e => s.stopAt c l e
  | none =>
    let m := min 8 (n - got.length)
    match s.readAtHome c l a' m with
    | (none, s) => s.stopAt c l (.trap causeMem (w64 (a'.pa / 64 * 64)))
    | (some bs, s') =>
      let got' := got ++ bs
      if got'.length < n then s'.parkStrand c l (.memory (.read a n d got'))
      else (s'.deliver c l d got' none).getD s

/-- REMOTE_WORD_ACCESS (R81, R106): a carried access is performed at its home, and its answer retires the strand. -/
def execRemoteWordAccess (core slot : Nat) (s : State) : Host.Outcome State Fault Refusal :=
  match (s.strand core slot).st with
  | .parked (.memory (.read a n d got)) => if s.heldBack a || s.trails core slot a n then .next s else .next (s.remoteRead core slot a n d got)
  | .parked (.memory (.amo a n op b cmp d acq)) =>
    if s.heldBack a || s.trails core slot a n then .next s
    else match s.accessStop a a.pa with
      | some e => .next (s.stopAt core slot e)
      | none => match (s.dropClean (dieOf core) a.pa).amoAt core slot a n op b cmp with
        | none => .next (s.stopAt core slot (.trap causeMem (w64 (a.pa / 64 * 64))))
        | some (bs, s') => .next ((s'.deliver core slot d bs acq).getD s)
  | _ => .next s

/-! Leaps (R90) -/

/-- LEAP_ARRIVAL (R90, R127, R138, R391): a context reaches its reserved slot once the die's time unit has reached that of the departure. -/
def execLeapArrival (core slot : Nat) (s : State) : Host.Outcome State Fault Refusal :=
  match s.leaps.findIdx? fun q => q.dst == core && q.slot == slot with
  | none => .next s
  | some i => match s.leaps[i]? with
    | none => .next s
    | some q =>
      if (s.die (dieOf core)).tu < q.at_ || (s.strand core slot).st ≠ .reserved then .next s
      else
        let gen := (s.strand core slot).gen + 1
        let x : Strand := { q.ctx with
          st := .ready, gen := gen, latch := BitVec.allOnes 5, lastCyc := none, rereg := q.ctx.prods.length
          g := match q.d with | some d => if d = 0 then q.ctx.g else vset q.ctx.g d (Reg.full 0) | none => q.ctx.g }
        let s' : State := { s with leaps := s.leaps.eraseIdx i }
        let s' := (s'.setStrand core slot x).rdcFlash (dieOf core)
        let move (pa : Nat) : JoinReq := ⟨core, slot, gen, 0, 0, pa, .rereg q.old (whoStrand core slot gen), false, q.ctx.launch⟩
        .next { s' with joins := s'.joins ++ q.ctx.prods.map move }

end Sys2Proof.Machine
end

