-- ==== Sys2Proof/Machine/Dram.lean ====
section
/-! DEFINITION. The stack controllers: row-buffer predictor, candidate tables, automatic promotion, refresh, bus codes and
scrubbing (R51 to R65). -/

namespace Sys2Proof.Machine

/-! The row-buffer predictor (R55 to R57) -/

/-- The index of a row's counter (R55). -/
def rbIndex (bank m : Nat) : Nat := (bank ^^^ bits m 9 5) * 32 + bits m 4 0

/-- A row's counter. -/
def Channel.counter (c : Channel) (bank m : Nat) : Nat := (tget c.pred (rbIndex bank m)).getD 2

/-- The update that an access to row m of a bank makes to the remembered row's counter (R57). -/
def Channel.learn (c : Channel) (bank m : Nat) : Channel :=
  match (c.bank bank).mem with
  | none => c
  | some (old, _) =>
    let n := c.counter bank old
    { c with pred := tset c.pred (rbIndex bank old) (if old = m then min 3 (n + 1) else n - 1) }

/-! Candidate tables (R52) -/

/-- The entry of a candidate table with the oldest time. DESIGN CHOICE (log 63): of equal times, the one listed first. -/
def oldestCand : List (Nat × Nat) → Option (Nat × Nat)
  | [] => none
  | p :: t => match oldestCand t with
    | some q => if p.2 ≤ q.2 then some p else some q
    | none => some p

/-- A far activation with LC 10 (R52): the vote is the counter before its update. -/
def Bank.vote (b : Bank) (m counter now : Nat) : Bank :=
  match b.cands.find? (fun p => p.1 == m) with
  | some (_, t) =>
    if 2 ≤ counter then { b with cands := b.cands.filter fun p => p.1 != m }
    else if now ≤ t + 2000 then { b with cands := b.cands.filter (fun p => p.1 != m), pend := if b.pend.contains m then b.pend else b.pend ++ [m] }
    else { b with cands := b.cands.map fun p => if p.1 == m then (m, now) else p }
  | none =>
    if 2 ≤ counter then b
    else if b.cands.length < 4 then { b with cands := b.cands ++ [(m, now)] }
    else match oldestCand b.cands with
      | some o => { b with cands := b.cands.erase o ++ [(m, now)] }
      | none => b

/-! Bus codes (R58 to R60) -/

/-- Bits set among the low `w`. -/
def setBitsIn (w x : Nat) : Nat := (List.range w).countP x.testBit

/-- The LT masks (R59). -/
def ltMask (c : Nat) : Nat := [0x0000, 0xFFFF, 0xAAAA, 0x5555].getD c 0

/-- The LT code of one group (R59): data, previous data wires and code wires. -/
def ltChoose (d p f : Nat) : Nat :=
  let cost (c : Nat) : Nat := setBitsIn 16 ((d ^^^ ltMask c) ^^^ p) + setBitsIn 2 (c ^^^ f)
  (List.range 4).foldl (fun b c => if cost c < cost b then c else b) 0

/-- What a code sends for a beat: 128 data wires and 16 code wires, from the data and the wires of the previous beat (R58). -/
def busSend (code d : Nat) (prev : Nat × Nat) : Nat × Nat :=
  let byte (x i : Nat) : Nat := x / 2 ^ (8 * i) % 256
  let group (x i : Nat) : Nat := x / 2 ^ (16 * i) % 65536
  let dbi (inv : Nat → Bool) : Nat × Nat :=
    (List.range 16).foldl (fun (a : Nat × Nat) i =>
      if inv i then (a.1 + (255 - byte d i) * 2 ^ (8 * i), a.2 + 2 ^ i) else (a.1 + byte d i * 2 ^ (8 * i), a.2)) (0, 0)
  match code with
  | 0 => (d, 0)
  | 1 => dbi fun i => decide (setBitsIn 8 (byte d i) < 4)
  | 2 => dbi fun i => decide (4 < setBitsIn 8 (byte d i ^^^ byte prev.1 i))
  | _ => (List.range 8).foldl (fun (a : Nat × Nat) g =>
      let c := ltChoose (group d g) (group prev.1 g) (prev.2 / 2 ^ (2 * g) % 4)
      (a.1 + (group d g ^^^ ltMask c) * 2 ^ (16 * g), a.2 + c * 2 ^ (2 * g))) (0, 0)

/-- The shadow cost of a beat on the 144 wires (R60). -/
def beatCost (now prev : Nat × Nat) : Nat :=
  2 * (setBitsIn 128 (now.1 ^^^ prev.1) + setBitsIn 16 (now.2 ^^^ prev.2)) + (144 - setBitsIn 128 now.1 - setBitsIn 16 now.2)

/-- The cost of a burst of four beats under a code, every wire low before it (R58, R60). -/
def burstCost (code : Nat) (beats : List Nat) : Nat :=
  (beats.foldl (fun (a : Nat × (Nat × Nat)) d =>
    let w := busSend code d a.2
    (a.1 + beatCost w a.2, w)) (0, (0, 0))).1

/-- A burst carries a sector; a switch that a refresh has let in takes effect with it (R60). DESIGN CHOICE (log 64): beat i carries bytes 16i
to 16i + 15 of the sector, the first in data bits 7 to 0. -/
def Channel.burst (c : Channel) (sector : List Byte) : Channel :=
  let beats := (List.range 4).map fun i => leNat ((sector.drop (16 * i)).take 16)
  { c with cur := c.armed.getD c.cur, armed := none, shadow := (List.range 4).map fun k => c.shadow.getD k 0 + burstCost k beats, beats := c.beats + 4 }

/-! The events -/

/-- DRAM_ACCESS (R51, R52, R56, R57, R60): one of the accesses on their way to the controllers, with the LC that it carries and the bytes that it
moves. The end of a full window comes before the next burst. What a write-back does to its row it has done when it wrote memory (R44, log 34). -/
def execDramAccess (pa : Nat) (wr : Bool) (lc : BitVec 2) (s : State) : Host.Outcome State Fault Refusal :=
  match if devOf pa = s.devid.toNat then rowOf pa else none with
  | none => .next s
  | some r =>
    let c := s.chan r.ch
    match s.dram.find? fun q => q.pa == pa / 64 * 64 && q.lc == lc && q.wr == wr with
    | none => .next s
    | some q =>
      if 2 ^ 20 ≤ c.beats then .next s
      else
        let vote := c.counter r.bank r.m
        let hit := (c.bank r.bank).mem == some (r.m, true)
        let near := ((c.sub r).find r.frow).isSome
        let c := c.learn r.bank r.m
        let c := if !near && lc = 2 && !hit then c.modBank r.bank fun b => b.vote r.m vote (s.atime (r.ch / 64)) else c
        let c := c.modBank r.bank fun b => { b with mem := some (r.m, decide (2 ≤ c.counter r.bank r.m)) }
        .next (({ s with dram := s.dram.erase q } : State).modChan r.ch fun _ => c.burst q.data)

/-- AUTO_PROMOTION (R53). -/
def execAutoPromotion (ch bank : Nat) (s : State) : Host.Outcome State Fault Refusal :=
  let c := s.chan ch
  match (c.bank bank).pend with
  | [] => .next s
  | m :: ms =>
    let s := s.modChan ch fun c => c.modBank bank fun b => { b with pend := ms }
    let r : RowAt := ⟨ch, bank, bits m 15 9, bits m 8 0, m⟩
    .next (if ((c.sub r).find r.frow).isSome then s else (s.promoteRow r false false).2.2.2)

/-- REFRESH (R57, R60, R62): a switch that waited for it takes effect at the next burst. -/
def execRefresh (ch bank : Nat) (s : State) : Host.Outcome State Fault Refusal :=
  .next (s.modChan ch fun c =>
    let c := c.rowOp bank
    { c with armed := c.pend.or c.armed, pend := none })

/-- The code with the smallest count; the smaller code wins on equal counts. -/
def bestCode (l : List Nat) : Nat := (List.range 4).foldl (fun b k => if l.getD k 0 < l.getD b 0 then k else b) 0

/-- BUS_CODE_WINDOW_END (R60). DESIGN CHOICE (log 65): a window that ends under PIN is none of the two consecutive ones. -/
def execBusCodeWindowEnd (ch : Nat) (s : State) : Host.Outcome State Fault Refusal :=
  .next (s.modChan ch fun c =>
    if c.beats < 2 ^ 20 then c
    else
      let best := BitVec.ofNat 2 (bestCode c.shadow)
      let now := c.shadow.getD c.cur.toNat 0
      let good := !c.pin && decide (c.shadow.getD best.toNat 0 ≤ now - now / 16)
      { c with
        cnt := c.shadow, shadow := [0, 0, 0, 0], beats := 0
        streak := if good then some best else none
        pend := if good && c.streak == some best && best != c.cur then some best else c.pend })

/-- A list with what it lacks of another appended. -/
def joinNew (l more : List Nat) : List Nat := l ++ more.filter fun a => !l.contains a

/-- PATROL_SCRUB (R63): a row of a channel is read, near and far; `fixed` errors are corrected. The listed sectors are found uncorrectable, 0 to
31 in the authoritative copy and 32 to 63 in the far row under a near copy, and so are those that were before; each is counted. DESIGN
CHOICE (log 66): a scrub neither closes the bank's remembered row nor counts as beats; nothing is found in a near row that holds no copy; and
CHCE counts here alone, not at an ordinary access. -/
def execPatrolScrub (ch row fixed : Nat) (bad : List Nat) (s : State) : Host.Outcome State Fault Refusal :=
  if 1572864 ≤ row then .next s
  else
    let base := s.devid.toNat * 2 ^ 46 + ch / 64 * 0x3000000000 + row * 2 ^ 17 + ch % 64 * 2 ^ 11
    let r := rowAt ch row
    let near := ((s.chan ch).sub r).find r.frow
    let mine (l : List Nat) : List Nat := l.filter fun a => a / 2048 == base / 2048
    let top := joinNew s.badSectors ((bad.filter (· < 32)).map fun i => base + 64 * i)
    let under := if near.isSome then joinNew s.badFar ((bad.filter fun i => decide (32 ≤ i ∧ i < 64)).map fun i => base + 64 * (i - 32)) else s.badFar
    let s := s.modChan ch fun c => { c with ce := c.ce + w64 fixed }
    .next ((mine top ++ mine under).foldl State.countSector { s with badSectors := top, badFar := under })

/-- CHCODE_PIN (R61). -/
def execChcodePin (ch : Nat) (code : BitVec 2) (s : State) : Host.Outcome State Fault Refusal :=
  .next (s.modChan ch fun c => c.writeCode (w64 (16 + code.toNat * 4)))

/-- CHCODE_UNPIN (R61). -/
def execChcodeUnpin (ch : Nat) (s : State) : Host.Outcome State Fault Refusal :=
  .next (s.modChan ch fun c => c.writeCode (w64 (c.pcode.toNat * 4)))

/-- DARNING_MAP_ENTRY (R65): it takes effect at the next cold reset. -/
def execDarningMapEntry (stk ent : Nat) (s : State) : Host.Outcome State Fault Refusal :=
  .next { s with darnFlash := tset s.darnFlash stk ((tget s.darnFlash stk).getD [] ++ [ent]) }

end Sys2Proof.Machine
end

