-- ==== Sys2Proof/Machine/Streams.lean ====
section
/-! DEFINITION. Streams: configuring, binding, unbinding, status (R244 to R250), and loading the next element (R247). -/

namespace Sys2Proof.Machine

/-- The stream in four doublewords, when they are a valid descriptor (R244). -/
def streamFrom (w0 w1 w2 w3 : Word) : Option Stream :=
  let t : Stream := { Stream.none with
    base := w0.setWidth 57, stride := w1, count := w2.setWidth 32, esize := BitVec.ofNat 2 (wbits w3 9 8), wr := wbit w3 0, cfg := true }
  if wbits w0 63 57 = 0 ∧ wbits w2 63 32 = 0 ∧ wbits w3 63 10 = 0 ∧ wbits w3 7 1 = 0 ∧ t.count ≠ 0 ∧ t.esize ≠ 3
      ∧ t.base.toNat % t.size = 0 ∧ t.stride.toInt % t.size = 0 then some t
  else none

/-- SCFG (R245). -/
def execScfg (a : BitVec 5) (n : BitVec 3) (s : State) := instr (do
  let va ← readG a.toNat
  if va.toNat % 32 ≠ 0 then trap causeMisalign va
  let ws ← wordsAt va 4
  let w (i : Nat) : Word := ws.getD i 0
  if (vget (← me).streams n.toNat).bound.isSome then trap causeProt (zext64 n)
  match streamFrom (w 0) (w 1) (w 2) (w 3) with
  | none => trap causeProt (w 3)
  | some t => do
    modStream n.toNat fun _ => t
    pure .next) s

/-- The class of SBIND and SUNBIND, as streams record it: 1 f, 2 v. -/
def bindClass (k : BitVec 1) : Nat := if k = 0 then 1 else 2

/-- A register of class 1 or 2 takes a state. -/
def Strand.restate (x : Strand) (cls n : Nat) (st : RState) : Strand :=
  if cls = 1 then { x with f := vset x.f n { vget x.f n with st := st, owe := none } }
  else { x with v := vset x.v n { vget x.v n with st := st, owe := none } }

/-- SBIND (R246). -/
def execSbind (r : BitVec 2) (k : BitVec 1) (n : BitVec 3) (s : State) := instr (do
  let x ← me
  let t := vget x.streams n.toNat
  let cls := bindClass k
  if !t.cfg || t.bound.isSome || t.done || (x.streamOf cls r.toNat).isSome || (t.esize == 2) != (cls == 2) then
    trap causeProt (zext64 n)
  modStream n.toNat fun t => { t with bound := some (cls, r.toNat), loaded := [], failed := none }
  modMe fun x => x.restate cls r.toNat .empty
  pure .next) s

/-- SUNBIND (R249). A FULL read-bound register keeps its element. -/
def execSunbind (r : BitVec 2) (k : BitVec 1) (s : State) := instr (do
  let x ← me
  let cls := bindClass k
  match x.streamOf cls r.toNat with
  | none => pure .next
  | some i => do
    let keeps := !(vget x.streams i).wr && x.stateOf cls r.toNat == RState.full
    modStream i fun t => { t with bound := none, loaded := [], failed := none }
    if !keeps then modMe fun x => x.restate cls r.toNat .dead
    pure .next) s

/-- SSTAT (R250). -/
def execSstat (d : BitVec 5) (n : BitVec 3) (s : State) := instr (do
  let t := vget (← me).streams n.toNat
  let b (c : Bool) (i : Nat) : Nat := if c then 2 ^ i else 0
  let (cls, reg) := t.bound.getD (1, 0)
  writeG d.toNat (w64 (b (cls == 2) 40 + reg * 2 ^ 38 + b t.bound.isSome 37 + b t.wr 36 + b t.done 35 + b t.cfg 34 + t.pos.toNat))
  pure .next) s

/-! Loading elements (R247) -/

/-- The checks of the load of an element at an address (R178, R247), for the strand that is performing: its access, or what the
consuming instruction will meet. -/
def elementAccess (va : Nat) (n : Nat) : M (Except (Option (BitVec 8 × Word)) Access) := do
  let s ← get
  match (checked (w64 va) n .load).run s with
  | .ok (a, s') => do
    set s'
    pure (.ok a)
  | .error (.trap c info) => pure (.error (some (c, if c = causeProt then w64 va else info)))
  | .error _ => pure (.error none)

/-- A binding's register takes the oldest loaded element, if it is EMPTY. -/
def Strand.deliverElement (x : Strand) (i : Nat) : Strand :=
  let t := vget x.streams i
  match t.bound, t.loaded with
  | some (cls, n), e :: es =>
    let t' := { t with loaded := es }
    if cls = 1 then
      if (vget x.f n).st == .empty then
        { x with f := vset x.f n (Reg.full (e.setWidth 64)), streams := vset x.streams i t' } else x
    else if (vget x.v n).st == .empty then
      { x with v := vset x.v n (Reg.full e), streams := vset x.streams i t' } else x
  | _, _ => x

/-- The elements loaded and not consumed: those waiting, and the one in the register. -/
def Strand.ahead (x : Strand) (i : Nat) : Nat :=
  let t := vget x.streams i
  t.loaded.length + match t.bound with
    | some (cls, n) => if (if cls = 1 then (vget x.f n).st else (vget x.v n).st) == .full then 1 else 0
    | none => 0

/-- The bytes of an element at its coherence point (R247): never from the store FIFO. -/
def elementBytes (a : Access) (n : Nat) : M (Option (List Byte)) := do
  let s ← get
  match (loadHere a n).run s with
  | .error _ => do
    modify fun s => s.countUe a.pa
    pure none
  | .ok (some bs, s') => do
    set s'
    pure (some bs)
  | .ok (none, _) => do
    giveUp a
    countRemote a n
    let s ← get
    match s.readAtHome s.cur.1 s.cur.2 a n with
    | (some bs, s') => do
      set s'
      pure (some bs)
    | (none, _) => do
      modify fun s => s.countUe a.pa
      pure none

/-- Load the next element of a read stream, when one is left to load. -/
def loadElement (i : Nat) : M Unit := do
  let x ← me
  let t := vget x.streams i
  let k := t.pos.toNat + x.ahead i
  if t.wr || t.bound.isNone || t.failed.isSome || decide (t.count.toNat ≤ k) then pure ()
  else do
    let va := t.addr k
    match ← elementAccess va t.size with
    | .error e => modStream i fun t => { t with failed := some e }
    | .ok a => match ← elementBytes a t.size with
      | some bs => modStream i fun t => { t with loaded := t.loaded ++ [BitVec.ofNat 256 (leNat bs)] }
      | none => modStream i fun t => { t with failed := some (some (causeMem, w64 (a.pa / 64 * 64))) }

/-- STREAM_ELEMENT_LOAD (R247): the next element is performed, and an EMPTY register takes the oldest one not yet in it. None is loaded for
a strand that pre-emption has stopped (R251). -/
def execStreamElementLoad (core slot str : Nat) (s : State) : Host.Outcome State Fault Refusal :=
  let x := s.strand core slot
  if (s.core core).saving = false ∧ str < 8 ∧ x.st ≠ .free ∧ x.st ≠ .reserved ∧ (vget x.streams str).bound.isSome then
    match s.forStrand core slot (loadElement str) with
    | .ok s' => .next (s'.modStrand core slot fun x => x.deliverElement str)
    | .error _ => .next s
  else .next s

end Sys2Proof.Machine
end

