-- ==== Sys2Proof/Machine/Join.lean ====
section
/-! DEFINITION. Join events at their home and the join forms (R382 to R392). -/

namespace Sys2Proof.Machine

/-! Results (R381) -/

/-- The declared result an operand settles on its own, if it is absorbing (R381). -/
def absorbing (op fmt : Nat) (x : Word) : Option Nat :=
  let v := if fmt = 3 then x.toNat % 2 ^ 32 else x.toNat
  let mag := if fmt = 2 then v % 2 ^ 63 else if fmt = 3 then v % 2 ^ 31 else v
  let lowest := [0, 0x8000000000000000, 0xFFF0000000000000, 0xFF800000].getD fmt 0
  let highest := [0xFFFFFFFFFFFFFFFF, 0x7FFFFFFFFFFFFFFF, 0x7FF0000000000000, 0x7F800000].getD fmt 0
  match op with
  | 2 => if mag = 0 then some 0 else none
  | 3 => if v = 0 then some 0 else none
  | 4 => if v ≠ 0 then some 1 else none
  | 5 => if v = lowest then some lowest else none
  | 6 => if v = highest then some highest else none
  | _ => none

/-- One step of the fold of two operand patterns (R381). -/
def foldStep (op fmt a b : Nat) : Nat :=
  let f := if fmt = 2 then fmtD else fmtS
  let less := if fmt = 1 then decide (intOf 64 true b < intOf 64 true a) else decide (b < a)
  match op with
  | 1 => if fmt ≤ 1 then (a + b) % 2 ^ 64 else f.rne (addVal 0 (f.decode a) (f.decode b)).1
  | 2 => if fmt ≤ 1 then a * b % 2 ^ 64 else f.rne (mulVal (f.decode a) (f.decode b)).1
  | 5 => if fmt ≤ 1 then (if less then b else a) else (minmaxCode f false a b).1
  | _ => if fmt ≤ 1 then (if less then a else b) else (minmaxCode f true a b).1

/-- The fold of the operands in ascending index (R381). A float fold that makes a NaN, of a single operand too, makes the default one (R283). -/
def Join.fold (j : Join) : Nat :=
  let vs := (List.range j.arity).map fun i => let x := (j.v.getD i 0).toNat; if j.fmt = 3 then x % 2 ^ 32 else x
  match j.op with
  | 0 => 0
  | 3 => if vs.all (· != 0) then 1 else 0
  | 4 => if vs.any (· != 0) then 1 else 0
  | op =>
    let r := vs.tail.foldl (foldStep op j.fmt) (vs.headD 0)
    if j.fmt ≤ 1 then r else (if j.fmt = 2 then fmtD else fmtS).plainNan r

/-! Withdrawal, firing, recycling -/

/-- The launch of the strand that a slot and generation name, at a core or saved with its launch (R224, R389). -/
def State.launchNamed (s : State) (c l : Nat) (gen : BitVec 8) : BitVec 24 :=
  let x := s.strand c l
  if x.gen == gen && x.st != .free && x.st != .reserved then x.launch
  else match s.launches.find? fun q => match tget q.2.cores c with
      | some k => (vget k.slots l).gen == gen && (vget k.slots l).st != .free
      | none => false with
    | some q => q.2.key
    | none => x.launch

/-- Withdraw operand i of a record whose WMASK bit is set (R389). -/
def State.withdrawOperand (s : State) (pa i : Nat) (j : Join) : State :=
  let who := j.who i
  match j.kind i with
  | 2 => { s with notices := s.notices ++ [⟨bits who 22 12, bits who 11 8, BitVec.ofNat 8 who, pa, BitVec.ofNat 2 i,
      s.launchNamed (bits who 22 12) (bits who 11 8) (BitVec.ofNat 8 who)⟩] }
  | 3 => s.withdrawOp (bits who 22 12) (BitVec.ofNat 12 who)
  | _ => s

/-- Withdraw every operand of WMASK. -/
def State.withdrawAll (s : State) (pa : Nat) (j : Join) : State :=
  (List.range 4).foldl (fun s i => if j.wmask.testBit i then s.withdrawOperand pa i j else s) s

/-- The record with STATE replaced and WMASK naming its absent operands. -/
def Join.close (j : Join) (st : Nat) : Join :=
  { j with ctl := setBits (setBits j.ctl 43 42 st) 55 52 (2 ^ j.arity - 1 - j.pmask % 2 ^ j.arity) }

/-- A join fires with result `r` (R388). DESIGN CHOICE (log 79): the record is pushed whatever bits [1:0] of its CPC hold. -/
def State.fire (s : State) (pa : Nat) (j : Join) (r : Nat) : State :=
  let c := (s.joinHome pa).getD 0
  let j' := j.close 2
  let t : TaskRec := ⟨j.cpc, [w64 r, joinWord j pa, w64 j.pmask, 0], pa, BitVec.ofNat 4 j.pmask, true, false, 0,
    (s.core c).launch.getD 0⟩
  ((s.putJoin pa j').pushFrom c t).withdrawAll pa j'

/-- After an event that settles a producer or sets RELEASE: recycle the record when nothing more is owed (R392). -/
def State.recycleAt (s : State) (pa : Nat) : State :=
  match s.getJoin pa with
  | none => s
  | some j => if j.recycle.2 then s.putJoin pa j.recycle.1 else s

/-! The events of the forms -/

/-- JNEW (R385). -/
def State.joinNew (s : State) (pa : Nat) (j : Join) (cfg pc : Word) : Word × State :=
  if j.state ≠ 0 then (BitVec.allOnes 64, s)
  else
    let arity := wbits cfg 7 6
    let ctl := j.gen * 2 ^ 56 + 2 ^ 42 + wbits cfg 8 8 * 2 ^ 40 + arity * 2 ^ 38 + wbits cfg 5 4 * 2 ^ 36 + wbits cfg 3 0 * 2 ^ 32
    (joinWord j pa, s.putJoin pa ⟨ctl, List.replicate 4 0, pc, List.replicate 4 0⟩)

/-- JREG (R386). -/
def State.joinReg (s : State) (pa : Nat) (j : Join) (i kind : Nat) (who : Nat) : Word × State :=
  let (c, l) := (bits who 22 12, bits who 11 8)
  let x := s.strand c l
  let absent := match x.st with
    | .free | .reserved => true
    | _ => x.gen != BitVec.ofNat 8 who
  if j.pmask.testBit i || j.unsettled i then (BitVec.allOnes 64 - 1, s)
  else if kind = 2 && absent then (BitVec.allOnes 64 - 4, s)
  else if kind = 2 && decide (4 ≤ x.prods.length) then (BitVec.allOnes 64 - 3, s)
  else
    let live := kind != 3 || ((s.core c).op (BitVec.ofNat 12 who)).isSome
    let j := { j with pw := j.pw.set i (if live then kind * 2 ^ 29 + (if kind = 1 then 0 else who) else 4 * 2 ^ 29) }
    let s := s.putJoin pa j
    let s := if kind = 2 then s.modStrand c l fun x => { x with prods := if x.prods.contains pa then x.prods else x.prods ++ [pa] }
      else if kind = 3 then s.modOp c (BitVec.ofNat 12 who) fun o => { o with joins := o.joins ++ [pa] } else s
    let s := if j.wmask.testBit i then s.withdrawOperand pa i j else s
    (w64 (pa % 2 ^ 57 + 4 + i), s.recycleAt pa)

/-- JVAL from the strand `who` (R387). -/
def State.joinVal (s : State) (pa : Nat) (j : Join) (i : Nat) (x : Word) (who : Nat) : Word × State :=
  let (j, s) := if j.kind i = 2 && j.who i = who then s.settleProducer pa i j else (j, s)
  if 2 ≤ j.state then (2, (s.putJoin pa j).recycleAt pa)
  else if j.pmask.testBit i then (4, (s.putJoin pa j).recycleAt pa)
  else
    let j := { j with v := j.v.set i x, ctl := setBits j.ctl 47 44 (j.pmask ||| 2 ^ i) }
    let full := if j.pmask = 2 ^ j.arity - 1 then some j.fold else none
    match (if j.abs then absorbing j.op j.fmt x else none).or full with
    | some r => (1, (s.fire pa j r).recycleAt pa)
    | none => (0, (s.putJoin pa j).recycleAt pa)

/-- JDROP (R392). -/
def State.joinDrop (s : State) (pa : Nat) (j : Join) (i : Nat) : Word × State :=
  if !j.unsettled i then (5, s)
  else
    let (j, s) := s.settleProducer pa i j
    (0, (s.putJoin pa j).recycleAt pa)

/-- WCHK (R392). No code is given for an absent operand of a closed join whose WMASK bit a store has cleared (log 17). -/
def State.joinChk (s : State) (j : Join) (i : Nat) : Word × State :=
  if j.pmask.testBit i then (4, s)
  else if j.wmask.testBit i then (1, s)
  else if j.state = 1 then (0, s)
  else (w64 s.free.1, s.free.2)

/-- JFREE (R392). -/
def State.joinFree (s : State) (pa : Nat) (j : Join) : Word × State :=
  let was := j.state
  let j := if was = 1 then j.close 3 else j
  let j := { j with ctl := setBits j.ctl 41 41 1 }
  let s := s.putJoin pa j
  let s := (if was = 1 then s.withdrawAll pa j else s).recycleAt pa
  (match s.getJoin pa with
    | some j' => if j'.gen = j.gen then 1 else 0
    | none => 1, s)

/-- A strand that has quit settles each word that records it (R389). -/
def State.joinQuit (s : State) (pa : Nat) (j : Join) (who : Nat) : State :=
  let js := (List.range 4).foldl (fun (p : Join × State) i =>
    if p.1.kind i = 2 && p.1.who i = who then p.2.settleProducer pa i p.1 else p) (j, s)
  if js.1.pw = j.pw then s else (js.2.putJoin pa js.1).recycleAt pa

/-- A strand that has leapt is recorded at its new place, and told at once when its operand is withdrawn already (R391). -/
def State.joinRereg (s : State) (pa : Nat) (j : Join) (old new : Nat) : State :=
  let is := (List.range 4).filter fun i => j.kind i == 2 && j.who i == old
  if is.isEmpty then s.unlist new pa
  else
    let j := { j with pw := is.foldl (fun pw i => pw.set i (2 * 2 ^ 29 + new)) j.pw }
    is.foldl (fun s i => if j.wmask.testBit i then s.withdrawOperand pa i j else s) (s.putJoin pa j)

/-- A join event at its home (R382), with the checks of R384. -/
def State.joinAct (s : State) (q : JoinReq) : Except Stop (Word × State) :=
  let s := match s.joinHome q.pa with | some h => s.applyDue h | none => s
  match s.getJoin q.pa with
  | none => .error (.trap causeMem (w64 q.pa))
  | some j =>
    let stale := j.gen != wbits q.word 63 56 || j.state == 0
    let who := whoStrand q.core q.slot q.gen
    let named (n : Nat) (i : Nat) (act : Word × State) : Except Stop (Word × State) :=
      if j.malformed then .error (.trap causeProt q.word)
      else if stale then .ok (w64 n, s)
      else if j.arity ≤ i then .error (.trap causeProt q.word)
      else .ok act
    match q.form with
    | .new cfg pc => if j.malformed then .error (.trap causeProt (joinWord j q.pa)) else .ok (s.joinNew q.pa j cfg pc)
    | .reg i kind w => named 0xFFFFFFFFFFFFFFFD i (s.joinReg q.pa j i kind w.toNat)
    | .val i x => named 3 i (s.joinVal q.pa j i x who)
    | .drop i => named 3 i (s.joinDrop q.pa j i)
    | .chk i => named 3 i (s.joinChk j i)
    | .free => named 3 0 (s.joinFree q.pa j)
    | .settle c l g => .ok (0, s.joinQuit q.pa j (whoStrand c l g))
    | .rereg old new => .ok (0, s.joinRereg q.pa j old new)
    | .done who => .ok (0, s.joinDone q.pa who)

/-! The forms -/

/-- Perform a join event at the issuer's own core, or carry it to the home (R382). -/
def joinGo (d : BitVec 5) (pa : Nat) (word : Word) (form : JoinForm) : M After := do
  tryDest (.g d.toNat 8 false)
  let s ← get
  let (c, l) := s.cur
  let q : JoinReq := ⟨c, l, (← me).gen, d.toNat, word, pa, form, true, (← me).launch⟩
  if s.joinHome pa = some c then
    match s.joinAct q with
    | .error e => throw e
    | .ok (w, s') => do
      set s'
      writeG d.toNat w
      pure .next
  else do
    let _ ← holdDest (.g d.toNat 8 false)
    modify fun s => { s with joins := s.joins ++ [q] }
    pure (.wait .answer)

/-- The record a join word names (R379). -/
def joinNamed (w : Word) : M Nat := do
  if wbits w 55 30 ≠ 0 || wbits w 5 0 ≠ 0 then trap causeProt w
  pure (joinPa (← get).devid w)

/-- JNEW (R385). -/
def execJnew (d a b c : BitVec 5) (s : State) := instr (do
  let (va, cfg, pc) ← three readG a.toNat b.toNat c.toNat
  if va.toNat % 64 ≠ 0 then trap causeMisalign va
  let (x, bad) ← translate va .store
  let s ← get
  let mine := match s.joinHome x.pa with
    | some h => (match s.launchOf s.cur.1 with | some q => q.holds h | none => false)
    | none => false
  if bad || !mine then trap causeProt va
  if wbits cfg 63 9 ≠ 0 || !joinConfigOk (wbits cfg 3 0) (wbits cfg 5 4) (wbit cfg 8) then trap causeProt cfg
  if pc.toNat % 4 ≠ 0 then trap causeMisalign pc
  joinGo d x.pa 0 (.new cfg pc)) s

/-- JREG (R386). c names a register only for KIND 3 (log 18). -/
def execJreg (d a b c : BitVec 5) (s : State) := instr (do
  let (w, p) ← two readG a.toNat b.toNat
  let kind := wbits p 38 36
  let sid := wbits p 33 0
  if kind ≠ 3 && c ≠ 0 then illop (.jreg d a b c)
  let pa ← joinNamed w
  let s ← get
  if wbits p 63 39 ≠ 0 || kind = 0 || decide (3 < kind) || (kind ≠ 2 && sid ≠ 0) || (kind = 2 && sid / 2 ^ 23 ≠ s.devid.toNat) then
    trap causeProt p
  let i := wbits p 35 34
  match kind with
  | 3 => match (← me).stateOf 0 c.toNat with
    | .pending t false => joinGo d pa w (.reg i 3 (BitVec.ofNat 23 (s.cur.1 * 2 ^ 12 + t.toNat)))
    | _ => trap causeProt (zext64 c)
  | _ => joinGo d pa w (.reg i kind (BitVec.ofNat 23 sid))) s

/-- JVAL (R382, R387): a release at the scope that contains the issuer and the home comes first. -/
def execJval (d a b : BitVec 5) (i : BitVec 2) (s : State) := instr (do
  let (w, x) ← two readG a.toNat b.toNat
  let pa ← joinNamed w
  let s ← get
  releaseKept (scopeOf s.cur.1 ((s.joinHome pa).getD s.cur.1))
  joinGo d pa w (.val i.toNat x)) s

/-- JDROP (R392). -/
def execJdrop (d a : BitVec 5) (i : BitVec 2) (s : State) := instr (do
  let w ← readG a.toNat
  joinGo d (← joinNamed w) w (.drop i.toNat)) s

/-- WCHK (R392). -/
def execWchk (d a : BitVec 5) (i : BitVec 2) (s : State) := instr (do
  let w ← readG a.toNat
  joinGo d (← joinNamed w) w (.chk i.toNat)) s

/-- JFREE (R392). -/
def execJfree (d a : BitVec 5) (s : State) := instr (do
  let w ← readG a.toNat
  joinGo d (← joinNamed w) w .free) s

/-! Answers -/

/-- Whether a strand of a generation awaits an answer. -/
def State.awaits (s : State) (c l : Nat) (gen : BitVec 8) : Bool :=
  (s.strand c l).gen == gen && (s.strand c l).st == .parked .answer

/-- An answer reaches its strand: d is written and the instruction retires, or it traps. None when a queue port has no room yet. -/
def State.answerTo (s : State) (c l : Nat) (gen : BitVec 8) (d : Nat) (r : Except Stop Word) : Option State :=
  if !s.awaits c l gen then some s
  else match r with
    | .error e => some { ({ s with cur := (c, l) } : State).stopped e with cur := s.cur }
    | .ok w => match s.forStrand c l (writeG d w) with
      | .ok s' => some (s'.retireNext c l)
      | .error _ => none

/-- Whether a join event waits for its home, saved with its launch, to resume (R404). -/
def State.joinHeld (s : State) (q : JoinReq) : Bool :=
  match s.joinHome q.pa, tget s.launches q.key.toNat with
  | some h, some l => l.holds h && (s.core h).launch != some q.key && (l.st == .saving || l.st == .saved)
  | _, _ => false

/-- Whether a join event that no strand awaits is left over from a launch that has ended. -/
def State.joinStale (s : State) (q : JoinReq) : Bool := !q.await_ && (tget s.launches q.key.toNat).isNone

/-- JOIN_EVENT (R382): a carried form is performed at the join's home and answered. -/
def execJoinEvent (idx : Nat) (s : State) : Host.Outcome State Fault Refusal :=
  match s.joins[idx]? with
  | none => .next s
  | some q =>
    let s' : State := { s with joins := s.joins.eraseIdx idx }
    if s.joinStale q then .next s'
    else if s.joinHeld q then .next s
    else match q.form with
    | .rereg _ _ => .next s
    | _ => match s'.joinAct q with
      | .error e => .next (if q.await_ then (s'.answerTo q.core q.slot q.gen q.d (.error e)).getD s else s')
      | .ok (w, s'') => .next (if q.await_ then (s''.answerTo q.core q.slot q.gen q.d (.ok w)).getD s else s'')

/-- JOIN_REREGISTRATION (R391): one join of a strand that has leapt is told its new place. -/
def execJoinReregistration (core slot : Nat) (s : State) : Host.Outcome State Fault Refusal :=
  let new := whoStrand core slot (s.strand core slot).gen
  let mine (q : JoinReq) : Bool := match q.form with | .rereg _ n => n == new && !s.joinHeld q | _ => false
  match s.joins.findIdx? mine with
  | none => .next s
  | some i =>
    match s.joins[i]? with
    | none => .next s
    | some q =>
      let s' := { s with joins := s.joins.eraseIdx i }
      let s' := match s'.joinAct q with | .ok r => r.2 | .error _ => s'
      .next (s'.modStrand core slot fun x => { x with rereg := x.rereg - 1 })

end Sys2Proof.Machine
end

