-- ==== Sys2Proof/Machine/Timing.lean ====
section
/-! DEFINITION. Timed stores at their homes and their verdicts, timed loads, sleeping, and the discipline of the time units
(R138 to R152). -/

namespace Sys2Proof.Machine

/-! Verdicts on timed stores (R146, R149, R419) -/

/-- A timed store arrives at its home, on this device or another (R145, R146). -/
def State.arriveTimed (s : State) (p : Place) (e : CalEntry) : State :=
  let s := s.settle p
  if e.t.toNat ≤ s.clock p then s.judgeLate p e
  else (s.setCal p { s.calOf p with wait := (s.calOf p).wait ++ [e] }).letIn p

/-- TIMED_STORE_ARRIVAL (R106, R146, R419). One that waits at its home already is judged again. -/
def execTimedStoreArrival (core slot : Nat) (s : State) : Host.Outcome State Fault Refusal :=
  let x := s.strand core slot
  match x.fifo with
  | [] => .next s
  | e :: _ => match e.timed with
    | none => .next s
    | some t =>
      let q : CalEntry := ⟨t, e.acc, e.va, e.ctx, e.data, e.pol, core, slot, x.gen⟩
      if !e.sent || e.late.isSome || s.heldBack e.acc || s.trails core slot e.acc e.data.length then .next s
      else if s.refused e.acc.pa || s.gone e.acc.pa || e.acc.place == .control then
        .next ((s.weedWait e.acc.place).setVerdict core slot x.gen false)
      else if (s.calOf e.acc.place).wait.contains q then .next ((s.settle e.acc.place).letIn e.acc.place)
      else .next (s.arriveTimed e.acc.place q)

/-- The strand's record of a late store (R149, R150). -/
def Strand.noteLate (x : Strand) (e : FifoEntry) (t : Word) : Strand :=
  let n := wbits x.late 6 1
  let n' := if e.pol then min 63 (n + 1) else n
  { x with
    late := w64 (e.va % 2 ^ 57 * 2 ^ 7 + n' * 2 + x.late.toNat % 2)
    report := if e.pol then x.report else x.report.or (some t) }

/-- VERDICT_RETURN (R150, R151): the verdict reaches the issuing core, and the drain has finished. -/
def execVerdictReturn (core slot : Nat) (s : State) : Host.Outcome State Fault Refusal :=
  let x := s.strand core slot
  match x.fifo with
  | [] => .next s
  | e :: es => match e.timed, e.late with
    | some t, some late =>
      let s := s.modStrand core slot fun x => { x with fifo := es }
      if !late then .next s
      else if x.st = .free then
        .next (if e.pol then s else s.modDie (dieOf core) fun d => { d with drop := d.drop + 1 })
      else .next (s.modStrand core slot fun x => x.noteLate e t)
    | _, _ => .next s

/-! Timed loads (R148) -/

/-- A timed load's value reaches its strand. -/
def State.landLoad (s : State) (c l : Nat) (a : Access) (d : Dest) (r : Option (List Byte)) : Option State :=
  match s.accessStop a a.pa with
  | some e => some (s.stopAt c l e)
  | none => match r with
    | none => some (s.stopAt c l (.trap causeMem (w64 (a.pa / 64 * 64))))
    | some bs => s.deliver c l d bs none

/-- Whether a waiting timed load is a strand's. -/
def LoadWait.of (w : LoadWait) (c l : Nat) : Bool := w.core == c && w.slot == l

/-- A timed load arrives at its home, on this device or another (R145, R148): it waits until the home's clock has reached its time, or is
performed. -/
def State.timedLoad (s : State) (c l : Nat) (a : Access) (n : Nat) (t : Word) (d : Dest) : State :=
  let p := a.place
  if s.clock p < t.toNat then
    (s.setCal p { s.calOf p with
      loads := ((s.calOf p).loads.filter fun w => !w.of c l) ++ [⟨a, n, t, c, l, (s.strand c l).gen, none⟩]
      }).parkStrand c l (.timedLoad (.timedRead a n t d true))
  else
    let (r, s) := s.readAtHome c l a n
    ((s.dropClean (dieOf c) a.pa).landLoad c l a d r).getD s

/-- A timed load that waited at a home and has been performed answers its strand, if that still waits for it. -/
def State.waitedLoad (s : State) (p : Place) (c l : Nat) : State :=
  match (s.calOf p).loads.find? fun w => w.of c l with
  | none => s
  | some w => match w.got with
    | none => s
    | some r =>
      let gone := s.setCal p { s.calOf p with loads := (s.calOf p).loads.filter fun w => !w.of c l }
      match (s.strand c l).st with
      | .parked (.timedLoad (.timedRead a _ _ d true)) =>
        if (s.strand c l).gen == w.gen && a.place == p then (gone.landLoad c l a d r).getD s else gone
      | _ => gone

/-- A strand's timed load that is not performed yet is withdrawn from its home (R153, R420). -/
def State.withdrawLoad (s : State) (c l : Nat) : State :=
  match (s.strand c l).st with
  | .parked (.timedLoad (.timedRead a _ _ _ true)) =>
    let p := a.place
    s.setCal p { s.calOf p with loads := (s.calOf p).loads.filter fun w => !w.of c l }
  | _ => s

/-- Whether a strand's timed load has been performed at its home, or is due there now (R148), and its value is on the way (R153, R420). -/
def State.loadGot (s : State) (c l : Nat) : Bool :=
  match (s.strand c l).st with
  | .parked (.timedLoad (.timedRead a _ _ _ true)) =>
    (s.calOf a.place).loads.any fun w => w.of c l && (w.got.isSome || decide (w.t.toNat ≤ s.clock a.place))
  | _ => false

/-- TIMED_LOAD_ARRIVAL (R106, R148). -/
def execTimedLoadArrival (core slot : Nat) (s : State) : Host.Outcome State Fault Refusal :=
  match (s.strand core slot).st with
  | .parked (.timedLoad (.timedRead a n t d arrived)) =>
    if !arrived then (if s.heldBack a || s.trails core slot a n then .next s else .next (s.timedLoad core slot a n t d))
    else .next ((s.settle a.place).waitedLoad a.place core slot)
  | _ => .next s

/-- CALENDAR_APPLY (R147, R148): a home reaches a time; its entries come before its waiting timed loads of that time. -/
def execCalendarApply (core : Nat) (s : State) : Host.Outcome State Fault Refusal :=
  let s := s.settle (.core core)
  .next ((s.core core).loads.foldl (fun s w => s.waitedLoad (.core core) w.core w.slot) s)

/-! Sleep (R152) -/

/-- TSLEEP_WAKE (R152). -/
def execTsleepWake (core slot : Nat) (s : State) : Host.Outcome State Fault Refusal :=
  match (s.strand core slot).st with
  | .parked (.sleep t) => if t.toNat ≤ s.atime (dieOf core) then .next (s.retireNext core slot) else .next s
  | _ => .next s

/-! Discipline (R138 to R143) -/

/-- The most a die's time unit can be slewed within one exchange interval of 100 microseconds, in ns (R138). -/
def slewLimit : Int := 10

/-- The bound of R142 in ns, in a domain or not. -/
def lockBound (inDom : Bool) : Int := if inDom then 20 else 2

/-- Whether a time unit lies within 2 ns of the package reference, as a LOCKED one does (R142). -/
def Die.near (x : Die) (ref : Nat) : Bool := decide (((x.tu : Int) - ref).natAbs ≤ 20000)

/-- A LOCKED unit enters HOLDOVER (R141); it has no result of an exchange to slew towards until the next succeeds. -/
def Die.holdover (x : Die) : Die := { x with lock := .holdover, holdAt := x.tu, holdDom := x.dom, dom := false, aim := 0 }

/-- A failed exchange (R141). -/
def Die.failExchange (x : Die) : Die :=
  let x := { x with good := 0, bad := min 4 (x.bad + 1) }
  if x.lock == .locked && decide (4 ≤ x.bad) then x.holdover else x

/-- A successful exchange that measures an offset of the unit from its reference, in ns; the unit slews towards the result (R141). DEDUCED
(log 23): OFFS is positive where the unit is ahead, and the eight consecutive successes may begin before the unit was sent FREE. -/
def Die.goodExchange (x : Die) (ref : Nat) (inDom : Bool) (off : Int) : Die :=
  let x := { x with good := min 8 (x.good + 1), bad := 0, offs := max (-32767) (min 32767 off), aim := -off * 10000 }
  if slewLimit < off ∨ off < -slewLimit then { x with lock := .free, dom := false }
  else if x.lock ≠ .locked ∧ 8 ≤ x.good ∧ -lockBound inDom ≤ off ∧ off ≤ lockBound inDom ∧ x.near ref then
    { x with lock := .locked, dom := inDom }
  else x

/-- Whether the package reference is one to lock to: the device's own, or locked to the grandmaster (R139, R141, R143). -/
def State.anchored (s : State) : Bool := !s.inDom || s.gm || (s.gmTaken && s.held == 0 && s.gmLock)

/-- The most the package reference can be slewed within one exchange interval of 1 ms over the links, in ns (R138). -/
def linkLimit : Nat := 100

/-- A LOCKED unit becomes FREE (R141). -/
def Die.unlocked (x : Die) : Die := if x.lock == .locked then { x with lock := .free, dom := false } else x

/-- An exchange of the service die with the grandmaster over the links. DESIGN CHOICE (log 69): it is judged as R141 judges a die's, by the
18 ns of R142, and the package reference slews towards its result; when its lock is lost, the dies LOCKED through it are in HOLDOVER, or FREE
where the offset is greater than slewing can remove within one interval. -/
def State.linkExchange (s : State) (off : Int) (ok : Bool) : State :=
  if !s.inDom || s.gm then s
  else if ok then
    let s := { s with gmGood := min 8 (s.gmGood + 1), gmBad := 0, refAim := -off * 10000 }
    if linkLimit < off.natAbs then { s with gmLock := false, dies := s.dies.map Die.unlocked }
    else if 8 ≤ s.gmGood ∧ off.natAbs ≤ 18 ∧ s.gmTaken ∧ s.held = 0 then { s with gmLock := true } else s
  else
    let s := { s with gmGood := 0, gmBad := min 4 (s.gmBad + 1) }
    if s.gmLock && decide (4 ≤ s.gmBad) then
      { s with gmLock := false, dies := s.dies.map fun (x : Die) => if x.lock == .locked then x.holdover else x }
    else s

/-- TIME_EXCHANGE (R141): of the service die with one of its dies, or, as die 4, with the grandmaster. A die of a device in a domain locks only
through a service die that is locked to the grandmaster. -/
def execTimeExchange (die : Nat) (off : Int) (ok : Bool) (s : State) : Host.Outcome State Fault Refusal :=
  if die = 4 then .next (s.linkExchange off ok)
  else
    let s := s.modDie die fun x =>
      let x' := if ok then x.goodExchange s.ref s.inDom off else x.failExchange
      if x'.lock == .locked && x.lock != .locked && !s.anchored then { x' with lock := x.lock, dom := x.dom } else x'
    .next { s with ready := s.ready || s.dies.all fun (x : Die) => x.lock == .locked }

/-- Whether any launch is running. -/
def State.running (s : State) : Bool := s.launches.any fun p => p.2.st == .running || p.2.st == .saving

/-- DOMAIN_JOIN (R143): before its first launch in the domain, a device takes the grandmaster's time, once: by a forward step, or by holding
until that time has passed its own. DESIGN CHOICE (log 69): it stands for the exchanges over the links that lock the service die. -/
def execDomainJoin (gmt : Nat) (s : State) : Host.Outcome State Fault Refusal :=
  if s.running || !s.inDom || s.gm || s.gmTaken then .next s
  else
    let g := gmt * 10000
    if s.ref ≤ g then
      let d := g - s.ref
      .next { s with
        ref := g, held := 0, gmTaken := true, gmLock := true, refAim := 0, dies := s.dies.map fun (x : Die) => { x with tu := x.tu + d } }
    else .next { s with held := s.ref - g, gmTaken := true, gmLock := true, refAim := 0 }

end Sys2Proof.Machine
end

