-- ==== Sys2Proof/Machine/Work.lean ====
section
/-! DEFINITION. Launches starting and ending, dispatch, stealing, deliveries to strands, and boundary traps (R124, R159 to R169,
R222 to R235, R389 to R399, R410). -/

namespace Sys2Proof.Machine

/-! Completion records (R410, R411) -/

/-- Whether a release by the device can finish: far stores to other devices wait for a reroute (R415). -/
def State.mayRelease (s : State) : Bool :=
  !s.reroute || !s.posted.any fun p => match p.op with | .store e => (match e.acc.place with | .device _ _ => true | _ => false) | _ => false

/-- Whether an access at a host-side address waits for a reroute (R409, R415). -/
def State.hostWaits (s : State) (addr : Word) : Bool := !wbit addr 63 && s.farWaits (wbits addr 56 0)

/-- A release at system scope by the device itself: the far stores on their way are performed, then every dirty line of every die goes to its
home, and every dirty CXL byte to the CXL device (R119, R410). -/
def State.releaseAll (s : State) : State :=
  let far := s.posted.filter Posted.isStore
  let s := far.foldl State.landStore { s with posted := s.posted.filter fun p => !p.isStore }
  ((List.range 4).foldl State.rdcFlushAll s).flushCxl

/-- Write bytes at a host-side address: bit 63 names host memory (R409). -/
def State.hostPut (s : State) (addr : Word) (bs : List Byte) : State :=
  let a := wbits addr 56 0
  if wbit addr 63 then { s with hostMem := mwrite s.hostMem a bs } else s.writeSpan a bs

/-- A command queue. -/
def State.queue (s : State) (q : Nat) : Queue := (tget s.queues q).getD Queue.reset

/-- Change a queue. -/
def State.modQueue (s : State) (q : Nat) (f : Queue → Queue) : State := { s with queues := tset s.queues q (f (s.queue q)) }

/-- Entries of a queue's rings (R409). -/
def Queue.entries (x : Queue) : Nat := 2 ^ wbits x.cfg 4 0

/-- Whether a completion record can be written for a queue: the release before it can finish, and its ring can be reached (R415). -/
def State.mayRecord (s : State) (q : Nat) : Bool := s.mayRelease && !s.hostWaits (s.queue q).comp

/-- Write the completion record of packet `i` of a queue (R410, R411). -/
def State.record (s : State) (q i : Nat) (status code lid gen nabort : Nat) (rest : List Word) : State :=
  let x := s.queue q
  let w := status + code * 2 ^ 8 + lid * 2 ^ 16 + gen * 2 ^ 32 + nabort % 2 ^ 24 * 2 ^ 40
  s.releaseAll.hostPut (x.comp + w64 (32 * (i % x.entries)))
    (natLe w 8 ++ (List.range 3).flatMap fun k => natLe (rest.getD k 0).toNat 8)

/-! Launches (R159, R163, R169) -/

/-- Whether two launches want a core in common. -/
def Launch.meets (p q : Launch) : Bool := decide (p.first < q.first + 2 ^ q.logn ∧ q.first < p.first + 2 ^ p.logn)

/-- Whether another launch that waits for cores goes first: higher priority, or equal priority and taken earlier (R169, R410). -/
def State.outranked (s : State) (q : Launch) : Bool :=
  s.launches.any fun p => p.2.key != q.key && p.2.meets q && (p.2.st == .waiting || p.2.st == .saved) && p.2.abort.isNone
    && (decide (q.prio < p.2.prio) || (p.2.prio == q.prio && decide (p.2.order < q.order)))

/-- Whether a launch may take its cores now: none is held, and no store of an earlier launch is still in their FIFOs (R143, R150, R169). -/
def State.canTake (s : State) (q : Launch) : Bool :=
  q.abort.isNone && s.ready && s.held == 0 && (!s.inDom || s.gm || s.gmTaken) && !s.linksDown && !s.outranked q
    && q.cores_.all fun c => (s.core c).launch.isNone && (s.core c).slots.toList.all Strand.open_

/-- A core that a launch takes: its cycle count starts again (R158), its fetch buffer is empty (R98), its k registers are zero (R218). -/
def Core.take (k : Core) (key : BitVec 24) (hist : Nat) : Core :=
  { k with launch := some key, saving := false, cyc := 0, thief := .idle, fetchBuf := [], histAt := hist, k := Vector.replicate 16 0 }

/-- Start a launch strand in every masked slot of a core (R159). Its creator is the host: the acquire is at system scope (log 19). -/
def State.startCore (s : State) (q : Launch) (c : Nat) : State :=
  let s := s.modCore c fun k => k.take q.key s.clean.hist.length
  (List.range 16).foldl (fun s l => if q.slots.getLsbD l then s.startStrand c l q.entry [] 5 else s) s

/-- A LAUNCH packet is taken: its queue goes on (R410). -/
def State.taken_ (s : State) (q : Launch) : State :=
  s.modQueue q.q fun x => { x with busy := none, head := (x.head + 1) % 2 ^ 17, open_ := x.open_ ++ [q.pkt] }

/-- LAUNCH_START (R159, R139, R169). -/
def execLaunchStart (key : Nat) (s : State) : Host.Outcome State Fault Refusal :=
  match tget s.launches key with
  | none => .next s
  | some q =>
    if q.st == .waiting && s.canTake q then
      let s := (s.modLaunch q.key fun l => { l with st := .running }).taken_ q
      .next (q.cores_.foldl (fun s c => s.startCore q c) s)
    else .next s

/-- Whether a core has nothing of a launch left but engine operations: no strand, no record in its deque, its hamper or a thief's hands, no
message. -/
def Core.quiet (k : Core) : Bool :=
  (match k.thief with | .got _ (some _) => false | _ => true) && k.slots.toList.all (fun x => x.st == .free) && k.deque.isEmpty && k.hamper == 0 && k.msgs.isEmpty

/-- Whether every engine operation of a launch has completed. -/
def State.opsDone (s : State) (q : Launch) : Bool := s.cores.all fun p => p.2.ops.all fun o => o.key != q.key

/-- Whether a launch has ended (R163), or has aborted and its engines have finished (R399), with what its strands and operations still had to
settle at joins settled (R389, R391). DESIGN CHOICE (log 85): a push of an armed watchpoint that is in flight is not waited for. -/
def State.ended (s : State) (q : Launch) : Bool :=
  s.opsDone q && !(s.joins.any fun j => j.key == q.key && !j.await_) && (q.abort.isSome || (q.st == .running && q.cores_.all (fun c => (s.core c).quiet)
    && !(s.posted.any fun p => p.key == q.key && match p.op with | .msg _ _ _ | .push _ _ _ => true | _ => false)
    && !(s.pushes.any fun p => p.r.key == q.key && p.wp.isNone)))

/-- Everything a launch owns is given up. -/
def State.dropLaunch (s : State) (q : Launch) : State :=
  { s with
    launches := tdel s.launches q.key.toNat
    cores := s.cores.map fun (p : Nat × Core) =>
      if p.2.launch == some q.key then (p.1, { p.2 with launch := none, saving := false, pipes := [], thief := .idle }) else p
    dies := s.dies.map fun (d : Die) => { d with
      bars := d.bars.filter fun b => b.2.owner != q.key
      wps := d.wps.filter fun w => w.2.owner != q.key } }

/-- The record of a launch that has ended (R399, R411). -/
def State.launchRecord (s : State) (q : Launch) : State :=
  match q.abort with
  | some (c, epc, info, sid) => s.record q.q q.pkt 1 (c.toNat % 256) q.lid.toNat q.gen.toNat q.nabort [epc, info, sid]
  | none =>
    let err := match tget s.launches q.key.toNat with | some l => l.err | none => false
    s.record q.q q.pkt (if err then 3 else 0) 0 q.lid.toNat q.gen.toNat 0 []

/-- LAUNCH_END (R163, R399, R410). -/
def execLaunchEnd (key : Nat) (s : State) : Host.Outcome State Fault Refusal :=
  match tget s.launches key with
  | none => .next s
  | some q =>
    if !s.ended q || !s.mayRecord q.q || (q.abort.isNone && s.orderedHeld q.key) then .next s
    else
      let s : State := { s with dies := s.dies.map fun (d : Die) => { d with wps := d.wps.filter fun w => w.2.owner != q.key } }
      let s := if q.abort.isSome then s else s.applyOrdered q.key
      let s := s.launchRecord q
      .next ((s.dropLaunch q).modQueue q.q fun x => { x with open_ := x.open_.filter (· != q.pkt) })

/-! Dispatch and messages (R164, R167) -/

/-- Whether a core's dispatcher works: its launch runs and is not being saved. -/
def Core.works (k : Core) : Bool := k.launch.isSome && !k.saving

/-- Whether a message waits in a core's buffer. -/
def Core.hasMsg (k : Core) : Bool := k.msgs.any fun m => match m with | .msg _ _ => true | _ => false

/-- DISPATCH_POP (R164). -/
def execDispatchPop (core : Nat) (s : State) : Host.Outcome State Fault Refusal :=
  let k := s.core core
  if k.works && k.freeSlot.isSome && !k.hasMsg then
    match s.popRec core with
    | some (r, s') => .next (s'.dispatch core r)
    | none => .next s
  else .next s

/-- MESSAGE_START (R125, R163, R167): the oldest message starts a strand, or is discarded when its launch does not run here. -/
def execMessageStart (core : Nat) (s : State) : Host.Outcome State Fault Refusal :=
  let k := s.core core
  match k.msgs.findIdx? fun m => match m with | .msg _ _ => true | _ => false with
  | none => .next s
  | some i => match k.msgs[i]? with
    | some (.msg r sc) =>
      let s' := s.setCore core { k with msgs := k.msgs.eraseIdx i }
      if k.launch ≠ some r.key then .next s'
      else match k.freeSlot with
        | some l => if k.works then .next (s'.startStrand core l r.pc r.a sc) else .next s
        | none => .next s
    | _ => .next s

/-- REMOTE_PUSH (R165, R280): a push from elsewhere is made at its core, or waits there until the hamper has room. -/
def execRemotePush (idx : Nat) (s : State) : Host.Outcome State Fault Refusal :=
  match s.pushes[idx]? with
  | none => .next s
  | some p =>
    let gone : State := { s with pushes := s.pushes.eraseIdx idx }
    match s.fateAt p.dst p.r.key with
    | .wait => .next s
    | .drop => .next (gone.pushLanded p)
    | .take =>
      if p.here then .next (State.enterWaiting p.dst s.pushes.length s)
      else match gone.pushRec p.dst p.r with
        | some s' => .next (s'.pushLanded p)
        | none => .next { gone with pushes := gone.pushes ++ [{ p with here := true }] }

/-! Stealing (R166) -/

/-- Whether a core is idle and may steal. -/
def State.idle (s : State) (c : Nat) : Bool :=
  let k := s.core c
  k.works && k.freeSlot.isSome && k.deque.isEmpty && k.hamper == 0 && !k.hasMsg
    && match s.launchOf c with | some q => decide (q.level < 2) | none => false

/-- A consumer record that is stolen takes the release of the JVALs that fired it with it, which they made at the scope of their join's home
(R125, R382): nothing that a strand of the die has posted is still on its way, and for another die, what lies dirty in the die's remote-data
cache goes to its homes (log 11). -/
def State.published (s : State) (c v : Nat) : Option State :=
  match (s.core v).deque.getLast? with
  | some r =>
    if !r.cons then some s
    else if s.posted.any fun p => dieOf p.core == dieOf v && p.slot != 16 then none
    else some (if dieOf c = dieOf v then s else s.rdcFlushAll (dieOf v))
  | none => some s

/-- A victim answers with its top record, or that it has none. -/
def State.ask (s : State) (c v : Nat) : State :=
  match s.published c v with
  | none => s
  | some s => match s.stealRec v with
  | some (r, s') => s'.modCore c fun k => { k with thief := .got v (some r) }
  | none => s.modCore c fun k => { k with thief := .got v none }

/-- STEAL_REQUEST: an idle core's request is answered by its victim. -/
def execStealRequest (core : Nat) (s : State) : Host.Outcome State Fault Refusal :=
  match (s.core core).thief with
  | .idle => if !s.idle core then .next s else match s.victims core with
    | v :: _ => .next (s.ask core v)
    | [] => .next s
  | .asking v => if (s.core core).works then .next (s.ask core v) else .next s
  | _ => .next s

/-- STEAL_REPLY: a thief treats a record as popped; without one it asks the next core, or rests at the end of the ring. DESIGN CHOICE (log 80): a
thief that is no longer idle gives up the round. -/
def execStealReply (core : Nat) (s : State) : Host.Outcome State Fault Refusal :=
  let k := s.core core
  let rest (t : Thief) : State := s.modCore core fun k => { k with thief := t }
  match k.thief with
  | .got _ (some r) => if k.works && k.freeSlot.isSome && !k.hasMsg then .next ((rest .idle).dispatch core r) else .next s
  | .got v none =>
    if !s.idle core then .next (rest .idle)
    else match ((s.victims core).dropWhile (· != v)).drop 1 with
      | w :: _ => .next (rest (.asking w))
      | [] => .next (rest (.waiting k.cyc))
  | _ => .next s

/-- STEAL_RETRY: 64 cycles after an empty ring the thief starts again. -/
def execStealRetry (core : Nat) (s : State) : Host.Outcome State Fault Refusal :=
  match (s.core core).thief with
  | .waiting n => if n + 64 ≤ (s.core core).cyc then .next (s.modCore core fun k => { k with thief := .idle }) else .next s
  | _ => .next s

/-! Deliveries (R222, R225, R235, R389) -/

/-- Whether a slot holds the strand of a generation. -/
def Strand.is (x : Strand) (gen : BitVec 8) : Bool := x.gen == gen && x.st != .free && x.st != .reserved

/-- A delivery report on its way. -/
def State.report (s : State) (key : BitVec 24) (rep : Option Report) (status count : Nat) : State :=
  match rep with
  | none => s
  | some r => { s with comps := s.comps ++ [⟨r.core, r.slot, r.gen, r.reg, r.tag, completionWord status 5 count, none, key⟩] }

/-- A fill lands in a register. -/
def Strand.land (x : Strand) (cls n : Nat) (v : Word) (scope : Nat) : Strand :=
  if cls = 0 then { x with g := vset x.g n ⟨v, .full, some scope⟩ } else { x with f := vset x.f n ⟨v, .full, some scope⟩ }

/-- Whether a register of class 0 or 1 accepts a fill. One that a waiting FWD has made DEAD accepts none (R242). -/
def Strand.accepts (x : Strand) (cls n : Nat) : Bool :=
  !(cls == 0 && x.hold.any fun h => h.2 == n) && match x.stateOf cls n with
  | .empty | .pending _ _ => true
  | _ => false

/-- Whether what waits in a message buffer is a fill. -/
def Msg.isFill : Msg → Bool
  | .fill _ _ _ _ _ _ _ => true
  | .msg _ _ => false

/-- Whether a message is a fill of one register. -/
def Msg.fills (m : Msg) (l : Nat) (gen : BitVec 8) (cls n : Nat) : Bool :=
  match m with
  | .fill l' g c r _ _ _ => l' == l && g == gen && c == cls && r == n
  | _ => false

/-- A fill at its core (R235): dropped with a report, landed, or waiting while its register accepts none. -/
def State.tryFill (s : State) (c : Nat) (m : Msg) : Option State :=
  match m with
  | .msg _ _ => none
  | .fill l g cls n v sc rep =>
    let key := (s.core c).launch.getD 0
    let x := s.strand c l
    if !x.is g then some (s.report key rep 4 0)
    else if (cls == 0 && decide (28 ≤ n) && ((s.core c).pipeOf l).isSome) || (cls == 1 && (x.streamOf 1 n).isSome) then
      some (s.report key rep 1 0)
    else if x.accepts cls n then some ((s.modStrand c l fun x => x.land cls n v sc).report key rep 0 1)
    else none

/-- FILL_DELIVERY (R235). -/
def execFillDelivery (core idx : Nat) (s : State) : Host.Outcome State Fault Refusal :=
  let k := s.core core
  match k.msgs[idx]? with
  | some (.fill l g cls n v sc rep) =>
    let late := (s.strand core l).is g && (k.held ++ k.msgs.take idx).any fun m => m.fills l g cls n
    if late then .next s
    else .next (((s.setCore core { k with msgs := k.msgs.eraseIdx idx }).tryFill core (.fill l g cls n v sc rep)).getD s)
  | _ => .next s

/-- Deliver in order the fills of a list that their registers accept; the rest stays (R167, R222). -/
def State.deliverFills (s : State) (c : Nat) (l : List Msg) : List Msg × State :=
  l.foldl (fun (r : List Msg × State) m => match r.2.tryFill c m with
    | some s => (r.1, s)
    | none => (r.1 ++ [m], r.2)) ([], s)

/-- The fills that wait at a core are delivered at a cycle boundary, those held for resumed strands first (R222, R224, R236). -/
def State.landFills (s : State) (c : Nat) : State :=
  let k := s.core c
  if k.held.isEmpty && !k.msgs.any Msg.isFill then s
  else
    let (held, s) := s.deliverFills c k.held
    let (msgs, s) := s.deliverFills c k.msgs
    s.modCore c fun k => { k with held := held, msgs := msgs }

/-- Whether a FWD holds a handle's completion, from its issue to its end (R242). -/
def Strand.holding (x : Strand) (t : BitVec 12) : Bool := x.hold.any fun h => h.1 == t

/-- A completion lands in the register that still waits for it (R225). -/
def Strand.complete (x : Strand) (q : Completion) : Strand :=
  match (vget x.g q.reg).st with
  | .pending t _ => if t == q.tag then { x with g := vset x.g q.reg ⟨q.val, .full, q.scope⟩ } else x
  | _ => x

/-- A completion reaches its core (R225, R132): discarded, held while its launch is saved or a FWD holds it, or delivered. -/
def State.landComp (s : State) (idx : Nat) : State :=
  match s.comps[idx]? with
  | none => s
  | some q =>
    let gone : State := { s with comps := s.comps.eraseIdx idx }
    let x := s.strand q.core q.slot
    match s.fateAt q.core q.key with
    | .wait => s
    | .drop => gone
    | .take =>
      if !x.is q.gen then gone
      else if x.holding q.tag then s
      else gone.modStrand q.core q.slot fun x => x.complete q

/-- COMPLETION_DELIVERY (R225, R132). -/
def execCompletionDelivery (idx : Nat) (s : State) : Host.Outcome State Fault Refusal := .next (s.landComp idx)

/-- s.wd after a notice (R390). -/
def wdAfter (wd : Word) (pa : Nat) (i : BitVec 2) : Word :=
  w64 (bits pa 56 6 * 64 + (if wbit wd 0 then 8 else wbits wd 3 3 * 8) + i.toNat * 2 + 1)

/-- A withdrawal notice reaches its core (R389, R390): discarded, held while its launch is saved, or delivered. -/
def State.landNotice (s : State) (idx : Nat) : State :=
  match s.notices[idx]? with
  | none => s
  | some q =>
    let gone : State := { s with notices := s.notices.eraseIdx idx }
    match s.fateAt q.core q.key with
    | .wait => s
    | .drop => gone
    | .take =>
      if !(s.strand q.core q.slot).is q.gen then gone
      else gone.modStrand q.core q.slot fun x => { x with wd := wdAfter x.wd q.pa q.opidx, wdRep := x.wdRep || x.wt }

/-- WITHDRAWAL_NOTICE (R389, R390). -/
def execWithdrawalNotice (idx : Nat) (s : State) : Host.Outcome State Fault Refusal := .next (s.landNotice idx)

/-- What came for the strands of a launch while it was saved is delivered at their first boundary (R224, R389, R405). -/
def State.landHeld (s : State) (key : BitVec 24) : State :=
  let s := s.comps.foldl (fun s _ => match s.comps.findIdx? (·.key == key) with | some i => s.landComp i | none => s) s
  s.notices.foldl (fun s _ => match s.notices.findIdx? (·.key == key) with | some i => s.landNotice i | none => s) s

/-- SPAWN_REQUEST (R228): a carried SPAWN starts its strand and is answered. -/
def execSpawnRequest (idx : Nat) (s : State) : Host.Outcome State Fault Refusal :=
  match s.spawns[idx]? with
  | none => .next s
  | some q =>
    let gone : State := { s with spawns := s.spawns.eraseIdx idx }
    match s.fateAt q.dst q.r.key with
    | .wait => .next s
    | .drop => .next gone
    | .take =>
      let (w, s') := gone.spawnAt q.dst q.r q.scope
      .next ((s'.answerTo q.core q.slot q.gen q.d (.ok w)).getD s)

/-! Boundary traps and undecodable words (R176, R397, R420) -/

/-- Whether a boundary report abandons a park (R420): those that it lists; every other runs to its end. DESIGN CHOICE (log 84): a leap's wait
for its release, which R151 names and R420's list does not, runs to its end, and the report comes before the strand leaves. -/
def Park.abandoned : Park → Bool
  | .reg _ _ | .queue | .queueFull | .stream _ | .fifoFull | .fifoEmpty | .covered _ _ | .release _ | .path _ | .engine | .tile _ | .ring _
  | .latch _ | .barrier _ _ | .sleep _ | .timedLoad _ | .fault _ _ _ _ _ | .faultWait _ _ _ _ _ _ => true
  | .relKept _ | .await _ | .kHeld _ | .barArrived _ _ | .stopped | .reroute | .walk _ _ _ _ | .answer | .memory _ | .tlbinv _ _ _ _ => false

/-- Whether a strand stands at a boundary where a report may be taken. -/
def Strand.boundary (x : Strand) : Bool :=
  !x.bm && match x.st with
    | .ready => true
    | .parked p => p.abandoned
    | _ => false

/-- Whether a strand stands where a report may be taken now: a timed load already performed is delivered first (R153, R420). -/
def State.abandons (s : State) (c l : Nat) : Bool := (s.strand c l).boundary && !s.loadGot c l

/-- What a strand gives up with the park that it abandons (R36, R420): its timed load, its place on a fault record, a slot reserved for its
leap, its places at the k registers. -/
def State.abandon (s : State) (c l : Nat) : State := ((s.withdrawLoad c l).leaveFault c l).letGo c l

/-- DEADLINE (R150, R397): the pending late report of the strand `cur` is taken at a boundary. -/
def execDeadline (s : State) : Host.Outcome State Fault Refusal :=
  let (c, l) := s.cur
  let x := s.strand c l
  match x.report with
  | some t =>
    if s.abandons c l then
      .next (((s.abandon c l).modStrand c l fun x => { x with report := none }).trapEntry c l causeDeadline t)
    else .next s
  | none => .next s

/-- WITHDRAWN (R390, R397): after any pending late report. -/
def execWithdrawn (s : State) : Host.Outcome State Fault Refusal :=
  let (c, l) := s.cur
  let x := s.strand c l
  if x.wdRep && x.report.isNone && s.abandons c l then
    .next (((s.abandon c l).modStrand c l fun x => { x with wdRep := false }).trapEntry c l causeWithdrawn x.wd)
  else .next s

/-- ILLOP of a word that is no instruction (R176, R177). -/
def execIllop (w : BitVec 32) (s : State) : Host.Outcome State Fault Refusal := .next (s.stopped (.trap causeIllop (zext64 w)))

end Sys2Proof.Machine
end

