-- ==== Sys2Proof/Machine/Preempt.lean ====
section
/-! DEFINITION. Pre-emption: stopping a launch, saving its cores to its save area, and resuming it (R169, R400 to R405).
The parts of a core block that R402 and R403 name are written to memory and read back; what has no place there is kept beside it (log 20). -/

namespace Sys2Proof.Machine

/-! The parts of a block -/

/-- A part of a block: its offset, its length, the bytes it saves (none when nothing is saved), and how bytes read back are taken. -/
structure BlockPart (α : Type) where
  off : Nat
  len : Nat
  get : α → List Byte
  put : α → List Byte → α

/-- Write the parts of a block. -/
def State.saveParts {α : Type} (s : State) (base : Nat) (x : α) (ps : List (BlockPart α)) : State :=
  ps.foldl (fun s p => s.writeSpan (base + p.off) (p.get x)) s

/-- Read the parts of a block back. One whose sector is refused or cannot be read stays as it was (log 20). -/
def State.loadParts {α : Type} (s : State) (base : Nat) (x : α) (ps : List (BlockPart α)) : α × State :=
  ps.foldl (fun r p => let n := min p.len (p.get r.1).length
    if n = 0 then r else match r.2.readSpan (base + p.off) n with
      | (some bs, s) => (p.put r.1 bs, s)
      | (none, s) => (r.1, s)) (x, s)

/-- Words as bytes. -/
def wordBytes (ws : List Word) : List Byte := ws.flatMap fun w => natLe w.toNat 8

/-- The word at an index of some bytes. -/
def wordIn (bs : List Byte) (i : Nat) : Word := w64 (leNat ((bs.drop (8 * i)).take 8))

/-- A part that holds one word. -/
def wordPart {α : Type} (off : Nat) (get : α → Word) (put : α → Word → α) : BlockPart α :=
  ⟨off, 8, fun x => natLe (get x).toNat 8, fun x bs => put x (wordIn bs 0)⟩

/-! Slot blocks (R403) -/

/-- The states of registers, two bits each. -/
def stateBits (l : List RState) : List Byte := natLe (l.foldr (fun r n => n * 4 + r.code) 0) (l.length / 4)

/-- A state read back from two bits; a PENDING register's tag is read with its value. -/
def stateFrom (old : RState) (n : Nat) : RState :=
  match n % 4 with
  | 0 => .full
  | 1 => .empty
  | 2 => match old with | .pending t b => .pending t b | _ => .pending 0 false
  | _ => .dead

/-- Registers with their states read back. -/
def regStates {w n : Nat} (v : Vector (Reg w) n) (bs : List Byte) : Vector (Reg w) n :=
  v.zipIdx.map fun p => { p.1 with st := stateFrom p.1.st (leNat bs / 4 ^ p.2) }

/-- What a register saves: its value, or the tag of its handle. -/
def regBytes {w : Nat} (r : Reg w) : List Byte :=
  match r.st with
  | .full => natLe r.val.toNat (w / 8)
  | .pending t _ => natLe t.toNat (w / 8)
  | _ => []

/-- A register read back. -/
def regFrom {w : Nat} (r : Reg w) (bs : List Byte) : Reg w :=
  match r.st with
  | .pending _ b => { r with st := .pending (BitVec.ofNat 12 (leNat bs)) b }
  | _ => { r with val := BitVec.ofNat w (leNat bs) }

/-- A list made `n` long. -/
def resize {α : Type} (l : List α) (n : Nat) (x : α) : List α := l.take n ++ List.replicate (n - l.length) x

/-- The special registers that are restored, by number; those R403 excepts are written only, and s.rasd is the depth of the return-address
store. -/
def putSpecial (x : Strand) (n : Nat) (v : Word) : Strand :=
  match n with
  | 0x000 => { x with bm := wbit v 6, hu := wbit v 5, wt := wbit v 1, dt := wbit v 0 }
  | 0x005 | 0x006 | 0x009 | 0x013 => x
  | 0x00F => { x with ras := resize x.ras (min 16 v.toNat) 0 }
  | 0x012 => { x with launch := v.setWidth 24 }
  | 0x007 => { x with lane := v }
  | 0x008 => { x with nlane := v }
  | _ => writeSpecial x n v

/-- The descriptor bytes of a stream (R244). -/
def Stream.bytes (t : Stream) : List Byte :=
  natLe t.base.toNat 8 ++ natLe t.stride.toNat 8 ++ natLe t.count.toNat 8 ++ natLe (t.esize.toNat * 256 + if t.wr then 1 else 0) 8

/-- A stream's descriptor read back. -/
def Stream.from_ (t : Stream) (bs : List Byte) : Stream :=
  { t with base := (wordIn bs 0).setWidth 57, stride := wordIn bs 1, count := (wordIn bs 2).setWidth 32
           esize := BitVec.ofNat 2 (wbits (wordIn bs 3) 9 8), wr := wbit (wordIn bs 3) 0 }

/-- A stream's position and binding word. DESIGN CHOICE (log 20): as SSTAT gives it (R250). -/
def Stream.place (t : Stream) : Word :=
  let b (c : Bool) (i : Nat) : Nat := if c then 2 ^ i else 0
  let (cls, reg) := t.bound.getD (1, 0)
  w64 (b (cls == 2) 40 + reg * 2 ^ 38 + b t.bound.isSome 37 + b t.wr 36 + b t.done 35 + b t.cfg 34 + t.pos.toNat)

/-- Position and binding read back. -/
def Stream.placed (t : Stream) (w : Word) : Stream :=
  { t with
    pos := BitVec.ofNat 32 (wbits w 31 0), cfg := wbit w 34, done := wbit w 35
    bound := if wbit w 37 then some (if wbit w 40 then 2 else 1, wbits w 39 38) else (Option.none : Option (Nat × Nat)) }

/-- The code of a slot state (R403). -/
def SlotState.code : SlotState → Nat
  | .free | .reserved => 0
  | .ready => 1
  | .parked _ => 2

/-- The first word of a slot block. -/
def slotWord (x : Strand) : Word :=
  w64 (x.st.code + x.gen.toNat * 2 ^ 8 + (if x.report.isSome then 2 ^ 16 else 0) + if x.wdRep then 2 ^ 17 else 0)

/-- A slot state read back: what a strand that is not FREE was doing stays with it. -/
def SlotState.from_ (old : SlotState) (n : Nat) : SlotState := if n = 0 then .free else if old == .free then .ready else old

/-- The part that every slot has: state, generation and pending reports. -/
def slotHead : BlockPart Strand :=
  wordPart 0 slotWord fun x v => { x with
    st := x.st.from_ (wbits v 1 0), gen := BitVec.ofNat 8 (wbits v 15 8), wdRep := wbit v 17, report := if wbit v 16 then some (x.report.getD 0) else none }

/-- The parts of a slot that holds a strand. -/
def slotParts (s : State) : List (BlockPart Strand) :=
  [wordPart 0x008 Strand.pc fun x v => { x with pc := v },
   ⟨0x010, 8, fun x => match x.report with | some t => natLe t.toNat 8 | none => [], fun x bs => { x with report := some (wordIn bs 0) }⟩,
   ⟨0x040, 8, fun x => stateBits (x.g.toList.map Reg.st), fun x bs => { x with g := regStates x.g bs }⟩,
   ⟨0x048, 8, fun x => stateBits (x.f.toList.map Reg.st), fun x bs => { x with f := regStates x.f bs }⟩,
   ⟨0x050, 4, fun x => stateBits (x.v.toList.map Reg.st), fun x bs => { x with v := regStates x.v bs }⟩,
   ⟨0x058, 32, fun x => wordBytes ((List.range 4).map fun i => match x.prods[i]? with | some p => w64 (p + 1) | none => 0),
     fun x bs => { x with prods := ((List.range 4).map fun i => (wordIn bs i).toNat).filterMap fun n => if n % 2 = 1 then some (n - 1) else none }⟩,
   ⟨0x200, 352, fun x => wordBytes x.eregs.toList, fun x bs => { x with eregs := x.eregs.zipIdx.map fun (p : Word × Nat) => wordIn bs p.2 }⟩]
  ++ (List.range 0x17 ++ (List.range 8).map (0x20 + ·)).map (fun n =>
      wordPart (0x080 + if n < 0x20 then 8 * n else 0xC0 + 8 * (n - 0x20)) (fun x => readSpecial s x n) fun x v => putSpecial x n v)
  ++ [⟨0x180, 128, fun x => wordBytes x.ras, fun x bs => { x with ras := (List.range x.ras.length).map (wordIn bs) }⟩]
  ++ (List.range 8).map (fun i => (⟨0x500 + 8 * i, 8, fun x => if (vget x.streams i).cfg then natLe (vget x.streams i).place.toNat 8 else [],
      fun x bs => { x with streams := vset x.streams i ((vget x.streams i).placed (wordIn bs 0)) }⟩ : BlockPart Strand))
  ++ (List.range 8).map (fun i => (⟨0x400 + 32 * i, 32, fun x => if (vget x.streams i).cfg then (vget x.streams i).bytes else [],
      fun x bs => { x with streams := vset x.streams i ((vget x.streams i).from_ bs) }⟩ : BlockPart Strand))
  ++ (List.range 32).map (fun i => (⟨0x800 + 8 * i, 8, fun x => regBytes (vget x.g i), fun x bs => { x with g := vset x.g i (regFrom (vget x.g i) bs) }⟩ : BlockPart Strand))
  ++ (List.range 32).map (fun i => (⟨0x900 + 8 * i, 8, fun x => regBytes (vget x.f i), fun x bs => { x with f := vset x.f i (regFrom (vget x.f i) bs) }⟩ : BlockPart Strand))
  ++ (List.range 16).map (fun i => (⟨0xA00 + 32 * i, 32, fun x => regBytes (vget x.v i), fun x bs => { x with v := vset x.v i (regFrom (vget x.v i) bs) }⟩ : BlockPart Strand))

/-- The parts of a slot's block. -/
def slotBlock (s : State) (x : Strand) : List (BlockPart Strand) := if x.st == .free then [slotHead] else slotHead :: slotParts s

/-! Core blocks (R402) -/

/-- A fill in 16 bytes: its value, then its target, its scope and its report. DESIGN CHOICE (log 20): R403 gives the size alone. -/
def fillBytes (m : Msg) : List Byte :=
  match m with
  | .msg _ _ => []
  | .fill slot gen cls reg val scope rep =>
    let r := rep.getD ⟨0, 0, 0, 0, 0⟩
    natLe val.toNat 8 ++ natLe (slot + gen.toNat * 2 ^ 4 + cls % 2 * 2 ^ 12 + reg % 32 * 2 ^ 13 + scope % 8 * 2 ^ 18
      + (if rep.isSome then 2 ^ 21 + r.core % 2048 * 2 ^ 22 + r.slot % 16 * 2 ^ 33 + r.gen.toNat * 2 ^ 37 + r.reg % 32 * 2 ^ 45
        + r.tag.toNat * 2 ^ 50 else 0)) 8

/-- A fill read back. -/
def fillFrom (bs : List Byte) : Msg :=
  let w := wordIn bs 1
  .fill (wbits w 3 0) (BitVec.ofNat 8 (wbits w 11 4)) (wbits w 12 12) (wbits w 17 13) (wordIn bs 0) (wbits w 20 18)
    (if wbit w 21 then some ⟨wbits w 32 22, wbits w 36 33, BitVec.ofNat 8 (wbits w 44 37), wbits w 49 45, BitVec.ofNat 12 (wbits w 61 50)⟩ else none)

/-- An entry of the message buffer in 64 bytes. DESIGN CHOICE (log 20): a message's scope, or the mark of a fill, is in the record's bits that
R164 makes zero. -/
def Msg.bytes (m : Msg) : List Byte :=
  match m with
  | .msg r scope => (TaskRec.bytes r).take 49 ++ [BitVec.ofNat 8 scope] ++ (TaskRec.bytes r).drop 50
  | m => fillBytes m ++ List.replicate 33 0 ++ [0x80] ++ List.replicate 14 0

/-- An entry of the message buffer read back. -/
def msgFrom (bs : List Byte) : Msg :=
  let b := (bs.getD 49 0).toNat
  if b = 0x80 then fillFrom bs else .msg (recOf (bs.take 49 ++ [0] ++ bs.drop 50)) b

/-- A deferred atomic read back; the place it goes to is kept. -/
def OaEntry.from_ (e : OaEntry) (bs : List Byte) : OaEntry :=
  let w := wordIn bs 0
  { e with
    acc := { e.acc with pa := wbits w 56 0 }, b := wordIn bs 1, lane := wordIn bs 2, n := if wbit w 57 then 8 else 4, max := wbit w 58
    seq := (wordIn bs 3).toNat }

/-- A queued engine operation in 256 bytes: its registers, operands and snapshot (R326). DESIGN CHOICE (log 20): R402 gives the size alone. -/
def EngOp.bytes (o : EngOp) : List Byte :=
  wordBytes (resize o.regs 27 0) ++ wordBytes [o.ga, o.gb, o.efmt, o.lane] ++
    natLe (o.cmd + o.tag.toNat * 2 ^ 8 + o.slot * 2 ^ 20 + o.gen.toNat * 2 ^ 24 + o.dest * 2 ^ 32 + o.scope * 2 ^ 37 + o.lvl * 2 ^ 40
      + (if o.user then 2 ^ 42 else 0) + o.z * 2 ^ 43) 8

/-- A queued engine operation read back. -/
def EngOp.from_ (o : EngOp) (bs : List Byte) : EngOp :=
  let w := wordIn bs 31
  { o with
    regs := (List.range o.regs.length).map (wordIn bs), ga := wordIn bs 27, gb := wordIn bs 28, efmt := wordIn bs 29, lane := wordIn bs 30
    cmd := wbits w 7 0, tag := BitVec.ofNat 12 (wbits w 19 8), slot := wbits w 23 20, gen := BitVec.ofNat 8 (wbits w 31 24), dest := wbits w 36 32
    scope := wbits w 39 37, lvl := wbits w 41 40, user := wbit w 42, z := wbits w 63 43 }

/-- The i-th operation of an engine's queue on a core. -/
def Core.queued (k : Core) (eng i : Nat) : Option EngOp := (k.ops.filter (·.eng == eng))[i]?

/-- A peg in 32 bytes. DESIGN CHOICE (log 20): R129 gives the fields' widths alone. -/
def Peg.bytes (p : Peg) : List Byte :=
  wordBytes [w64 p.base, w64 p.len, w64 (p.ctx + p.op.toNat * 2 ^ 16 + if p.w then 2 ^ 24 else 0), 1]

/-- A peg read back. -/
def pegFrom (bs : List Byte) : Option Peg :=
  let w := wordIn bs 2
  if wbit (wordIn bs 3) 0 then some ⟨wbit w 24, wbits w 15 0, (wordIn bs 0).toNat, (wordIn bs 1).toNat, BitVec.ofNat 8 (wbits w 23 16)⟩ else none

/-- The queues of a core's first pipeline group; what further groups hold is kept. -/
def Core.queue (k : Core) (n : Nat) : List QEntry := match k.pipes with | p :: _ => vget p.q n | [] => []

/-- Replace a queue of the first pipeline group. -/
def Core.setQueue (k : Core) (n : Nat) (q : List QEntry) : Core :=
  { k with pipes := match k.pipes with | p :: ps => { p with q := vset p.q n q } :: ps | [] => [] }

/-- The counts of a core block (R402), one doubleword each. DESIGN CHOICE (log 20): in the order in which R402 names them. -/
def Core.counts (k : Core) : List Nat :=
  [k.deque.length, k.msgs.length, k.oab.length,
   (List.range 5).foldl (fun n e => n + k.ops.countP (·.eng == e) * 2 ^ (8 * e)) 0,
   match k.pipes with | p :: _ => p.mask.toNat | [] => 0,
   (List.range 4).foldl (fun n i => n + (k.queue i).length * 2 ^ (8 * i)) 0, k.hamper, k.oaBlocks.length]

/-- The counts read back: lists take their lengths, for the parts that follow to fill. -/
def Core.counted (k : Core) (bs : List Byte) : Core :=
  let n (i : Nat) : Nat := (wordIn bs i).toNat
  let k := (List.range 4).foldl (fun (k : Core) i => k.setQueue i (resize (k.queue i) (min 8 (wbits (wordIn bs 5) (8 * i + 7) (8 * i))) (.word 0))) k
  { k with
    deque := resize k.deque (min 128 (n 0)) ⟨0, [], 0, 0, false, false, 0, 0⟩
    msgs := resize k.msgs (min 16 (n 1)) (.msg ⟨0, [], 0, 0, false, false, 0, 0⟩ 0)
    oab := resize k.oab (min 256 (n 2)) ⟨⟨0, .control, 0, false⟩, 8, false, 0, 0, 0, 0, 0⟩
    pipes := match k.pipes with | p :: ps => { p with mask := BitVec.ofNat 16 (n 4) } :: ps | [] => []
    hamper := n 6 }

/-- The parts of a core block but its scratchpad and its slots. -/
def coreParts : List (BlockPart Core) :=
  [⟨0x8BA00, 64, fun k => wordBytes (k.counts.map w64), Core.counted⟩,
   ⟨0x80000, 8192, fun k => mread k.acc 0 8192, fun k bs => { k with acc := mwrite k.acc 0 bs }⟩,
   ⟨0x82000, 8192, fun k => k.deque.flatMap TaskRec.bytes,
     fun k bs => { k with deque := (List.range k.deque.length).map fun i => recOf ((bs.drop (64 * i)).take 64) }⟩,
   ⟨0x84000, 8192, fun k => k.oab.flatMap OaEntry.bytes,
     fun k bs => { k with oab := k.oab.zipIdx.map fun (p : OaEntry × Nat) => p.1.from_ (bs.drop (32 * p.2)) }⟩,
   ⟨0x8B000, 1024, fun k => k.msgs.flatMap Msg.bytes,
     fun k bs => { k with msgs := (List.range k.msgs.length).map fun i => msgFrom ((bs.drop (64 * i)).take 64) }⟩,
   ⟨0x8B400, 512, fun k => wordBytes k.tiles.toList, fun k bs => { k with tiles := k.tiles.zipIdx.map fun (p : Word × Nat) => wordIn bs p.2 }⟩,
   ⟨0x8B600, 128, fun k => wordBytes k.rings.toList, fun k bs => { k with rings := k.rings.zipIdx.map fun (p : Word × Nat) => wordIn bs p.2 }⟩,
   ⟨0x8B680, 128, fun k => wordBytes k.k.toList, fun k bs => { k with k := k.k.zipIdx.map fun (p : Word × Nat) => wordIn bs p.2 }⟩]
  ++ (List.range 4).map (fun n => (⟨0x8B700 + 64 * n, 64,
      fun k => (k.queue n).flatMap fun e => match e with | .word x => natLe x.toNat 8 | .held _ => natLe 0 8,
      fun k bs => k.setQueue n ((List.range (k.queue n).length).map fun i => .word (wordIn bs i))⟩ : BlockPart Core))
  ++ (List.range 16).map (fun i => (⟨0x8B800 + 32 * i, 32, fun k => match vget k.pegs i with | some p => p.bytes | none => [],
      fun k bs => { k with pegs := vset k.pegs i (pegFrom bs) }⟩ : BlockPart Core))
  ++ (List.range 80).map (fun i => (⟨0x86000 + 256 * i, 256, fun k => match k.queued (i / 16) (i % 16) with | some o => o.bytes | none => [],
      fun k bs => match k.queued (i / 16) (i % 16) with
        | some q => { k with ops := k.ops.map fun (o : EngOp) => if o.tag == q.tag then o.from_ bs else o }
        | none => k⟩ : BlockPart Core))
  ++ (List.range 16).map (fun l =>
      let mine (m : Msg) : Bool := match m with | .fill s _ _ _ _ _ _ => s == l | .msg _ _ => false
      (⟨0x90600 + 0x1000 * l, 512, fun k => ((k.held.filter mine).take 32).flatMap fillBytes,
        fun k bs =>
          let ms := k.held.filter mine
          { k with held := k.held.filter (fun m => !mine m) ++ (ms.take 32).zipIdx.map (fun p => fillFrom (bs.drop (16 * p.2))) ++ ms.drop 32 }⟩
        : BlockPart Core))

/-- The physical address of a core's scratchpad (R12). -/
def State.spadBase (s : State) (c : Nat) : Nat := s.devid.toNat * 2 ^ 46 + 0x100000000000 + c * 2 ^ 20

/-- The base of a core's block in its launch's save area. -/
def Launch.block (q : Launch) (c : Nat) : Nat := q.save + (c - q.first) * 0xA0000

/-- Write a core's block: what is due on its calendar comes first (R147). -/
def State.saveCore (s : State) (q : Launch) (c : Nat) : State :=
  let s := s.applyDue c
  let k := s.core c
  let base := q.block c
  let s := s.writeSpan base (mread s.mem (s.spadBase c) 0x80000)
  let s := s.saveParts base k coreParts
  (List.range 16).foldl (fun s l =>
    let x := vget k.slots l
    s.saveParts (base + 0x90000 + 0x1000 * l) x (slotBlock ({ s with cur := (c, l) } : State) x)) s

/-- A strand as it resumes: READY (R405). One saved in a BAR whose arrival is counted has only its WAITB left (R276). No stream element comes
back (R251). -/
def Strand.resume (x : Strand) (exits : Nat) : Strand :=
  { x.discard with
    st := if x.st == .free then .free else .ready
    counted := match x.st with | .parked (.barArrived u p) => some (x.pc, u, p) | _ => x.counted
    tbm := 0, latch := BitVec.allOnes 5, lastCyc := none, exits := exits }

/-- A slot's block read back over what was kept. -/
def State.loadSlot (s : State) (q : Launch) (c l : Nat) (x : Strand) : Strand × State :=
  let at_ := q.block c + 0x90000 + 0x1000 * l
  let (x, s) := s.loadParts at_ x [slotHead]
  let (x, s) := s.loadParts at_ x (slotBlock ({ s with cur := (c, l) } : State) x)
  (x.resume (s.posted.countP fun r => r.by c l x.gen && r.key == q.key && r.op.dst.isNone), s)

/-- Read a core's block back over what was kept (R405). What belongs to the place and not to the launch stays; a thief that rested does so
anew (R166). -/
def State.loadCore (s : State) (q : Launch) (c : Nat) : State :=
  match tget q.cores c with
  | none => s.modCore c fun k => k.take q.key s.clean.hist.length
  | some kept =>
    let base := q.block c
    let (k, s) := s.loadParts base kept coreParts
    -- in order of arrival: those held before, those of its buffer, those that came while it was saved (R224, R235)
    let k := { k with held := k.held ++ k.msgs.filter Msg.isFill ++ kept.late, msgs := k.msgs.filter fun m => !m.isFill, late := [] }
    let (slots, s) := (List.range 16).foldl (fun (r : Vector Strand 16 × State) l =>
      let (x, s) := r.2.loadSlot q c l (vget r.1 l)
      (vset r.1 l x, s)) (k.slots, s)
    let (image, s) := s.readSpan base 0x80000
    let now := s.core c
    let s := s.setCore c { k with
      slots := slots, cal := now.cal, calWait := now.calWait, loads := now.loads, tlb := now.tlb, fetchBuf := [], pred := now.pred
      histAt := s.clean.hist.length, nextTag := now.nextTag, last := now.last, launch := some q.key, saving := false, cyc := 0
      thief := match k.thief with | .waiting _ => .waiting 0 | t => t }
    match image with
    | some bs => ((s.applyDue c).homePut (s.spadBase c) bs).mendWords none (s.spadBase c) 0x80000
    | none => s

/-! The steps -/

/-- Whether a waiting or saved launch of higher priority is due a launch's cores (R169). -/
def State.preempted (s : State) (q : Launch) : Bool :=
  s.launches.any fun p => (p.2.st == .waiting || p.2.st == .saved) && p.2.abort.isNone && decide (q.prio < p.2.prio) && p.2.meets q
    && s.ready && !s.outranked p.2
    && p.2.cores_.all fun c => match s.launchOf c with | some h => decide (h.prio < p.2.prio) | none => true

/-- A park that ends at once at pre-emption: the instruction issues again at resume (R400). -/
def Park.stops : Park → Bool
  | .barArrived _ _ | .answer | .memory _ | .tlbinv _ _ _ _ => false
  | _ => true

/-- A strand's park ends for pre-emption (R400); it is saved as PARKED (R403). -/
def Strand.stop (x : Strand) : Strand :=
  match x.st with
  | .parked p => if p.stops then { x with st := .parked .stopped, hold := none } else x
  | _ => x

/-- A strand stops for pre-emption (R400): stream elements not consumed are loaded again at resume (R251), a timed load not performed is
withdrawn, and one performed is delivered first (R153). What has been carried away keeps what it holds until its answer comes. -/
def State.stopStrand (s : State) (c l : Nat) : State :=
  let s := s.modStrand c l Strand.discard
  match (s.strand c l).st with
  | .parked p => if p.stops && !s.loadGot c l then (s.abandon c l).modStrand c l Strand.stop else s
  | _ => s.letGo c l

/-- Stop the strands of a core, leaving walks and faults they wait on (R36, R400). -/
def State.stopCore (s : State) (c : Nat) : State :=
  let s := (List.range 16).foldl (fun s l => s.stopStrand c l) s
  let s := s.modDie (dieOf c) fun d => { d with walks := d.walks.filter fun w => !(w.core == c && w.op.isNone) }
  s.modCore c fun k => { k with saving := true }

/-- PREEMPT (R169, R400). -/
def execPreempt (key : Nat) (s : State) : Host.Outcome State Fault Refusal :=
  match tget s.launches key with
  | none => .next s
  | some q =>
    if q.st == .running && q.abort.isNone && s.preempted q then
      .next (q.cores_.foldl State.stopCore (s.modLaunch q.key fun l => { l with st := .saving }))
    else .next s

/-- Whether a slot has stopped (R400). -/
def Strand.stopped (x : Strand) : Bool :=
  x.fifo.isEmpty && match x.st with
    | .free | .ready => true
    | .parked (.barArrived _ _) | .parked .stopped => true
    | _ => false

/-- Whether every strand of a launch has stopped (R400), with nothing that it still has to answer or hear about under way. -/
def State.launchStopped (s : State) (q : Launch) : Bool :=
  q.cores_.all (fun c => (s.core c).launch != some q.key || (s.core c).slots.toList.all Strand.stopped)
    && !(s.joins.any fun r => r.key == q.key && match r.form with | .done _ => false | _ => true)
    && !(s.spawns.any fun r => r.r.key == q.key) && !(s.leaps.any fun r => r.ctx.launch == q.key)

/-- Whether a core's save can finish (R401): the launch's strands have stopped, and the core's begun operations have completed. -/
def State.saveReady (s : State) (q : Launch) (c : Nat) : Bool :=
  s.launchStopped q && (s.core c).ops.all fun o => !o.started && (o.st == .queued || o.st == .ready true)

/-- A slot left to the next launch: FREE, with its generation. -/
def Strand.vacate (x : Strand) : Strand := { Strand.reset with gen := x.gen }

/-- A core left to the next launch. -/
def Core.vacate (k : Core) : Core :=
  { k with kq := [], ringWd := [], held := [], pegs := Vector.replicate 16 none, ops := [], msgs := [], deque := [], hamper := 0, oab := [], oaBlocks := []
           pipes := [], launch := none, saving := false, thief := .idle, late := [], slots := k.slots.map Strand.vacate }

/-- SAVE_COMPLETE (R401 to R403). What has come for the core's strands is delivered first. -/
def execSaveComplete (core : Nat) (s : State) : Host.Outcome State Fault Refusal :=
  match s.launchOf core with
  | none => .next s
  | some q =>
    if q.st == .saving && q.abort.isNone && (s.core core).saving && s.saveReady q core then
      let s := s.comps.foldl (fun s _ => match s.comps.findIdx? (·.core == core) with | some i => s.landComp i | none => s) s
      let s := (s.landFills core).saveCore q core
      let k := s.core core
      let s := s.modLaunch q.key fun l => { l with cores := tset l.cores core { k with cal := [], calWait := [], loads := [], tlb := [], fetchBuf := [], pred := [] } }
      let s := s.setCore core k.vacate
      .next (if q.cores_.all fun c => (s.core c).launch != some q.key then s.modLaunch q.key fun l => { l with st := .saved } else s)
    else .next s

/-- RESUME (R169, R405). -/
def execResume (key : Nat) (s : State) : Host.Outcome State Fault Refusal :=
  match tget s.launches key with
  | none => .next s
  | some q =>
    if q.st == .saved && s.canTake q then
      let s := q.cores_.foldl (fun s c => s.loadCore q c) s
      let s := s.modLaunch q.key fun l => { l with st := .running, cores := [] }
      let s := q.cores_.foldl (fun s c => ((s.core c).ops.filter (·.eng == 3)).foldl (fun s o => s.clash o.colTag) s) s
      .next (q.cores_.foldl State.landFills (s.landHeld q.key))
    else .next s

end Sys2Proof.Machine
end

