-- ==== Sys2Proof/Machine/Host.lean ====
section
/-! DEFINITION. The host interface and the service die: command queues and packets, host accesses, CXL capacity, links, power and
security (R37 to R39, R136, R356, R406 to R418). -/

namespace Sys2Proof.Machine

/-! Packets (R410, R411) -/

/-- Read bytes at a host-side address (R409). -/
def State.hostGet (s : State) (addr : Word) (n : Nat) : Option (List Byte) :=
  let a := wbits addr 56 0
  if wbit addr 63 then some (mread s.hostMem a n) else (s.readSpan a n).1

/-- The index of the packet at a queue's head, and its words, when the queue may take one and its rings can be reached (R415). -/
def State.packet (s : State) (q : Nat) : Option (Nat × List Word) :=
  let x := s.queue q
  if q < 256 ∧ wbit x.cfg 16 ∧ x.head ≠ x.tail ∧ x.busy.isNone ∧ s.mayRecord q ∧ !s.hostWaits (x.base + w64 (64 * (x.head % x.entries))) then
    (s.hostGet (x.base + w64 (64 * (x.head % x.entries))) 64).map fun bs => (x.head, (List.range 8).map (wordIn bs))
  else none

/-- A word of a packet. -/
def pword (ws : List Word) (i : Nat) : Word := ws.getD i 0

/-- TYPE. -/
def ptype (ws : List Word) : Nat := wbits (pword ws 0) 7 0

/-- Whether every bit of the words from number `i` on is zero. -/
def zeroFrom (ws : List Word) (i : Nat) : Bool := (ws.drop i).all (· == 0)

/-- The packet at a queue's head, when it has a type and the device serves it: after an alarm under HALT only RESYNC is (R417). -/
def State.typed (s : State) (q ty : Nat) : Option (Nat × List Word) :=
  match s.packet q with
  | some (i, ws) => if ptype ws = ty ∧ (!s.linksDown || ty == 7) then some (i, ws) else none
  | none => none

/-- A packet other than an accepted LAUNCH is taken and complete (R410). -/
def State.finish (s : State) (q i status code : Nat) (lid gen : Nat := 0) : State :=
  (s.record q i status code lid gen 0 []).modQueue q fun x => { x with busy := none, head := (x.head + 1) % 2 ^ 17 }

/-- Completion of a packet that is wrong in form (R411). -/
def State.badPacket (s : State) (q i : Nat) : State := s.finish q i 4 0

/-! LAUNCH (R412) -/

/-- The launch that a packet describes. Bits [1:0] of every PC are zero (R172, R399). -/
def launchOf (q i order prio level : Nat) (gen : BitVec 8) (ws : List Word) : Launch :=
  let w := pword ws
  let logn := wbits (w 1) 14 11
  { st := .waiting, q := q, pkt := i, order := order, prio := prio
    slots := (w 0 >>> 48).setWidth 16, lid := (w 0 >>> 32).setWidth 16, gen := gen
    ctx := wbits (w 0) 31 16, priv := wbit (w 0) 14, sdom := wbits (w 0) 13 12, level := max (wbits (w 0) 11 10) level
    hblk := wbits (w 1) 52 37, efmt := w64 (wbits (w 1) 36 16), logn := logn, first := wbits (w 1) 10 0
    entry := w 2 &&& ~~~3#64, gp := w 3, ssz := wbits (w 4) 63 57, stack := wbits (w 4) 56 0, tvec := w 5 &&& ~~~3#64, seed := w 6, save := (w 7).toNat
    abort := none, nabort := 0, err := false, cores := [] }

/-- A LAUNCH packet that is wrong in form: SLOTS 0, LEVEL 3 or an undefined field. -/
def launchBad (ws : List Word) : Bool :=
  let w := pword ws
  wbits (w 0) 63 48 == 0 || wbits (w 0) 11 10 == 3 || wbit (w 0) 15 || wbits (w 0) 9 8 != 0 || wbits (w 1) 63 53 != 0 || wbit (w 1) 15
    || wbits (w 2) 63 57 != 0 || wbits (w 3) 63 57 != 0 || wbits (w 5) 63 57 != 0 || wbits (w 7) 63 57 != 0

/-- Whether a context table entry names a valid context (R19). -/
def ctxValid (w : Word) : Bool := wbit w 0 && wbits w 11 1 == 0 && wbits w 63 57 == 0

/-- Why a LAUNCH is rejected, the lowest code first. -/
def State.launchCode (s : State) (l : Launch) : Option Nat :=
  let n := 2 ^ l.logn
  let bytes := n * 0xA0000 + n * l.hblk * 4096
  if !ctxValid ((tget s.ctxTab l.ctx).getD 0) then some 1
  else if devOf l.save ≠ s.devid.toNat ∨ 0xC000000000 < localOf l.save + bytes then some 2
  else if l.first % n ≠ 0 ∨ 2048 < l.first + n then some 3
  else if !efmtValid l.efmt then some 4
  else if l.ssz < 4 ∨ 40 < l.ssz then some 5
  else none

/-- LAUNCH (R410 to R412): a packet is checked and waits for its cores, or is rejected. Packets of no known TYPE are answered here
too. -/
def execLaunch (q : Nat) (s : State) : Host.Outcome State Fault Refusal :=
  match s.packet q with
  | none => .next s
  | some (i, ws) =>
    if s.linksDown then .next s
    else if ptype ws = 0 ∨ 7 < ptype ws then .next (s.badPacket q i)
    else if ptype ws ≠ 1 then .next s
    else if launchBad ws then .next (s.badPacket q i)
    else
      let x := s.queue q
      let lid := wbits (pword ws 0) 47 32
      let gen := (tget s.gens lid).getD 0
      let l := launchOf q i s.taken (wbits x.cfg 9 8) x.level (gen + 1) ws
      match s.launchCode l with
      | some code => .next (s.finish q i 2 code lid gen.toNat)
      | none => .next (({ s with
          gens := tset s.gens lid (gen + 1), taken := s.taken + 1, launches := tset s.launches l.key.toNat l } : State).modQueue q
            fun x => { x with busy := some i })

/-! The other packets (R411) -/

/-- SETLEVEL (R406). -/
def execSetlevel (q : Nat) (s : State) : Host.Outcome State Fault Refusal :=
  match s.typed q 2 with
  | none => .next s
  | some (i, ws) =>
    let w := pword ws 0
    if wbits w 63 12 ≠ 0 || wbits w 9 8 ≠ 0 || wbits w 11 10 = 3 || !zeroFrom ws 1 then .next (s.badPacket q i)
    else .next ((s.modQueue q fun x => { x with level := wbits w 11 10 }).finish q i 0 0)

/-- QFENCE (R411): it waits until every earlier packet of the queue has completed. -/
def execQfence (q : Nat) (s : State) : Host.Outcome State Fault Refusal :=
  match s.typed q 3 with
  | none => .next s
  | some (i, ws) =>
    if wbits (pword ws 0) 63 8 ≠ 0 || !zeroFrom ws 1 then .next (s.badPacket q i)
    else if (s.queue q).open_.isEmpty then .next (s.finish q i 0 0) else .next s

/-- SIGNAL (R411). -/
def execSignal (q : Nat) (s : State) : Host.Outcome State Fault Refusal :=
  match s.typed q 4 with
  | none => .next s
  | some (i, ws) =>
    let w := pword ws 0
    let a := (pword ws 1).toNat
    if wbits w 63 32 ≠ 0 || wbits w 15 9 ≠ 0 || decide (2 ^ 57 ≤ a) || a % 8 ≠ 0 || !zeroFrom ws 3 then .next (s.badPacket q i)
    else if s.refused a || s.gone a then .next (s.finish q i 3 0)
    else if s.farWaits a then .next s
    else
      let s := s.releaseAll
      let s := if (regionOf (localOf a)).isControl && devOf a == s.devid.toNat then s.writeControl a (pword ws 2)
        else (s.settleBoth a).perform a (natLe (pword ws 2).toNat 8)
      let s : State := if wbit w 8 then { s with msix := s.msix ++ [wbits w 31 16] } else s
      .next (s.finish q i 0 0)

/-- A WAITVAL packet that is wrong in form. -/
def waitvalBad (ws : List Word) : Bool :=
  let w := pword ws 0
  let a := (pword ws 1).toNat
  wbits w 63 10 != 0 || wbits w 9 8 == 3 || decide (2 ^ 57 ≤ a) || a % 8 != 0 || !zeroFrom ws 4

/-- WAITVAL (R411): taken up, and waiting for its value. -/
def execWaitval (q : Nat) (s : State) : Host.Outcome State Fault Refusal :=
  match s.typed q 5 with
  | none => .next s
  | some (i, ws) =>
    let a := (pword ws 1).toNat
    if waitvalBad ws then .next (s.badPacket q i)
    else if s.refused a || s.gone a then .next (s.finish q i 3 0)
    else .next (s.modQueue q fun x => { x with busy := some i })

/-- The test of a WAITVAL. -/
def waitvalTest (ws : List Word) (m : Word) : Bool :=
  let x := m &&& pword ws 3
  match wbits (pword ws 0) 9 8 with
  | 0 => x == pword ws 2
  | 1 => x != pword ws 2
  | _ => decide ((pword ws 2).toNat ≤ x.toNat)

/-- WAITVAL_SATISFIED (R411): the watched value passes, and an acquire at system scope follows. -/
def execWaitvalSatisfied (q : Nat) (s : State) : Host.Outcome State Fault Refusal :=
  let x := s.queue q
  match x.busy with
  | none => .next s
  | some i =>
    match (s.modQueue q fun x => { x with busy := none }).typed q 5 with
    | none => .next s
    | some (_, ws) =>
      let a := (pword ws 1).toNat
      if s.refused a || s.gone a then .next (s.finish q i 3 0)
      else if s.farWaits a then .next s
      else
        let (m, s) := if (regionOf (localOf a)).isControl && devOf a == s.devid.toNat then (some (s.readControl a), s)
          else match s.readSpan a 8 with | (r, s) => (r.map fun bs => w64 (leNat bs), s)
        match m with
        | none => .next s
        | some m => if waitvalTest ws m then .next ((((List.range 4).foldl State.rdcFlash s).flashCxl).finish q i 0 0) else .next s

/-! Ponds (R356, R357, R413) -/

/-- The pieces of a store's leaf area, each within one row. -/
def Pond.leafRows (p : Pond) : List Nat := (List.range (p.leafBytes / 2048)).map fun i => p.base + 2048 * i

/-- Pin a store's leaf rows as PROMOTE.pin does (R357). -/
def State.pinLeaves (s : State) (p : Pond) : State :=
  p.leafRows.foldl (fun s a => match rowOf a with
    | some r => (s.promoteRow r true true).2.2.2
    | none => s) s

/-- Demote a store's leaf rows as DEMOTE does (R356). -/
def State.demoteLeaves (s : State) (p : Pond) : State :=
  p.leafRows.foldl (fun s a => match rowOf a with
    | some r => (s.demoteRow r).2.2
    | none => s) s

/-- The store that a PONDCFG packet describes, with its die and number, and whether its fields lie in range. -/
def pondOf (ws : List Word) : Nat × Nat × Pond × Bool :=
  let w := pword ws
  let p : Pond := { ctx := wbits (w 0) 31 16, lcap := wbits (w 0) 36 32, maxsteps := wbits (w 0) 53 37 + 1, obs := wbits (w 1) 16 0,
                    base := wbits (w 2) 56 0, version := wbits (w 3) 31 0, lag := wbits (w 3) 63 32, smpseq := 0, inserts := 0, draws := 0,
                    gones := 0, slots := [], dying := none, stale := [] }
  (wbits (w 0) 10 9, wbits (w 0) 14 11, p, decide (p.lcap ≤ 24 ∧ p.maxsteps ≤ 65536 ∧ p.obs ≤ 65536 ∧ p.obs % 64 = 0 ∧ p.base % 65536 = 0))

/-- A PONDCFG packet that is wrong in form. -/
def pondBad (ws : List Word) : Bool :=
  wbit (pword ws 0) 15 || wbits (pword ws 0) 63 54 != 0 || wbits (pword ws 1) 63 17 != 0 || wbits (pword ws 2) 63 57 != 0 || !zeroFrom ws 4

/-- Whether a store's region lies wholly in the DRAM of a die (R356). -/
def State.pondFits (s : State) (d : Nat) (p : Pond) : Bool :=
  devOf p.base == s.devid.toNat && match regionOf (localOf p.base) with
    | .dram d' o => d' == d && decide (o + p.bytes ≤ 0x3000000000)
    | _ => false

/-- Sectors of a run that home caches or memory-side caches hold dirty bytes of. -/
def State.dirtyIn (s : State) (pa n : Nat) : List Nat :=
  (((s.homeDirty ++ s.mscDirty).map fun (c : Nat × Byte) => c.1 / 64).filter fun q => decide (pa ≤ q * 64 ∧ q * 64 < pa + n)).eraseDups

/-- PONDCFG (R356, R357, R413): a store is installed, or refused with CODE 6. -/
def execPondcfg (q : Nat) (s : State) : Host.Outcome State Fault Refusal :=
  match s.typed q 6 with
  | none => .next s
  | some (i, ws) =>
    let (d, t, p, ok) := pondOf ws
    if pondBad ws then .next (s.badPacket q i)
    else if wbit (pword ws 0) 8 then .next s
    else if !ok || (s.pond d t).isSome || !s.pondFits d p then .next (s.finish q i 2 6)
    else
      let s := s.settleAll
      .next (((s.setPond d t { p with stale := s.dirtyIn p.base p.bytes }).pinLeaves p).finish q i 0 0)

/-- PONDCFG_DESTROY (R356, R413): a store is to go; one that does not exist answers CODE 7. -/
def execPondcfgDestroy (q : Nat) (s : State) : Host.Outcome State Fault Refusal :=
  match s.typed q 6 with
  | none => .next s
  | some (i, ws) =>
    let (d, t, _, _) := pondOf ws
    if pondBad ws || !wbit (pword ws 0) 8 then .next s
    else match s.pond d t with
      | none => .next (s.finish q i 2 7)
      | some p =>
        if p.dying.isSome then .next s
        else .next ((s.setPond d t { p with dying := some q }).modQueue q fun x => { x with busy := some i })

/-- The holds of operations still to complete on a store that is gone go with it (R356, R360). -/
def State.forgetHolds (s : State) (d t : Nat) : State :=
  { s with cores := s.cores.map fun (k : Nat × Core) => (k.1, { k.2 with ops := k.2.ops.map fun (o : EngOp) =>
      if o.eng == 4 then { o with res := o.res.map fun r => { r with holds := r.holds.filter fun h => h / 2 ^ 24 != d * 16 + t } } else o }) }

/-- POND_DESTROY (R356): the store's leaf rows are demoted, its region is released, and the destroy packet completes. -/
def execPondDestroy (die store : Nat) (s : State) : Host.Outcome State Fault Refusal :=
  match s.pond die store with
  | none => .next s
  | some p => match p.dying with
    | none => .next s
    | some q =>
      if !s.mayRecord q then .next s
      else
        -- what has come due was refused its region while the store existed (R147, R357, R419)
        let s := (s.settleAll.demoteLeaves p).modDie die fun x => { x with ponds := tdel x.ponds store }
        let s := s.forgetHolds die store
        match (s.queue q).busy with
        | some i => .next (s.finish q i 0 0)
        | none => .next s

/-! RESYNC (R414; the widths and order of the fields it leaves open are log 22) -/

/-- The summary's 32 bytes for a die. -/
def State.dieSummary (s : State) (d : Nat) : List Byte :=
  let x := s.die d
  let runs := s.launches.countP fun l => l.2.st == .running && l.2.cores_.any fun c => dieOf c == d
  natLe (s.tustat x).toNat 8 ++ natLe x.tstep.toNat 4 ++ natLe runs 4 ++ natLe (x.fq.countP fun e => e.2.open_) 4
    ++ natLe ((256 - x.bars.length) + (64 - x.wps.length) * 2 ^ 16) 4 ++ List.replicate 8 0

/-- The summary's 24 bytes for a priority. -/
def State.prioSummary (s : State) (p : Nat) : List Byte :=
  match s.launches.find? fun l => l.2.st == .running && l.2.prio == p with
  | some (_, l) => natLe l.lid.toNat 8 ++ natLe l.gen.toNat 8 ++ natLe l.q 8
  | none => List.replicate 24 0

/-- The 256 bytes of the summary. -/
def State.summary (s : State) : List Byte :=
  natLe (s.devid.toNat + (if s.inDom then 2 ^ 11 else 0) + (if s.gm then 2 ^ 12 else 0) + if s.alarm then 2 ^ 13 else 0) 8
    ++ natLe (s.failed.toNat + s.links.toNat * 2 ^ 16) 8 ++ (List.range 4).flatMap s.dieSummary
    ++ (List.range 4).flatMap (fun d => natLe ((s.die d).ponds.foldl (fun n p => n + 2 ^ p.1) 0) 2)
    ++ natLe s.extents.length 8 ++ (List.range 4).flatMap s.prioSummary

/-- RESYNC (R414). -/
def execResync (q : Nat) (s : State) : Host.Outcome State Fault Refusal :=
  match s.typed q 7 with
  | none => .next s
  | some (i, ws) =>
    let a := pword ws 1
    if wbits (pword ws 0) 63 8 ≠ 0 || wbits a 62 57 ≠ 0 || wbits a 5 0 ≠ 0 || !zeroFrom ws 2 then .next (s.badPacket q i)
    else if s.hostWaits a then .next s
    else .next ((s.hostPut a s.summary).finish q i 0 0)

/-! Registers that the host writes (R409, R418) -/

/-- QTAIL (R410). -/
def execQtail (q : Nat) (v : Word) (s : State) : Host.Outcome State Fault Refusal :=
  if q < 256 then .next (s.modQueue q fun x => { x with tail := wbits v 16 0 }) else .next s

/-- A write of QCFG (R409): size and priority change only while the queue is disabled; bit 16 enables and disables it. DESIGN CHOICE (log 74):
a size above 16 is not taken. -/
def Queue.writeCfg (x : Queue) (v : Word) : Queue :=
  if wbit x.cfg 16 then { x with cfg := if wbit v 16 then x.cfg else x.cfg &&& 0x31F }
  else if 16 < wbits v 4 0 then x
  else { x with cfg := v &&& 0x1031F }

/-- QCFG (R409). -/
def execQcfg (q : Nat) (v : Word) (s : State) : Host.Outcome State Fault Refusal :=
  if q < 256 then .next (s.modQueue q fun x => x.writeCfg v) else .next s

/-- TCAP (R418). -/
def execTcap (die : Nat) (v : Word) (s : State) : Host.Outcome State Fault Refusal := .next (s.modDie die fun x => x.writeCap v)

/-- The fields of QBASE and QCOMP: bit 63 and a physical address with its low bits zero. -/
def ringMask (v : Word) (low : Nat) : Word := w64 ((if wbit v 63 then 2 ^ 63 else 0) + wbits v 56 0 / low * low)

/-- A register of a queue as the host reads it (R409); an undefined offset reads zero. -/
def Queue.read (x : Queue) (o : Nat) : Word :=
  match o with
  | 0x00 => x.base
  | 0x08 => x.cfg
  | 0x10 => x.comp
  | 0x18 => w64 x.head
  | 0x20 => w64 x.tail
  | 0x28 => w64 x.level
  | _ => 0

/-- A write of a queue's register by the host (R409); QHEAD, QLEVEL and undefined offsets discard it. -/
def Queue.write (x : Queue) (o : Nat) (v : Word) : Queue :=
  match o with
  | 0x00 => { x with base := ringMask v 64 }
  | 0x08 => x.writeCfg v
  | 0x10 => { x with comp := ringMask v 32 }
  | 0x20 => { x with tail := wbits v 16 0 }
  | _ => x

/-- REGISTER_WRITE (R17, R409): a write of a control register by its physical address, or, below 0x2_0000, of a queue register by its
BAR0 offset. Read-only registers discard it. -/
def execRegisterWrite (pa : Nat) (v : Word) (s : State) : Host.Outcome State Fault Refusal :=
  if pa % 8 ≠ 0 then .next s
  else if 0x10000 ≤ pa ∧ pa < 0x14000 then
    let q := (pa - 0x10000) / 64
    if pa % 64 = 0 ∨ pa % 64 = 0x10 then .next (s.modQueue q fun x => x.write (pa % 64) v) else .next s
  else if devOf pa = s.devid.toNat then .next (s.writeControl pa v) else .next s

/-! Accesses of the host (R136) -/

/-- Performed in naturally aligned pieces of at most eight bytes. -/
def State.hostWrites (s : State) : Nat → Nat → List Byte → State
  | 0, _, _ => s
  | f + 1, pa, bs =>
    if bs.isEmpty then s
    else
      let k := min bs.length (8 - pa % 8)
      ((s.settleBoth pa).perform pa (bs.take k)).hostWrites f (pa + k) (bs.drop k)

/-- A read of the host is answered: none when no bytes can be returned. -/
def State.answerHost (s : State) (pa : Nat) (r : Option (List Byte)) : State := { s with hostReads := s.hostReads ++ [(pa, r)] }

/-- An access of the host to BAR0 (R409): the queue registers, eight aligned bytes at a time; nothing else is there. -/
def State.barAccess (s : State) (wr : Bool) (o : Nat) (data : List Byte) : State :=
  let q := (o - 0x10000) / 64
  let here := decide (0x10000 ≤ o ∧ q < 256) && o % 8 == 0 && data.length == 8
  if wr then (if here then s.modQueue q fun x => x.write (o % 64) (w64 (leNat data)) else s)
  else s.answerHost (2 ^ 57 + o) (if here then some (natLe ((s.queue q).read (o % 64)).toNat 8) else none)

/-- HOST_ACCESS (R136, R409): a read or write of the host, performed at the home; a read returns as many bytes as `data` has. Control space takes
aligned eight-byte accesses (R17). DESIGN CHOICE (log 72): in this operand the offsets of BAR0 stand above every physical address. -/
def execHostAccess (wr : Bool) (pa : Nat) (data : List Byte) (s : State) : Host.Outcome State Fault Refusal :=
  if 2 ^ 57 ≤ pa then .next (s.barAccess wr (pa - 2 ^ 57) data)
  else if (regionOf (localOf pa)).isControl && devOf pa == s.devid.toNat then
    let whole := pa % 8 == 0 && data.length == 8
    .next (if wr then (if whole then s.writeControl pa (w64 (leNat data)) else s)
      else s.answerHost pa (if whole then some (natLe (s.readControl pa).toNat 8) else none))
  else if s.farWaits pa then .next s
  else if wr then .next (s.hostWrites data.length pa data)
  else
    let (r, s) := s.readSpan pa data.length
    .next (s.answerHost pa r)

/-! Power (R140, R418) -/

/-- THROTTLE_STEP_CHANGE (R140, R418): never to a step faster than the cap. -/
def execThrottleStepChange (die : Nat) (stp : BitVec 2) (s : State) : Host.Outcome State Fault Refusal :=
  .next (s.modDie die fun x => if x.tcap.toNat ≤ stp.toNat then { x with tstep := stp } else x)

/-! CXL capacity (R37 to R39) -/

/-- The physical address of a window offset. -/
def State.cxlBase (s : State) (off : Nat) : Nat := s.devid.toNat * 2 ^ 46 + 0x300000000000 + off

/-- The bytes a leaf maps: first physical address and size. -/
def leafSpan (w : Word) (level : Nat) : Nat × Nat :=
  (wbits w 56 16 * 2 ^ 16, if level = 0 then 2 ^ 16 else if level = 1 then 2 ^ 21 else 2 ^ 30)

/-- Whether two runs of bytes meet. -/
def runsMeet (a b : Nat × Nat) : Bool := decide (a.1 < b.1 + b.2 ∧ b.1 < a.1 + a.2)

/-- Mark an entry invalid. -/
def State.killEntry (s : State) (pa : Nat) (w : Word) : State :=
  let w' := w &&& ~~~1#64
  if (regionOf (localOf pa)).isControl && devOf pa == s.devid.toNat then s.writeControl pa w' else s.perform pa (natLe w'.toNat 8)

/-- Mark invalid every leaf under a table that maps bytes of a run (R37). -/
def State.killLeaves (run : Nat × Nat) : Nat → Nat → State → State
  | 0, table, s => (List.range 32).foldl (fun s i =>
      match s.readEntry (table + 8 * i) with
      | (some w, s) => if entryOf w 0 == .leaf && runsMeet (leafSpan w 0) run then s.killEntry (table + 8 * i) w else s
      | (none, s) => s) s
  | l + 1, table, s => (List.range 512).foldl (fun s i =>
      match s.readEntry (table + 8 * i) with
      | (some w, s) => match entryOf w (l + 1) with
        | .leaf => if runsMeet (leafSpan w (l + 1)) run then s.killEntry (table + 8 * i) w else s
        | .pointer next => State.killLeaves run l next s
        | _ => s
      | (none, s) => s) s

/-- The contexts that a walk can be made in: the valid ones, and those that launches run in (R19, log 40). -/
def State.contexts (s : State) : List Nat :=
  ((s.ctxTab.filter fun (c : Nat × Word) => ctxValid c.2).map (fun (c : Nat × Word) => c.1)
    ++ s.launches.map fun (q : Nat × Launch) => q.2.ctx).eraseDups

/-- Step 1 of a release: every leaf marked invalid, and every die's TLBs without it (R37). -/
def State.unmap (s : State) (run : Nat × Nat) : State :=
  let s := s.contexts.foldl (fun s c => State.killLeaves run 4 (s.rootOf c) s) s
  (List.range 4).foldl (fun s d => s.tlbDrop d fun e => runsMeet (leafSpan e.leaf e.level) run) s

/-- Write back and drop every cached line of a run (R37). -/
def State.flushRun (s : State) (run : Nat × Nat) : State :=
  let mine (n : Nat) : Bool := runsMeet (n * 256, 256) run
  let s := (List.range 4).foldl (fun s d => (((s.die d).rdc.map fun (p : Nat × RdcLine) => p.1).filter mine).foldl (fun s n => s.rdcDrop d n) s)
    s.settleAll
  ((s.homeLines ++ s.mscLines).filter mine).foldl State.lineOut s

/-- Drop every cached line of a run, its dirty bytes lost (R38). -/
def State.loseRun (s : State) (run : Nat × Nat) : State :=
  let mine (n : Nat) : Bool := runsMeet (n * 256, 256) run
  let s := s.settleAll
  let s : State := { s with
    dies := s.dies.map fun (x : Die) => { x with rdc := x.rdc.filter fun p => !mine p.1 }
    badWords := s.badWords.filter fun w => !mine (w.2 / 32) }
  ((s.homeLines ++ s.mscLines).filter mine).foldl State.lineLost s

/-- CXL_RELEASE (R37): steps 1 and 2. -/
def execCxlRelease (base size : Nat) (s : State) : Host.Outcome State Fault Refusal :=
  if s.extents.contains (base, size) && !s.cxlRels.any (fun r => r.base == base && r.size == size) then
    let run := (s.cxlBase base, size)
    .next { (s.unmap run).flushRun run with cxlRels := s.cxlRels ++ [⟨base, size, false⟩] }
  else .next s

/-- Whether an access translated before an invalidation still may have to be performed in a run (R28): it is in a FIFO or in a calendar, or a
strand that has leapt has it to make. -/
def State.pendingIn (s : State) (run : Nat × Nat) : Bool :=
  let due (e : CalEntry) : Bool := runsMeet (e.acc.pa, e.data.length) run
  (s.cores.any fun k => k.2.cal.any due || k.2.calWait.any due
    || (k.2.slots.toList.any fun x => x.fifo.any fun e => runsMeet (e.acc.pa, e.data.length) run))
    || s.leaping fun _ => true

/-- An extent is given back. -/
def State.withdrawExtent (s : State) (base size : Nat) : State :=
  { s with
    cxlRels := s.cxlRels.filter fun r => !(r.base == base && r.size == size)
    extents := s.extents.filter (· != (base, size)) }

/-- CXL_RELEASE_ACK (R37): once every write has been performed at the CXL device, the capacity is withdrawn. -/
def execCxlReleaseAck (base size : Nat) (s : State) : Host.Outcome State Fault Refusal :=
  let run := (s.cxlBase base, size)
  if s.cxlRels.contains ⟨base, size, false⟩ && !s.pendingIn run then .next ((s.flushRun run).withdrawExtent base size) else .next s

/-- CXL_FORCED_RELEASE (R38): the leaves go, and when the invalidation has completed (R28), at once or at a later turn, cached bytes are
dropped and the capacity is withdrawn. -/
def execCxlForcedRelease (base size : Nat) (s : State) : Host.Outcome State Fault Refusal :=
  if s.extents.contains (base, size) then
    let run := (s.cxlBase base, size)
    let s : State := if s.cxlRels.contains ⟨base, size, true⟩ then s else
      { s.unmap run with cxlRels := s.cxlRels.filter (· != ⟨base, size, false⟩) ++ [⟨base, size, true⟩] }
    .next (if s.pendingIn run then s else (s.loseRun run).withdrawExtent base size)
  else .next s

/-! Links (R114, R351, R415) -/

/-- Destinations become absent: their undelivered far stores are discarded, and begun collectives with them stop. -/
def State.loseDevices (s : State) (lost : List Nat) : State :=
  let dead (p : Posted) : Bool := match p.op with
    | .store e => (match e.acc.place with | .device d _ => lost.contains d | _ => false)
    | _ => false
  let gone := s.posted.filter dead
  let s := gone.foldl State.ackStore s
  { s with
    reach := s.reach.filter fun d => !lost.contains d
    posted := s.posted.filter fun p => !dead p
    linkErr := s.linkErr + w64 gone.length
    cores := s.cores.map fun (k : Nat × Core) => (k.1, { k.2 with ops := k.2.ops.map fun (o : EngOp) =>
      let with_ := match o.res with
        | some r => r.holds.any lost.contains
        | none => match o.comb with | some b => b.far.any fun f => lost.contains f.dev | none => false
      if o.eng == 3 && o.cancel.isNone && with_ then { o with cancel := some 1 } else o }) }

/-- LINK_FAILURE (R415): a link and the devices that its loss leaves without a path; routes are recomputed. -/
def execLinkFailure (lost : Nat × List Nat) (s : State) : Host.Outcome State Fault Refusal :=
  if s.links.getLsbD lost.1 then .next { s.loseDevices lost.2 with links := s.links &&& ~~~(1#18 <<< lost.1), reroute := true } else .next s

/-- REROUTE_COMPLETE (R415). -/
def execRerouteComplete (s : State) : Host.Outcome State Fault Refusal := .next { s with reroute := false }

/-- A memory with this device's cells under another device number, and those of that number dropped. -/
def rekey (old new : Nat) (m : Memory) : Memory :=
  let others := m.filter fun c => devOf c.1 != old && devOf c.1 != new
  (m.filter fun c => devOf c.1 == old).foldl (fun m c => mput m (new * 2 ^ 46 + localOf c.1) c.2) others

/-- An address of this device under another device number. -/
def renumber (old new a : Nat) : Nat := if devOf a = old then new * 2 ^ 46 + localOf a else a

/-- DOMAIN_BRINGUP (R6, R16, R141, R415): the service cores number the device and set its routes while nothing of a launch, a pond or a calendar
exists. Its dies now lock to another reference, the grandmaster's own apart, whose reference is the domain's. -/
def execDomainBringup (dev : BitVec 11) (reach : List Nat) (gm : Bool) (s : State) : Host.Outcome State Fault Refusal :=
  let busy := !s.launches.isEmpty || !s.posted.isEmpty || s.dies.any (fun (x : Die) => !x.ponds.isEmpty)
    || s.cores.any fun k => !k.2.cal.isEmpty || !k.2.calWait.isEmpty || !k.2.loads.isEmpty
  if 1536 ≤ dev.toNat || busy then .next s
  else
    let old := s.devid.toNat
    let s := s.releaseAll.settleAll
    let s := (s.homeLines ++ s.mscLines).foldl State.lineOut s
    .next { s with
      mem := if old = dev.toNat then s.mem else rekey old dev.toNat s.mem
      clean := ⟨[], [], []⟩
      badSectors := s.badSectors.map (renumber old dev.toNat), badFar := s.badFar.map (renumber old dev.toNat), badWords := []
      dies := s.dies.map fun (x : Die) =>
        if gm then { x with rdc := [], tlb := [], dom := x.lock == .locked }
        else { x with rdc := [], tlb := [], lock := .free, good := 0, aim := 0, dom := false }
      cores := s.cores.map fun (k : Nat × Core) => (k.1, { k.2 with tlb := [], fetchBuf := [], histAt := 0 })
      fars := s.fars.filter fun f => f.1 / 4 != dev.toNat
      devid := dev, inDom := true, gm := gm, reach := reach, ready := s.ready && gm, gmTaken := false, gmLock := false, gmGood := 0, gmBad := 0
      refAim := 0, farOld := s.farOld.filter fun c => devOf c.1 != dev.toNat }

/-! Security (R417) -/

/-- SECURITY_ALARM (R417): keys zeroised, debug locked, and under HALT every launch aborted with CODE 0 and the links down. An alarm that is
latched already has done so. -/
def execSecurityAlarm (s : State) : Host.Outcome State Fault Refusal :=
  let first := !s.alarm
  let s : State := { s with alarm := true, keys := false, debugLocked := true }
  if s.haltPolicy && first then
    let s := s.launches.foldl (fun s p =>
      (if p.2.st == .waiting then s.taken_ p.2 else s).abortLaunch p.2.key (0, 0, 0, 0)) s
    .next { s.loseDevices s.reach with links := 0, linksDown := true }
  else .next s

/-- ATTESTATION_REQUEST (R417): a record with the nonce, DEVID, LINKERR and an ALARM mark, signed while the key store holds keys
and no alarm is latched (its layout and measurements are log 21). -/
def execAttestationRequest (nonce : List Byte) (s : State) : Host.Outcome State Fault Refusal :=
  if nonce.length ≠ 32 || s.linksDown then .next s
  else .next { s with attest := s.attest ++ [(nonce ++ natLe s.devid.toNat 8 ++ natLe s.linkErr.toNat 8 ++ [if s.alarm then 1 else 0], s.keys && !s.alarm)] }

/-! Reset (R416) -/

/-- COLD_RESET (R57, R61, R65, R68, R72, R102, R139, R144, R154, R358, R416). Host memory, CXL contents and module flash stay. -/
def execColdReset (s : State) : Host.Outcome State Fault Refusal :=
  let (f, s) := s.free
  let kept := s.mem.filter fun c => devOf c.1 != s.devid.toNat || decide (0x300000000000 ≤ localOf c.1)
  .next { State.reset with
    agenda := s.agenda, tick := s.tick, hostMem := s.hostMem, hostReads := s.hostReads, extents := s.extents, haltPolicy := s.haltPolicy
    mem := rekey s.devid.toNat 0 kept, farOld := s.farOld.filter fun c => devOf c.1 != 0
    fars := s.fars.map fun (f : Nat × Far) => (f.1, { f.2 with wait := [], loads := [] })
    darns := s.darnFlash, darnFlash := s.darnFlash, failed := BitVec.ofNat 16 f }

/-- A core after warm reset: its slots' generations stay (R155). -/
def Core.warm (k : Core) : Core := { Core.reset with slots := k.slots.map Strand.vacate }

/-- A die after warm reset (R139, R144, R358, R416). Records of its fault queue stay (log 21). DESIGN CHOICE (log 76): OFFS and GM stay as well. -/
def Die.warm (x : Die) : Die :=
  { x with
    lock := .free, good := 0, bad := 0, aim := 0, dom := false, walks := [], fqWait := [], rdc := [], bars := [], wps := [], ponds := []
    fq := x.fq.map fun (p : Nat × FqRec) => (p.1, { p.2 with waiters := 0 }) }

/-- A channel after warm reset (R57, R61, R69). DESIGN CHOICE (log 70): the running shadow counts and the beats of the window are cleared, the
counts of the last completed window stay. -/
def Channel.warm (c : Channel) : Channel :=
  { c with
    banks := [], pred := [], cur := 0, pcode := 0, pin := false, pend := none, armed := none
    shadow := [0, 0, 0, 0], beats := 0, streak := none }

/-- WARM_RESET (R69, R72, R102, R139, R154, R358, R416). -/
def execWarmReset (s : State) : Host.Outcome State Fault Refusal :=
  let s := s.releaseAll.settleAll
  let s := (s.homeLines ++ s.mscLines).foldl State.lineOut s
  let mine (a : Nat) : Bool := devOf a == s.devid.toNat && match regionOf (localOf a) with | .spad _ _ => true | _ => false
  .next { s with
    cur := (0, 0)
    mem := s.mem.filter fun c => !mine c.1
    badSectors := s.badSectors.filter fun a => !mine a
    badWords := []
    clean := ⟨[], [], []⟩
    fars := s.fars.map fun (f : Nat × Far) => (f.1, { f.2 with loads := [] })
    reroute := false, cxlRels := [], keys := true, ready := false, gmLock := false, gmGood := 0, gmBad := 0, refAim := 0, launches := []
    dram := []
    queues := s.queues.map fun (p : Nat × Queue) => (p.1, { p.2 with cfg := p.2.cfg &&& 0x31F, head := p.2.tail, busy := none, open_ := [] })
    dies := s.dies.map Die.warm
    chans := s.chans.map fun (p : Nat × Channel) => (p.1, p.2.warm)
    cores := s.cores.map fun (p : Nat × Core) => (p.1, p.2.warm)
    posted := [], pushes := [], comps := [], joins := [], spawns := [], notices := [], leaps := [] }

end Sys2Proof.Machine
end

