-- ==== Sys2Proof/Machine/TileForms.lean ====
section
/-! DEFINITION. The forms that name tiles and rings (R319 to R325). -/

namespace Sys2Proof.Machine

/-- Apply what a change of tiles or rings lets happen at once on the performing core (R79, R337). -/
def settleMine : M Unit := modify fun s => s.settleCore s.cur.1

/-- A strand form that names a tile whose SIZE is 0 takes PROT (R75). -/
def needTile (t : BitVec 6) : M Word := do
  let w := (← myCore).tile t.toNat
  if tileSize w = 0 then trap causeProt (zext64 t) else pure w

/-- TSET and TMARK wait while the tile carries an owner mark (R74). -/
def unowned (t : BitVec 6) : M Unit := do
  if (← myCore).owned t.toNat then park (.tile t.toNat) else pure ()

/-- TSET (R320). -/
def execTset (a : BitVec 5) (t : BitVec 6) (s : State) := instr (do
  let v ← readG a.toNat
  if !(← me).fifo.isEmpty then park .fifoEmpty
  unowned t
  if !tileOk v then trap causeProt v
  modCore fun k => k.putTile t.toNat v
  settleMine
  pure .next) s

/-- TSTATE (R320). -/
def execTstate (d : BitVec 5) (t : BitVec 6) (s : State) := instr (do
  let w ← needTile t
  writeG d.toNat w
  pure .next) s

/-- TWAIT (R320). -/
def execTwait (a : BitVec 5) (t : BitVec 6) (s : State) := instr (do
  let v ← readG a.toNat
  let w ← needTile t
  if tileState w = wbits v 1 0 then pure .next else park (.tile t.toNat)) s

/-- TMARK (R324). -/
def execTmark (a : BitVec 5) (t : BitVec 6) (s : State) := instr (do
  let v ← readG a.toNat
  let w ← needTile t
  unowned t
  match tileState w, wbits v 1 0 with
  | 0, 1 => modCore fun k => k.markTile t.toNat 1 false false
  | 1, 2 => do
    release 0
    modCore fun k => k.markTile t.toNat 2 (wbit v 2) false
  | 2, 0 => modCore fun k => k.markTile t.toNat 0 false false
  | _, _ => trap causeProt (zext64 t)
  settleMine
  pure .next) s

/-- Whether an operation waiting or running names a ring (R321). -/
def EngOp.namesRing (o : EngOp) (r : Nat) : Bool :=
  match o.eng with
  | 0 => decide (o.cmd ≤ 11) && o.mmaRings.contains r
  | 1 => (o.dkind == 2 && o.dt_ == r) || (o.cmd != 1 && o.skind == 2 && o.st_ == r)
  | 4 => o.cmd == 4 && o.pRing && o.pTile == r
  | _ => false

/-- Whether a value can be a ring descriptor (R321). -/
def ringOk (w : Word) : Bool :=
  wbits w 63 27 == 0 && decide (ringFirst w + ringCount w ≤ 64)
    && (ringCount w == 0 || decide (ringHead w < 2 * ringCount w ∧ ringTail w < 2 * ringCount w))

/-- TRING (R321). The withdrawn positions of the old ring go with it (log 16). -/
def execTring (a : BitVec 5) (r : BitVec 4) (s : State) := instr (do
  let v ← readG a.toNat
  if !ringOk v then trap causeProt v
  let k ← myCore
  if k.ops.any (·.namesRing r.toNat) then park (.ring r.toNat)
  modCore fun k =>
    let w := k.ring r.toNat
    let k := { k with rings := vset k.rings r.toNat v, ringWd := k.ringWd.filter fun p => p.1 != r.toNat }
    if ringHead w == ringHead v && ringTail w == ringTail v then k else k.signal 4
  pure .next) s

/-- The report of RINGHD and RINGTL: tile and descriptor before the operation (R322). -/
def ringReport (w : Word) (pos : Nat) : Word := w64 (ringTile w pos * 2 ^ 32 + wbits w 26 0)

/-- A ring whose COUNT is 0 takes PROT (R78). -/
def needRing (r : BitVec 4) : M Word := do
  let w := (← myCore).ring r.toNat
  if ringCount w = 0 then trap causeProt (zext64 r) else pure w

/-- RINGHD (R322). -/
def execRinghd (d a : BitVec 5) (r : BitVec 4) (s : State) := instr (do
  let v ← readG a.toNat
  let w ← needRing r
  if wbit v 0 then do
    let k ← myCore
    let t := k.headTile r.toNat
    if ringHead w = ringTail w || tileState (k.tile t) ≠ 2 || k.owned t then park (.ring r.toNat)
    modCore fun k => k.popRing r.toNat
    settleMine
  writeG d.toNat (ringReport w (ringHead w))
  pure .next) s

/-- RINGTL (R322). -/
def execRingtl (d a : BitVec 5) (r : BitVec 4) (s : State) := instr (do
  let v ← readG a.toNat
  let w ← needRing r
  if wbit v 0 then do
    let k ← myCore
    let t := ringTile w (ringTail w)
    if ringHeld w = ringCount w || tileState (k.tile t) ≠ 0 || k.owned t then park (.ring r.toNat)
    modCore fun k => (k.markTile t 1 false false).advTail r.toNat
    settleMine
  writeG d.toNat (ringReport w (ringTail w))
  pure .next) s

/-- The checks of VLDT and VSTT in their order, then the gate on READY (R323): the tile's bytes as an access. -/
def tileAccess (t : BitVec 6) (off : Word) : M Access := do
  let w ← needTile t
  if off.toNat % 32 ≠ 0 then trap causeMisalign off
  if tileSize w < off.toNat + 32 then trap causeProt off
  if tileState w ≠ 2 then park (.tile t.toNat)
  let s ← get
  pure ⟨s.tileAddr s.cur.1 t.toNat off.toNat, .core s.cur.1, 0, false⟩

/-- VLDT (R323). -/
def execVldt (d : BitVec 4) (a : BitVec 5) (t : BitVec 6) (s : State) := instr (do
  let off ← readG a.toNat
  let x ← tileAccess t off
  loadTail x 32 (.v d.toNat)) s

/-- VSTT (R323). Its FIFO entry has no virtual address, so that no peg and no engine range meets it. -/
def execVstt (d : BitVec 4) (a : BitVec 5) (t : BitVec 6) (s : State) := instr (do
  let off ← readG a.toNat
  let v ← readV d.toNat
  let x ← tileAccess t off
  predict x
  if 8 ≤ (← me).fifo.length then park .fifoFull
  modMe fun z => { z with fifo := z.fifo ++ [⟨2 ^ 57, 65536, x, natLe v.toNat 32, none, false, false, none⟩] }
  pure .next) s

end Sys2Proof.Machine
end

