-- ==== Sys2Proof/Machine/Dispatch.lean ====
section
/-! DEFINITION. The meaning of every instruction and of every step of the device: one arm for each constructor. -/

namespace Sys2Proof.Machine

/-- What an instruction, or a step of the device, does (the opcode table). -/
def exec (i : Instr) (s : State) : Host.Outcome State Fault Refusal :=
  match i with
  | .trap k => Sys2Proof.Machine.execTrap k s
  | .eret => Sys2Proof.Machine.execEret s
  | .mfs d sc => Sys2Proof.Machine.execMfs d sc s
  | .mts a sc => Sys2Proof.Machine.execMts a sc s
  | .mfk d k => Sys2Proof.Machine.execMfk d k s
  | .mtk k a => Sys2Proof.Machine.execMtk k a s
  | .cctlWb a => Sys2Proof.Machine.execCctlWb a s
  | .cctlInv a => Sys2Proof.Machine.execCctlInv a s
  | .cctlDrop a => Sys2Proof.Machine.execCctlDrop a s
  | .cctlFlash => Sys2Proof.Machine.execCctlFlash s
  | .cctlIinv => Sys2Proof.Machine.execCctlIinv s
  | .tlbinv a b l k => Sys2Proof.Machine.execTlbinv a b l k s
  | .brk k => Sys2Proof.Machine.execBrk k s
  | .waitev d a => Sys2Proof.Machine.execWaitev d a s
  | .add d a b => Sys2Proof.Machine.execAdd d a b s
  | .sub d a b => Sys2Proof.Machine.execSub d a b s
  | .and d a b => Sys2Proof.Machine.execAnd d a b s
  | .or d a b => Sys2Proof.Machine.execOr d a b s
  | .xor d a b => Sys2Proof.Machine.execXor d a b s
  | .sll d a b => Sys2Proof.Machine.execSll d a b s
  | .srl d a b => Sys2Proof.Machine.execSrl d a b s
  | .sra d a b => Sys2Proof.Machine.execSra d a b s
  | .slt d a b => Sys2Proof.Machine.execSlt d a b s
  | .sltn d a b => Sys2Proof.Machine.execSltn d a b s
  | .min d a b => Sys2Proof.Machine.execMin d a b s
  | .max d a b => Sys2Proof.Machine.execMax d a b s
  | .minn d a b => Sys2Proof.Machine.execMinn d a b s
  | .maxn d a b => Sys2Proof.Machine.execMaxn d a b s
  | .mul d a b => Sys2Proof.Machine.execMul d a b s
  | .mulh d a b => Sys2Proof.Machine.execMulh d a b s
  | .mulhn d a b => Sys2Proof.Machine.execMulhn d a b s
  | .div d a b => Sys2Proof.Machine.execDiv d a b s
  | .divn d a b => Sys2Proof.Machine.execDivn d a b s
  | .rem d a b => Sys2Proof.Machine.execRem d a b s
  | .remn d a b => Sys2Proof.Machine.execRemn d a b s
  | .clz d a => Sys2Proof.Machine.execClz d a s
  | .ctz d a => Sys2Proof.Machine.execCtz d a s
  | .popc d a => Sys2Proof.Machine.execPopc d a s
  | .sel d a b c => Sys2Proof.Machine.execSel d a b c s
  | .addsh d a b sc => Sys2Proof.Machine.execAddsh d a b sc s
  | .addi d a imm => Sys2Proof.Machine.execAddi d a imm s
  | .andi d a imm => Sys2Proof.Machine.execAndi d a imm s
  | .ori d a imm => Sys2Proof.Machine.execOri d a imm s
  | .xori d a imm => Sys2Proof.Machine.execXori d a imm s
  | .slti d a imm => Sys2Proof.Machine.execSlti d a imm s
  | .slli d a n => Sys2Proof.Machine.execSlli d a n s
  | .srli d a n => Sys2Proof.Machine.execSrli d a n s
  | .srai d a n => Sys2Proof.Machine.execSrai d a n s
  | .ext d a p l => Sys2Proof.Machine.execExt d a p l s
  | .ins d a p l => Sys2Proof.Machine.execIns d a p l s
  | .ldi d imm => Sys2Proof.Machine.execLdi d imm s
  | .ldhi d imm => Sys2Proof.Machine.execLdhi d imm s
  | .ldxh d imm => Sys2Proof.Machine.execLdxh d imm s
  | .beq a b o => Sys2Proof.Machine.execBeq a b o s
  | .bne a b o => Sys2Proof.Machine.execBne a b o s
  | .blt a b o => Sys2Proof.Machine.execBlt a b o s
  | .bge a b o => Sys2Proof.Machine.execBge a b o s
  | .bltn a b o => Sys2Proof.Machine.execBltn a b o s
  | .bgen a b o => Sys2Proof.Machine.execBgen a b o s
  | .jmp o => Sys2Proof.Machine.execJmp o s
  | .call o => Sys2Proof.Machine.execCall o s
  | .jr a => Sys2Proof.Machine.execJr a s
  | .callr a => Sys2Proof.Machine.execCallr a s
  | .ret => Sys2Proof.Machine.execRet s
  | .ldb d a imm => Sys2Proof.Machine.execLdb d a imm s
  | .ldbn d a imm => Sys2Proof.Machine.execLdbn d a imm s
  | .ldh d a imm => Sys2Proof.Machine.execLdh d a imm s
  | .ldhn d a imm => Sys2Proof.Machine.execLdhn d a imm s
  | .ldw d a imm => Sys2Proof.Machine.execLdw d a imm s
  | .ldwn d a imm => Sys2Proof.Machine.execLdwn d a imm s
  | .ldd d a imm => Sys2Proof.Machine.execLdd d a imm s
  | .stb b a imm => Sys2Proof.Machine.execStb b a imm s
  | .sth b a imm => Sys2Proof.Machine.execSth b a imm s
  | .stw b a imm => Sys2Proof.Machine.execStw b a imm s
  | .std b a imm => Sys2Proof.Machine.execStd b a imm s
  | .vld d a imm => Sys2Proof.Machine.execVld d a imm s
  | .vst b a imm => Sys2Proof.Machine.execVst b a imm s
  | .fldd d a imm => Sys2Proof.Machine.execFldd d a imm s
  | .flds d a imm => Sys2Proof.Machine.execFlds d a imm s
  | .fstd b a imm => Sys2Proof.Machine.execFstd b a imm s
  | .fsts b a imm => Sys2Proof.Machine.execFsts b a imm s
  | .ldx d a b h n sc => Sys2Proof.Machine.execLdx d a b h n sc s
  | .stx d a b h sc => Sys2Proof.Machine.execStx d a b h sc s
  | .ldt d a b n sc => Sys2Proof.Machine.execLdt d a b n sc s
  | .stt d a b sc => Sys2Proof.Machine.execStt d a b sc s
  | .promote d a p => Sys2Proof.Machine.execPromote d a p s
  | .demote d a => Sys2Proof.Machine.execDemote d a s
  | .pref a => Sys2Proof.Machine.execPref a s
  | .leap d a => Sys2Proof.Machine.execLeap d a s
  | .fence sc => Sys2Proof.Machine.execFence sc s
  | .acq sc => Sys2Proof.Machine.execAcq sc s
  | .rel sc => Sys2Proof.Machine.execRel sc s
  | .amoadd d a b r q sc => Sys2Proof.Machine.execAmoadd d a b r q sc s
  | .amoand d a b r q sc => Sys2Proof.Machine.execAmoand d a b r q sc s
  | .amoor d a b r q sc => Sys2Proof.Machine.execAmoor d a b r q sc s
  | .amoxor d a b r q sc => Sys2Proof.Machine.execAmoxor d a b r q sc s
  | .amomin d a b r q sc => Sys2Proof.Machine.execAmomin d a b r q sc s
  | .amomax d a b r q sc => Sys2Proof.Machine.execAmomax d a b r q sc s
  | .amominn d a b r q sc => Sys2Proof.Machine.execAmominn d a b r q sc s
  | .amomaxn d a b r q sc => Sys2Proof.Machine.execAmomaxn d a b r q sc s
  | .amoswap d a b r q sc => Sys2Proof.Machine.execAmoswap d a b r q sc s
  | .amocas d a b r q sc => Sys2Proof.Machine.execAmocas d a b r q sc s
  | .amofadd d a b r q sc => Sys2Proof.Machine.execAmofadd d a b r q sc s
  | .amofmax d a b r q sc => Sys2Proof.Machine.execAmofmax d a b r q sc s
  | .arrive d a => Sys2Proof.Machine.execArrive d a s
  | .waitb a b => Sys2Proof.Machine.execWaitb a b s
  | .bar a => Sys2Proof.Machine.execBar a s
  | .binit a b => Sys2Proof.Machine.execBinit a b s
  | .tsleep a => Sys2Proof.Machine.execTsleep a s
  | .wpset d a => Sys2Proof.Machine.execWpset d a s
  | .wpclr a => Sys2Proof.Machine.execWpclr a s
  | .spawn d a b => Sys2Proof.Machine.execSpawn d a b s
  | .spawnq a b c => Sys2Proof.Machine.execSpawnq a b c s
  | .fork a c => Sys2Proof.Machine.execFork a c s
  | .quit => Sys2Proof.Machine.execQuit s
  | .msg a b => Sys2Proof.Machine.execMsg a b s
  | .fill d a b => Sys2Proof.Machine.execFill d a b s
  | .empty d k => Sys2Proof.Machine.execEmpty d k s
  | .take d a k => Sys2Proof.Machine.execTake d a k s
  | .rstate d a k => Sys2Proof.Machine.execRstate d a k s
  | .await d a => Sys2Proof.Machine.execAwait d a s
  | .ftest d a => Sys2Proof.Machine.execFtest d a s
  | .fcancel a => Sys2Proof.Machine.execFcancel a s
  | .fwd d a b => Sys2Proof.Machine.execFwd d a b s
  | .pipe d a => Sys2Proof.Machine.execPipe d a s
  | .jnew d a b c => Sys2Proof.Machine.execJnew d a b c s
  | .jreg d a b c => Sys2Proof.Machine.execJreg d a b c s
  | .jval d a b imm => Sys2Proof.Machine.execJval d a b imm s
  | .jdrop d a imm => Sys2Proof.Machine.execJdrop d a imm s
  | .wchk d a imm => Sys2Proof.Machine.execWchk d a imm s
  | .jfree d a => Sys2Proof.Machine.execJfree d a s
  | .fadd d a b f => Sys2Proof.Machine.execFadd d a b f s
  | .fsub d a b f => Sys2Proof.Machine.execFsub d a b f s
  | .fmul d a b f => Sys2Proof.Machine.execFmul d a b f s
  | .fdiv d a b f => Sys2Proof.Machine.execFdiv d a b f s
  | .fma d a b c f => Sys2Proof.Machine.execFma d a b c f s
  | .fnma d a b c f => Sys2Proof.Machine.execFnma d a b c f s
  | .fsqrt d a f => Sys2Proof.Machine.execFsqrt d a f s
  | .fmin d a b f => Sys2Proof.Machine.execFmin d a b f s
  | .fmax d a b f => Sys2Proof.Machine.execFmax d a b f s
  | .feq d a b f => Sys2Proof.Machine.execFeq d a b f s
  | .flt d a b f => Sys2Proof.Machine.execFlt d a b f s
  | .fle d a b f => Sys2Proof.Machine.execFle d a b f s
  | .fsgn d a b m f => Sys2Proof.Machine.execFsgn d a b m f s
  | .fclass d a f => Sys2Proof.Machine.execFclass d a f s
  | .fexp2 d a f => Sys2Proof.Machine.execFexp2 d a f s
  | .flog2 d a f => Sys2Proof.Machine.execFlog2 d a f s
  | .fcvt d a b c => Sys2Proof.Machine.execFcvt d a b c s
  | .fcvti d a b c => Sys2Proof.Machine.execFcvti d a b c s
  | .icvtf d a b c => Sys2Proof.Machine.execIcvtf d a b c s
  | .fmvgf d a => Sys2Proof.Machine.execFmvgf d a s
  | .fmvfg d a => Sys2Proof.Machine.execFmvfg d a s
  | .frcp d a f => Sys2Proof.Machine.execFrcp d a f s
  | .frsqrt d a f => Sys2Proof.Machine.execFrsqrt d a f s
  | .scfg a n => Sys2Proof.Machine.execScfg a n s
  | .sbind r k n => Sys2Proof.Machine.execSbind r k n s
  | .sunbind r k => Sys2Proof.Machine.execSunbind r k s
  | .sstat d n => Sys2Proof.Machine.execSstat d n s
  | .vadd d a b => Sys2Proof.Machine.execVadd d a b s
  | .vsub d a b => Sys2Proof.Machine.execVsub d a b s
  | .vmul d a b => Sys2Proof.Machine.execVmul d a b s
  | .vfma d a b c => Sys2Proof.Machine.execVfma d a b c s
  | .vmin d a b => Sys2Proof.Machine.execVmin d a b s
  | .vmax d a b => Sys2Proof.Machine.execVmax d a b s
  | .vabs d a => Sys2Proof.Machine.execVabs d a s
  | .vneg d a => Sys2Proof.Machine.execVneg d a s
  | .vceq d a b => Sys2Proof.Machine.execVceq d a b s
  | .vclt d a b => Sys2Proof.Machine.execVclt d a b s
  | .vcle d a b => Sys2Proof.Machine.execVcle d a b s
  | .vsel d a b c => Sys2Proof.Machine.execVsel d a b c s
  | .vand d a b => Sys2Proof.Machine.execVand d a b s
  | .vor d a b => Sys2Proof.Machine.execVor d a b s
  | .vxor d a b => Sys2Proof.Machine.execVxor d a b s
  | .vshl d a b => Sys2Proof.Machine.execVshl d a b s
  | .vshr d a b => Sys2Proof.Machine.execVshr d a b s
  | .vsra d a b => Sys2Proof.Machine.execVsra d a b s
  | .vdiv d a b => Sys2Proof.Machine.execVdiv d a b s
  | .vsqrt d a => Sys2Proof.Machine.execVsqrt d a s
  | .vexp2 d a => Sys2Proof.Machine.execVexp2 d a s
  | .vlog2 d a => Sys2Proof.Machine.execVlog2 d a s
  | .vrcp d a => Sys2Proof.Machine.execVrcp d a s
  | .vrsqrt d a => Sys2Proof.Machine.execVrsqrt d a s
  | .vscale d a b => Sys2Proof.Machine.execVscale d a b s
  | .vbcast d a => Sys2Proof.Machine.execVbcast d a s
  | .vextr d a b => Sys2Proof.Machine.execVextr d a b s
  | .vinsr d a b => Sys2Proof.Machine.execVinsr d a b s
  | .vperm d a b => Sys2Proof.Machine.execVperm d a b s
  | .vslide d a b c => Sys2Proof.Machine.execVslide d a b c s
  | .vzip d a b h => Sys2Proof.Machine.execVzip d a b h s
  | .vunzip d a b h => Sys2Proof.Machine.execVunzip d a b h s
  | .vredsum d a => Sys2Proof.Machine.execVredsum d a s
  | .vredmax d a => Sys2Proof.Machine.execVredmax d a s
  | .vredmin d a => Sys2Proof.Machine.execVredmin d a s
  | .vmergek d a b => Sys2Proof.Machine.execVmergek d a b s
  | .vcvt d a p => Sys2Proof.Machine.execVcvt d a p s
  | .vmov d a => Sys2Proof.Machine.execVmov d a s
  | .vdot d a b c p => Sys2Proof.Machine.execVdot d a b c p s
  | .mma d a p => Sys2Proof.Machine.execMma d a p s
  | .mmv d a b => Sys2Proof.Machine.execMmv d a b s
  | .mclr d a => Sys2Proof.Machine.execMclr d a s
  | .mld d a b => Sys2Proof.Machine.execMld d a b s
  | .mst d a b => Sys2Proof.Machine.execMst d a b s
  | .copy d a b => Sys2Proof.Machine.execCopy d a b s
  | .fillt d a b => Sys2Proof.Machine.execFillt d a b s
  | .gather d a b => Sys2Proof.Machine.execGather d a b s
  | .scatter d a b => Sys2Proof.Machine.execScatter d a b s
  | .topk d a b => Sys2Proof.Machine.execTopk d a b s
  | .mergel d a b => Sys2Proof.Machine.execMergel d a b s
  | .allred d a b => Sys2Proof.Machine.execAllred d a b s
  | .bcast d a b => Sys2Proof.Machine.execBcast d a b s
  | .tjins d => Sys2Proof.Machine.execTjins d s
  | .tjapp d a b => Sys2Proof.Machine.execTjapp d a b s
  | .tjcls d a b => Sys2Proof.Machine.execTjcls d a b s
  | .tjsmp d a b => Sys2Proof.Machine.execTjsmp d a b s
  | .tjget d a b => Sys2Proof.Machine.execTjget d a b s
  | .tjpri d a b => Sys2Proof.Machine.execTjpri d a b s
  | .tjevi d a => Sys2Proof.Machine.execTjevi d a s
  | .tjver d a b => Sys2Proof.Machine.execTjver d a b s
  | .tjstat d b => Sys2Proof.Machine.execTjstat d b s
  | .eset a er => Sys2Proof.Machine.execEset a er s
  | .eget d er => Sys2Proof.Machine.execEget d er s
  | .tset a t => Sys2Proof.Machine.execTset a t s
  | .tstate d t => Sys2Proof.Machine.execTstate d t s
  | .twait a t => Sys2Proof.Machine.execTwait a t s
  | .tring a r => Sys2Proof.Machine.execTring a r s
  | .ringhd d a r => Sys2Proof.Machine.execRinghd d a r s
  | .ringtl d a r => Sys2Proof.Machine.execRingtl d a r s
  | .vldt d a t => Sys2Proof.Machine.execVldt d a t s
  | .vstt d a t => Sys2Proof.Machine.execVstt d a t s
  | .tmark a t => Sys2Proof.Machine.execTmark a t s
  | .deadline => Sys2Proof.Machine.execDeadline s
  | .withdrawn => Sys2Proof.Machine.execWithdrawn s
  | .tableWalk die => Sys2Proof.Machine.execTableWalk die s
  | .faultPostDeferred die => Sys2Proof.Machine.execFaultPostDeferred die s
  | .fqTail die v => Sys2Proof.Machine.execFqTail die v s
  | .fqReplayReplay die e => Sys2Proof.Machine.execFqReplayReplay die e s
  | .fqReplayFail die e => Sys2Proof.Machine.execFqReplayFail die e s
  | .fqReplayDeny die e => Sys2Proof.Machine.execFqReplayDeny die e s
  | .fqReplayGone die e => Sys2Proof.Machine.execFqReplayGone die e s
  | .cxlRelease base size => Sys2Proof.Machine.execCxlRelease base size s
  | .cxlReleaseAck base size => Sys2Proof.Machine.execCxlReleaseAck base size s
  | .cxlForcedRelease base size => Sys2Proof.Machine.execCxlForcedRelease base size s
  | .dramAccess pa wr lc => Sys2Proof.Machine.execDramAccess pa wr lc s
  | .autoPromotion ch bank => Sys2Proof.Machine.execAutoPromotion ch bank s
  | .refresh ch bank => Sys2Proof.Machine.execRefresh ch bank s
  | .busCodeWindowEnd ch => Sys2Proof.Machine.execBusCodeWindowEnd ch s
  | .patrolScrub ch row fixed bad => Sys2Proof.Machine.execPatrolScrub ch row fixed bad s
  | .chcodePin ch code => Sys2Proof.Machine.execChcodePin ch code s
  | .chcodeUnpin ch => Sys2Proof.Machine.execChcodeUnpin ch s
  | .remoteWordAccess core slot => Sys2Proof.Machine.execRemoteWordAccess core slot s
  | .leapArrival core slot => Sys2Proof.Machine.execLeapArrival core slot s
  | .rdcWriteback die line evict => Sys2Proof.Machine.execRdcWriteback die line evict s
  | .storeDrain core slot => Sys2Proof.Machine.execStoreDrain core slot s
  | .postedAccept idx => Sys2Proof.Machine.execPostedAccept idx s
  | .farStoreAck idx => Sys2Proof.Machine.execFarStoreAck idx s
  | .probeEcho core slot grp => Sys2Proof.Machine.execProbeEcho core slot grp s
  | .timedStoreArrival core slot => Sys2Proof.Machine.execTimedStoreArrival core slot s
  | .calendarApply core => Sys2Proof.Machine.execCalendarApply core s
  | .timedLoadArrival core slot => Sys2Proof.Machine.execTimedLoadArrival core slot s
  | .verdictReturn core slot => Sys2Proof.Machine.execVerdictReturn core slot s
  | .tsleepWake core slot => Sys2Proof.Machine.execTsleepWake core slot s
  | .timeExchange die off ok => Sys2Proof.Machine.execTimeExchange die off ok s
  | .domainJoin gmt => Sys2Proof.Machine.execDomainJoin gmt s
  | .launchStart key => Sys2Proof.Machine.execLaunchStart key s
  | .launchEnd key => Sys2Proof.Machine.execLaunchEnd key s
  | .dispatchPop core => Sys2Proof.Machine.execDispatchPop core s
  | .remotePush idx => Sys2Proof.Machine.execRemotePush idx s
  | .stealRequest core => Sys2Proof.Machine.execStealRequest core s
  | .stealReply core => Sys2Proof.Machine.execStealReply core s
  | .stealRetry core => Sys2Proof.Machine.execStealRetry core s
  | .messageStart core => Sys2Proof.Machine.execMessageStart core s
  | .fillDelivery core idx => Sys2Proof.Machine.execFillDelivery core idx s
  | .completionDelivery idx => Sys2Proof.Machine.execCompletionDelivery idx s
  | .streamElementLoad core slot str => Sys2Proof.Machine.execStreamElementLoad core slot str s
  | .withdrawalNotice idx => Sys2Proof.Machine.execWithdrawalNotice idx s
  | .joinReregistration core slot => Sys2Proof.Machine.execJoinReregistration core slot s
  | .engineOpBegin core eng => Sys2Proof.Machine.execEngineOpBegin core eng s
  | .mmaStep core => Sys2Proof.Machine.execMmaStep core s
  | .engineOpComplete core tag => Sys2Proof.Machine.execEngineOpComplete core tag s
  | .collectiveCombine tag far => Sys2Proof.Machine.execCollectiveCombine tag far s
  | .preempt key => Sys2Proof.Machine.execPreempt key s
  | .saveComplete core => Sys2Proof.Machine.execSaveComplete core s
  | .resume key => Sys2Proof.Machine.execResume key s
  | .pondDestroy die store => Sys2Proof.Machine.execPondDestroy die store s
  | .launch q => Sys2Proof.Machine.execLaunch q s
  | .setlevel q => Sys2Proof.Machine.execSetlevel q s
  | .qfence q => Sys2Proof.Machine.execQfence q s
  | .signal q => Sys2Proof.Machine.execSignal q s
  | .waitval q => Sys2Proof.Machine.execWaitval q s
  | .waitvalSatisfied q => Sys2Proof.Machine.execWaitvalSatisfied q s
  | .pondcfg q => Sys2Proof.Machine.execPondcfg q s
  | .pondcfgDestroy q => Sys2Proof.Machine.execPondcfgDestroy q s
  | .resync q => Sys2Proof.Machine.execResync q s
  | .qtail q v => Sys2Proof.Machine.execQtail q v s
  | .tcap die v => Sys2Proof.Machine.execTcap die v s
  | .registerWrite pa v => Sys2Proof.Machine.execRegisterWrite pa v s
  | .hostAccess wr pa data => Sys2Proof.Machine.execHostAccess wr pa data s
  | .throttleStepChange die stp => Sys2Proof.Machine.execThrottleStepChange die stp s
  | .domainBringup dev reach gm => Sys2Proof.Machine.execDomainBringup dev reach gm s
  | .linkFailure lost => Sys2Proof.Machine.execLinkFailure lost s
  | .securityAlarm => Sys2Proof.Machine.execSecurityAlarm s
  | .attestationRequest nonce => Sys2Proof.Machine.execAttestationRequest nonce s
  | .coldReset => Sys2Proof.Machine.execColdReset s
  | .warmReset => Sys2Proof.Machine.execWarmReset s
  | .illop w => Sys2Proof.Machine.execIllop w s
  | .qcfg q v => Sys2Proof.Machine.execQcfg q v s
  | .spawnRequest idx => Sys2Proof.Machine.execSpawnRequest idx s
  | .joinEvent idx => Sys2Proof.Machine.execJoinEvent idx s
  | .rerouteComplete => Sys2Proof.Machine.execRerouteComplete s
  | .darningMapEntry stk ent => Sys2Proof.Machine.execDarningMapEntry stk ent s

end Sys2Proof.Machine
end

