-- ==== Sys2Proof/Machine/Fetch.lean ====
section
/-! DEFINITION. Fetching, the barrel, the passing of time and the loss of cached contents (R98, R137 to R143, R157, R158, R172, R176,
R397, R399). -/

namespace Sys2Proof.Machine

/-! Fetching (R98) -/

/-- A fetch allocates in no home cache but its own core's (R98): the lines that home caches hold stay as before for another's. -/
def State.fetched (before after : State) (p : Place) : State :=
  if p == .core before.cur.1 then after else { after with clean := { after.clean with home := before.clean.home } }

/-- A sector as its home or the die's remote-data cache gives it; one that is carried counts its remote word accesses (R98, R408). -/
def readSector (a : Access) : M (List Byte) := do
  modify fun s => s.settle a.place
  let s ← get
  let pa := a.pa / 64 * 64
  match a.place with
  | .core y =>
    if dieOf y ≠ dieOf s.cur.1 && (regionOf (localOf a.pa)).cached then
      match ← readCached { a with pa := pa } 64 with
      | some bs => do
        modify fun s' => s.fetched s' a.place
        pure bs
      | none => trap causeMem (w64 pa)
    else
      match s.homeRead pa 64 with
      | some bs => do
        set (s.fetched (s.fillFor s.cur.1 s.cur.2 { a with pa := pa } 64) a.place)
        if y ≠ s.cur.1 then countRemote a 64
        pure bs
      | none => trap causeMem (w64 pa)
  | _ => match s.readAt a.place pa 64 with
    | (some bs, s') => do
      set s'
      countRemote a 64
      pure bs
    | (none, _) => trap causeMem (w64 pa)

/-- The values that a fetch of a word may return (R98): the one its core's fetch buffer has, and, when the word has been written since the
core last emptied its buffer, the one it has now and those it had until each write. -/
def State.fetchable (s : State) (n : Nat) (buffered : BitVec 32) : List (BitVec 32) :=
  let old := (s.clean.hist.drop (s.core s.cur.1).histAt).filter fun h => h.1 == n
  if old.isEmpty then [buffered] else (buffered :: s.wordNow (dieOf s.cur.1) n :: old.map fun h => h.2).eraseDups

/-- The word at the strand's PC, from the core's fetch buffer or into it (R98, R172). Which of several values it is, is free. -/
def fetch : M (BitVec 32) := do
  let pc := (← me).pc
  let (a, bad) ← translate pc .fetch
  if inControl a.pa then trap causeProt pc
  checkRefused a bad
  let sector := a.pa / 64
  let bs ← match tget (← myCore).fetchBuf sector with
    | some bs => pure bs
    | none => do
      let bs ← readSector a
      modCore fun k => { k with fetchBuf := tset k.fetchBuf sector bs }
      pure bs
  match (← get).fetchable (a.pa / 4) (BitVec.ofNat 32 (leNat ((bs.drop (a.pa % 64)).take 4))) with
  | w :: v :: vs => do
    let n ← freeNat
    pure ((w :: v :: vs).getD (n % (vs.length + 2)) w)
  | l => pure (l.headD 0)

/-! Issue -/

/-- What stops a fetch does; a trap there may abort the launch (R399). -/
def State.fetchStopped (s : State) (e : Stop) : State :=
  match e with
  | .trap cause info => (if cause = causeMem then s.countUe info.toNat else s).fetchTrap s.cur.1 s.cur.2 cause info
  | e => s.stopped e

/-- The instruction at the PC of the strand `cur` issues; a word that is no instruction takes ILLOP (R176). -/
def State.issueWord (s : State) : Host.Outcome State Fault Refusal :=
  match fetch.run s with
  | .error e => .next (s.fetchStopped e)
  | .ok (w, s') => match decode w with
    | .ok i => exec i s'
    | .error _ => execIllop w s'

/-- A BAR whose arrival is counted returns, with its acquire, once its phase has completed (R276). -/
def State.barDone (s : State) (u : Nat) (p : BitVec 32) : Option State :=
  match s.barrier u with
  | some b =>
    if phaseDone b.phase p then
      match s.forStrand s.cur.1 s.cur.2 (acquire b.scope) with
      | .ok s' => some (s'.retireNext s.cur.1 s.cur.2)
      | .error _ => none
    else none
  | none => none

/-- The strand `cur` at its turn: pending boundary reports first (R397), then its instruction. DESIGN CHOICE (log 78): a report uses the slot's
issue turn. -/
def State.issue (s : State) : Host.Outcome State Fault Refusal :=
  let x := s.strand s.cur.1 s.cur.2
  let now := s.abandons s.cur.1 s.cur.2
  if x.report.isSome && now then exec .deadline s
  else if x.wdRep && now then exec .withdrawn s
  else s.issueWord

/-! The barrel (R157, R158) -/

/-- Whether a park is over. An instruction that parked at issue is tried: its park is over when it would not park so again. -/
def State.parkOver (s : State) (p : Park) : Bool :=
  match p with
  | .walk _ _ _ _ | .fault _ _ _ _ _ | .faultWait _ _ _ _ _ _ | .answer | .timedLoad _ | .memory _ => false
  | .barArrived u ph => match s.barrier u with | some b => phaseDone b.phase ph | none => false
  | .tlbinv va ctx all kind => s.tlbinvDone (if all then none else some (dieOf s.cur.1)) kind va ctx
  | p => match s.issueWord with
    | .next s' => (s'.strand s.cur.1 s.cur.2).st != .parked p
    | _ => false

/-- The park of the strand `cur` ends when its event has come (R155): a BAR and a TLBINV are done then, any other instruction is READY to
issue. -/
def State.unpark (s : State) : State :=
  let (c, l) := s.cur
  match (s.strand c l).st with
  | .parked p =>
    if !s.parkOver p then s
    else match p with
      | .barArrived u ph => (s.barDone u ph).getD s
      | .tlbinv _ _ all _ => (s.tlbinvEnd (tlbinvDies all c)).retireNext c l
      | _ => s.modStrand c l fun x => { x with st := .ready }
  | _ => s

/-- The start of a core's cycle: the fills that can be delivered are, and the parks that are over end (R155, R222). -/
def State.boundary (s : State) (c : Nat) : State :=
  (List.range 16).foldl (fun s l => { State.unpark { s with cur := (c, l) } with cur := s.cur }) (s.landFills c)

/-- On a core that is being saved only the TLBINVs that wait are done, and the strand stops behind them (R219, R400). -/
def State.finishTlbinv (s : State) (c : Nat) : State :=
  (List.range 16).foldl (fun s l => match (s.strand c l).st with
    | .parked (.tlbinv _ _ _ _) => { State.unpark { s with cur := (c, l) } with cur := s.cur }
    | _ => s) s

/-- Whether a slot has something to issue, its cycles apart: an instruction, or a report that ends its park (R397, R420). A strand that has
leapt waits for its joins (R391). -/
def State.wants (s : State) (c l : Nat) : Bool :=
  let x := s.strand c l
  x.rereg == 0 && match x.st with
    | .ready => true
    | .parked _ => (x.report.isSome || x.wdRep) && s.abandons c l
    | _ => false

/-- Whether at least 4 cycles have passed since a strand last issued. -/
def Strand.rested (x : Strand) (cyc : Nat) : Bool := match x.lastCyc with | some n => decide (n + 4 ≤ cyc) | none => true

/-- The slot a core issues in this cycle (R157, R158). -/
def State.pick (s : State) (c : Nat) : Option Nat :=
  let k := s.core c
  let level := match s.launchOf c with | some q => q.level | none => 0
  let order := if level = 2 then [k.cyc % 16] else (List.range 16).map fun i => (k.last + 1 + i) % 16
  order.find? fun l => (vget k.slots l).rested k.cyc && s.wants c l

/-- A cycle passes on a core: it is counted, and each PARKED strand counts it (R408). -/
def Core.tickCycle (k : Core) : Core :=
  { k with
    cyc := k.cyc + 1
    slots := k.slots.map fun (x : Strand) => match x.st with
      | .parked _ => { x with hpm := vset x.hpm 1 (vget x.hpm 1 + 1) }
      | _ => x }

/-- The slot that issues is noted, and its cycle. -/
def Core.note (k : Core) (l cyc : Nat) : Core :=
  { k with last := l, slots := vset k.slots l { vget k.slots l with lastCyc := some cyc } }

/-- A cycle of a core's arithmetic clock. -/
def State.cycle (s : State) (c : Nat) : Host.Outcome State Fault Refusal :=
  if 2048 ≤ c then .fault .noSuchAgent
  else if !(s.core c).works then .next (if (s.core c).saving then s.finishTlbinv c else s)
  else
    let s := s.boundary c
    let k := s.core c
    match s.pick c with
    | none => .next (s.setCore c k.tickCycle)
    | some l => ({ s.setCore c (k.tickCycle.note l k.cyc) with cur := (c, l) } : State).issue

/-! Time (R138, R142, R143) -/

/-- How far a time unit may stand from its reference, in ten-thousandths of a ns; none while FREE (R142). -/
def Die.reach (x : Die) : Option Nat :=
  match x.lock with
  | .free => none
  | .locked => some 20000
  | .holdover => some (20000 + x.heldNs / 10000000 * 10000)

/-- A number brought between two bounds. -/
def clampInt (lo hi x : Int) : Int := max lo (min hi x)

/-- How a time unit is slewed when slewing can move it by `lim`: a FREE one that stands further from the reference than one exchange interval
removes, at that bound toward it (R138); one that is not LOCKED and has not yet reached the result of its last successful exchange, toward
that, by one ten-thousandth of a ns at least (R141, log 23); any other as it is given. -/
def Die.slewBy (x : Die) (gap lim slew : Int) : Int :=
  if x.lock == .free && decide (slewLimit * 10000 < gap.natAbs) then clampInt (-lim) lim gap
  else if x.lock == .locked || x.aim == 0 then clampInt (-lim) lim slew
  else if 0 < x.aim then clampInt (min 1 lim) (min lim x.aim) slew
  else clampInt (-min lim (-x.aim)) (-min 1 lim) slew

/-- A time unit after `adv` has passed on the reference: slewed by at most one part in 10,000, within its bound (R138, R142). What has passed
and is too short for a ten-thousandth of a ns counts the next time. -/
def Die.advance (x : Die) (ref adv : Nat) (slew : Int) : Die :=
  let lim : Int := (x.rem + adv) / 10000
  let by_ := x.slewBy ((ref : Int) - (x.tu + adv : Nat)) lim slew
  let t := ((x.tu + adv : Nat) + by_).toNat
  let far := match x.reach with | some b => decide (b < ((t : Int) - ref).natAbs) | none => false
  let x := { x with rem := (x.rem + adv) % 10000 }
  if far then { x with tu := x.tu + adv }
  else { x with tu := t, aim := if x.lock == .locked then 0 else x.aim - clampInt (-x.aim.natAbs) x.aim.natAbs by_ }

/-- Energy and corrected errors that a die has counted meanwhile (R418, log 4). -/
def Die.meter (x : Die) (n : Nat) : Die :=
  { x with
    ecore := x.ecore + w64 (Config.freeCount n), srce := x.srce + w64 (Config.freeCount (n + 1))
    estk := x.estk.zipIdx.map fun (p : Word × Nat) => p.1 + w64 (Config.freeCount (n + 2 + p.2)) }

/-- How the package reference is slewed when slewing can move it by `lim`, towards what its last exchange over the links measured (R138, R141): by
the whole bound while more is left than one exchange interval removes, and else as it is given, by one ten-thousandth of a ns at least. -/
def slewRef (aim lim slew : Int) : Int :=
  if linkLimit * 10000 < aim.natAbs then clampInt (-lim) lim aim
  else if 0 ≤ aim then clampInt (min 1 (min lim aim)) (min lim aim) slew
  else clampInt (-min lim (-aim)) (-min 1 (min lim (-aim))) slew

/-- Time passes (R138); while the time units hold (R143) it passes for none of them. The dies follow the package reference, as it is slewed, and
those of other devices keep their distance from it (log 2). -/
def State.pass (s : State) (dt : Nat) (slew : List Int) : State :=
  let lim : Int := (s.refRem + (dt - s.held) : Nat) / 10000
  let by_ := slewRef s.refAim lim (slew.getD 4 0)
  let adv := ((dt - s.held : Nat) + by_).toNat
  let ref := s.ref + adv
  { s with
    ref := ref, held := s.held - dt, tick := s.tick + 24
    refAim := s.refAim - by_, refRem := (s.refRem + (dt - s.held)) % 10000
    fars := s.fars.map fun (f : Nat × Far) => (f.1, { f.2 with tu := (f.2.tu + dt + by_).toNat })
    dies := s.dies.zipIdx.map fun (p : Die × Nat) => (p.1.advance ref adv (slew.getD p.2 0)).meter (s.tick + 6 * p.2) }

/-! Loss of cached contents (R26, R64, R83, R91, R98, R101) -/

/-- The clean bytes of a sector go. -/
def RdcLine.dropSector (l : RdcLine) (q : Nat) : RdcLine := { l with clean := l.clean.filter fun c => c.1 / 64 != q }

/-- The sector at an address of this device's DRAM becomes uncorrectable (R66). -/
def State.spoil (s : State) (a : Nat) : State :=
  let here := devOf a == s.devid.toNat && match regionOf (localOf a) with | .dram _ _ => true | _ => false
  if here && !s.badSectors.contains a then { s with badSectors := s.badSectors ++ [a] } else s

/-- A word of scratchpad, or dirty bytes of one in a home cache, go bad (R101). -/
def State.spoilHome (s : State) (w : Nat) : State :=
  let spad := devOf (w * 8) == s.devid.toNat && match regionOf (localOf (w * 8)) with | .spad _ off => decide (off < 0x80000) | _ => false
  if (spad || (List.range 8).any fun i => (tget s.homeDirty (w * 8 + i)).isSome) && !s.badWord none (w * 8) then
    { s with badWords := s.badWords ++ [(none, w)] }
  else s

/-- The clean bytes of a home-cache sector are lost to an uncorrectable error: the sector is no longer valid, and the event is counted
(R101). -/
def State.spoilClean (s : State) (q : Nat) : State :=
  if s.homeHolds q then (s.dropValid q).countCache ((s.homeDie (q * 64)).getD 0) else s

/-- A sector of a fetch buffer goes. -/
def Core.unfetch (k : Core) (n : Nat) : Core := { k with fetchBuf := tdel k.fetchBuf n }

/-- Dirty bytes of a word in a die's remote-data cache go bad (R101). -/
def State.spoilRdc (s : State) (d w : Nat) : State :=
  match tget (s.die d).rdc (w / 32) with
  | some l =>
    if (List.range 8).any (fun i => (tget l.dirty (w % 32 * 8 + i)).isSome) && !s.badWord (some d) (w * 8) then
      { s with badWords := s.badWords ++ [(some d, w)] }
    else s
  | none => s

/-- A loss takes effect; an uncorrectable error is counted when it strikes (R101). -/
def State.evict (s : State) : Evict → State
  | .coreTlb c n => if c < 2048 then s.modCore c fun k => { k with tlb := k.tlb.eraseIdx n } else s
  | .dieTlb d n => s.modDie d fun x => { x with tlb := x.tlb.eraseIdx n }
  | .fetch c n => if c < 2048 then s.modCore c (·.unfetch n) else s
  | .upsetFetch c n => if c < 2048 ∧ (tget (s.core c).fetchBuf n).isSome then (s.modCore c (·.unfetch n)).countCache (dieOf c) else s
  | .rdc d n => s.rdcDrop d n
  | .rdcClean d n => match tget (s.die d).rdc (n / 4) with
    | some l => if d < 4 ∧ l.clean.any (fun c => c.1 / 64 == n % 4) then
        (s.modDie d fun x => { x with rdc := tset x.rdc (n / 4) (l.dropSector (n % 4)) }).countCache d
      else s
    | none => s
  | .homeClean n => s.spoilClean n
  | .home n => s.evictHome n
  | .msc n => s.evictMsc n
  | .upset n => s.spoil (n * 64)
  | .upsetHome n => s.spoilHome n
  | .upsetRdc d n => if d < 4 then s.spoilRdc d n else s

/-! Steps of the device -/

/-- Whether something is a step of the device that its agents may make, with agents that the device has. Instructions are none, and
ILLOP, DEADLINE and WITHDRAWN belong to an issuing strand. -/
def isStep : Instr → Bool
  | .deadline | .withdrawn | .illop _ => false
  | .tableWalk die | .faultPostDeferred die | .fqTail die _ | .fqReplayReplay die _ | .fqReplayFail die _
  | .fqReplayDeny die _ | .fqReplayGone die _ | .rdcWriteback die _ _ | .tcap die _
  | .throttleStepChange die _ => decide (die < 4)
  | .timeExchange die _ _ => decide (die ≤ 4)
  | .cxlRelease _ _ | .cxlReleaseAck _ _ | .cxlForcedRelease _ _ | .dramAccess _ _ _ | .postedAccept _ | .farStoreAck _
  | .domainJoin _ | .launchStart _ | .launchEnd _ | .remotePush _ | .completionDelivery _ | .withdrawalNotice _
  | .collectiveCombine _ _ | .preempt _ | .resume _ | .registerWrite _ _ | .hostAccess _ _ _ | .domainBringup _ _ _
  | .linkFailure _ | .securityAlarm | .attestationRequest _ | .coldReset | .warmReset | .spawnRequest _ | .joinEvent _
  | .rerouteComplete | .darningMapEntry _ _ => true
  | .autoPromotion ch bank | .refresh ch bank => decide (ch < 256 ∧ bank < 32)
  | .busCodeWindowEnd ch | .patrolScrub ch _ _ _ | .chcodePin ch _ | .chcodeUnpin ch => decide (ch < 256)
  | .remoteWordAccess core slot | .leapArrival core slot | .storeDrain core slot | .timedStoreArrival core slot
  | .timedLoadArrival core slot | .verdictReturn core slot | .tsleepWake core slot | .streamElementLoad core slot _
  | .joinReregistration core slot => decide (core < 2048 ∧ slot < 16)
  | .probeEcho core slot grp => decide (core < 2048 ∧ slot < 16 ∧ grp < 64)
  | .calendarApply core | .dispatchPop core | .stealRequest core | .stealReply core | .stealRetry core
  | .messageStart core | .fillDelivery core _ | .engineOpBegin core _ | .mmaStep core | .engineOpComplete core _
  | .saveComplete core => decide (core < 2048)
  | .pondDestroy die store => decide (die < 4 ∧ store < 16)
  | .launch q | .setlevel q | .qfence q | .signal q | .waitval q | .waitvalSatisfied q | .pondcfg q | .pondcfgDestroy q
  | .resync q | .qtail q _ | .qcfg q _ => decide (q < 256)
  | _ => false

/-- An agent takes its turn. -/
def State.turn (s : State) : Turn → Host.Outcome State Fault Refusal
  | .cycle c => s.cycle c
  | .pass dt slew => .next (s.pass dt slew)
  | .event i => if isStep i then exec i s else .fault .noSuchAgent
  | .evict e => .next (s.evict e)

/-- The turn that comes next, and the state without it. -/
def State.nextTurn (s : State) : Turn × State :=
  match s.agenda with
  | t :: ts => (t, { s with agenda := ts })
  | [] => (Config.freeTurn s.tick, { s with tick := s.tick + 1 })

/-! A place for one word (the host's probe) -/

/-- The launch that the probe runs in when core 0 has none. -/
def probeLaunch : Launch :=
  { st := .running, q := 0, pkt := 0, order := 0, prio := 0, slots := 1, lid := 0, gen := 1, ctx := 0, priv := true, sdom := 0, level := 0
    hblk := 0, efmt := 0x802, logn := 0, first := 0, entry := 0x10000, gp := 0, ssz := 4, stack := 0, tvec := 0x20000, seed := 0, save := 0
    abort := none, nabort := 0, err := false, cores := [] }

/-- A leaf that maps the page of virtual address 0x10000 to itself, for every right. -/
def probeEntry (dev ctx : Nat) : TlbEnt := ⟨ctx, 0x10000, 0, w64 (dev * 2 ^ 46 + 0x10000 + 0xDF)⟩

/-- The state with bytes where core 0's slot 0 fetches next, its launch, page and turn with them. -/
def State.placeWord (s : State) (bs : List Byte) : State :=
  let dev := s.devid.toNat
  let pa := dev * 2 ^ 46 + 0x10000
  let s : State := match s.launchOf 0 with
    | some _ => s
    | none => State.startStrand { s.modCore 0 fun k => { k with launch := some probeLaunch.key } with
        launches := tset s.launches probeLaunch.key.toNat probeLaunch } 0 0 0x10000 [] 0
  let key := (s.core 0).launch.getD 0
  let ctx := s.ctxOf key
  let s := s.modCore 0 fun k => { k with
    saving := false, cyc := 0, last := 15, fetchBuf := [], histAt := s.clean.hist.length, tlb := [probeEntry dev ctx]
    slots := vset k.slots 0 { vget k.slots 0 with
      st := .ready, pc := 0x10000, launch := key, lastCyc := none, rereg := 0, report := none, wdRep := false } }
  ({ s with agenda := [.cycle 0], badSectors := s.badSectors.filter (· != pa), badWords := s.badWords.filter fun w => w.2 / 8 != pa / 64 } : State).homePut pa bs

end Sys2Proof.Machine
end

