-- ==== Sys2Proof/Machine/Step.lean ====
section
/-! DEFINITION. One step of the machine, and the state in which the next step fetches a given word. -/

namespace Sys2Proof.Machine

/-- One step: the next turn is taken, and the caches give up what has no room (R64, R83, R91). -/
def step (s : State) : Host.Outcome State Fault Refusal :=
  let (t, s) := s.nextTurn
  match s.turn t with
  | .next s' => .next s'.trim
  | .fault r => .fault r
  | .refused r => .refused r

/-- The state with the instruction of bits `w` where `step` fetches its next instruction. Every instruction is one 32-bit word (R172),
so the bits above `nbits` are zero. -/
def State.withFetchWord (s : State) (nbits w : Nat) : State := s.placeWord (natLe (w % 2 ^ nbits) 4)

end Sys2Proof.Machine
end

