-- ==== Sys2Proof/Safety.lean ====
section
/-! DEFINITION. The terms in which claims about the machine are stated: a safe run, the invariant, what the performing strand reads at
once, and how an instruction that runs to its end leaves it. -/

namespace Sys2Proof.Machine

/-! Runs -/

/-- A run of `n` steps that meets no fault and no refusal. -/
def State.safeFor : Nat → State → Prop
  | 0, _ => True
  | n + 1, s => ∃ t, step s = .next t ∧ t.safeFor n

/-- The memories and the dirty bytes of the caches are in canonical form. -/
def State.canonical (s : State) : Bool :=
  Memory.wf s.mem && Memory.wf s.hostMem && Tab.sorted s.homeDirty && Tab.sorted s.mscDirty

/-! The performing strand -/

/-- The strand that is performing. -/
def State.self (s : State) : Strand := s.strand s.cur.1 s.cur.2

/-- The core that is performing. -/
def State.selfCore (s : State) : Core := s.core s.cur.1

/-- The state with the performing strand replaced, and nothing else changed. -/
def State.become (s : State) (x : Strand) : State := s.setStrand s.cur.1 s.cur.2 x

/-- The state with the performing core replaced, and nothing else changed. -/
def State.becomeCore (s : State) (k : Core) : State := s.setCore s.cur.1 k

/-- The strand after an instruction that goes on to the next one: PC, and s.hpm0 (R408). -/
def Strand.went (x : Strand) : Strand := x.retire (x.pc + 4)

/-- Whether g register `n` is a queue port of the strand's pipeline group (R168). -/
def State.port (s : State) (n : Nat) : Bool := decide (28 ≤ n) && (s.selfCore.pipeOf s.cur.2).isSome

/-- A register that a source read finds at once with value `v`: FULL with no acquire owed, or DEAD with DT clear, which reads zero (R221). -/
def Reg.gives {w : Nat} (r : Reg w) (dt : Bool) (v : BitVec w) : Bool :=
  r.owe.isNone && match r.st with
    | .full => r.val == v
    | .dead => !dt && v == 0
    | _ => false

/-- g register `n` reads as `v` at once and with no other effect (R199). -/
def State.readsG (s : State) (n : BitVec 5) (v : Word) : Bool :=
  if n = 0 then v == 0 else !s.port n.toNat && (vget s.self.g n.toNat).gives s.self.dt v

/-- g register `n` is FULL with no acquire owed, or DEAD: no source that parks (R178). -/
def State.atHand (s : State) (n : BitVec 5) : Bool :=
  n == 0 || (!s.port n.toNat && (vget s.self.g n.toNat).owe.isNone && ((vget s.self.g n.toNat).st == .full || (vget s.self.g n.toNat).st == .dead))

/-- f register `n` reads as `v` at once and with no other effect. -/
def State.readsF (s : State) (n : BitVec 5) (v : Word) : Bool :=
  (s.self.streamOf 1 n.toNat).isNone && (vget s.self.f n.toNat).gives s.self.dt v

/-- v register `n` reads as `v` at once and with no other effect. -/
def State.readsV (s : State) (n : Nat) (v : VWord) : Bool :=
  (s.self.streamOf 2 n).isNone && (vget s.self.v n).gives s.self.dt v

/-- A local write of g register `n`: g0 discards it (R221). -/
def Strand.putG (x : Strand) (n : BitVec 5) (v : Word) : Strand := if n = 0 then x else { x with g := vset x.g n.toNat (Reg.full v) }

/-- A local write of f register `n`. -/
def Strand.putF (x : Strand) (n : BitVec 5) (v : Word) : Strand := { x with f := vset x.f n.toNat (Reg.full v) }

/-- A local write of v register `n`. -/
def Strand.putV (x : Strand) (n : Nat) (v : VWord) : Strand := { x with v := vset x.v n (Reg.full v) }

/-- A write of f register `n` stays in the register: no stream is bound to it (R247, R248). -/
def State.plainF (s : State) (n : BitVec 5) : Bool := (s.self.streamOf 1 n.toNat).isNone

/-- A write of v register `n` stays in the register. -/
def State.plainV (s : State) (n : Nat) : Bool := (s.self.streamOf 2 n).isNone

/-! Traps -/

/-- The strand at its handler (R396): where it was, why, and with what. -/
def Strand.trapped (x : Strand) (cause : BitVec 8) (info : Word) : Strand :=
  { x.unfail with
    epc := x.pc, cause := zext64 cause, einfo := info, bm := true, pc := x.tvec, st := .ready, hold := none, acq := []
    hpm := vset x.hpm 4 (vget x.hpm 4 + 1) }

/-- The state in which a trap takes the performing strand: what its instruction had reserved, popped or queued for is given back (R89, R217,
R396). -/
def State.given (s : State) : State := s.letGo s.cur.1 s.cur.2

/-- The state after a precise trap of the performing strand, its handler there to run (R396). -/
def State.traps (s : State) (cause : BitVec 8) (info : Word) : State := s.given.become (s.given.self.trapped cause info)

/-! Accesses -/

/-- An access of the performing strand to `n` bytes at `va` is aligned, mapped to `a` with the right it needs, and not refused (R18, R24,
R178). -/
def State.maps (s : State) (va : Word) (n : Nat) (kind : Kind) (a : Access) : Bool :=
  va.toNat % n == 0 && decide (va.toNat < 2 ^ 57)
    && (match s.tlbFind s.cur.1 (s.ctxOf s.self.launch) va.toNat with
      | some e => leafAllows e.leaf kind (!s.self.sup) && !leafStale e.leaf kind && s.accessOf e va.toNat == some a
      | none => false)
    && !inControl a.pa
    && !s.refused a.pa && !s.gone a.pa
    && match a.place with
      | .device _ _ => !s.reroute
      | _ => true

/-- An access that passes every check of R178 step 4, the pegs among them. -/
def State.reaches (s : State) (va : Word) (n : Nat) (kind : Kind) (a : Access) : Bool :=
  s.maps va n kind a && (s.selfCore.pegHit (s.ctxOf s.self.launch) va.toNat n kind.writes).isNone

/-- Nothing at a home waits for the time that its clock shows (R146 to R148). -/
def State.current (s : State) (p : Place) : Bool :=
  (s.calOf p).cal.all (fun e => decide (s.clock p < e.t.toNat))
    && (s.calOf p).wait.all (fun e => decide (s.clock p < e.t.toNat))
    && (s.calOf p).loads.all (fun l => l.got.isSome || decide (s.clock p < l.t.toNat))

/-- Nothing at a home core waits for the time that its clock shows. -/
def State.upToDate (s : State) (c : Nat) : Bool := s.current (.core c)

/-- No entry of the strand's store FIFO covers a byte of an access. -/
def State.uncovered (s : State) (pa n : Nat) : Bool := s.self.fifo.all fun e => !e.overlaps pa n

/-- Memory as the home gives it is the same in two states. -/
def sameBytes (s t : State) : Prop := ∀ a, t.homeByte a = s.homeByte a

/-- Every strand but the performing one is the same in two states. -/
def sameOthers (s t : State) : Prop := ∀ c l, c ≠ s.cur.1 ∨ l % 16 ≠ s.cur.2 % 16 → t.strand c l = s.strand c l

end Sys2Proof.Machine
end

