-- ==== Sys2Proof/Certificates/Slice0/Obligations.lean ====
section
/-! DEFINITION. The statements for the provers. Registers are read through valuations `rg`, `rf` and `rv`: what each source register
reads as, at once (Safety.lean); the other states of a source (EMPTY, PENDING, an owed acquire, a queue port, a stream) have statements
of their own. A result is stated as an equation between states, so that it says as well what the instruction leaves alone. -/

open Sys2Proof Sys2Proof.Machine

namespace Sys2Proof.Claims

/-! Scalar forms -/

/-- The register forms of R201 and R202: their sources, their destination, and what R201 writes there when register n reads as `rg n`. -/
def register (rg : BitVec 5 → Word) : Instr → Option (List (BitVec 5) × BitVec 5 × Word)
  | .add d a b => some ([a, b], d, BitVec.ofInt 64 ((rg a).toInt + (rg b).toInt))
  | .sub d a b => some ([a, b], d, BitVec.ofInt 64 ((rg a).toInt - (rg b).toInt))
  | .and d a b => some ([a, b], d, rg a &&& rg b)
  | .or d a b => some ([a, b], d, rg a ||| rg b)
  | .xor d a b => some ([a, b], d, rg a ^^^ rg b)
  | .sll d a b => some ([a, b], d, BitVec.ofNat 64 ((rg a).toNat * 2 ^ ((rg b).toNat % 64)))
  | .srl d a b => some ([a, b], d, BitVec.ofNat 64 ((rg a).toNat / 2 ^ ((rg b).toNat % 64)))
  | .sra d a b => some ([a, b], d, BitVec.ofInt 64 ((rg a).toInt / 2 ^ ((rg b).toNat % 64)))
  | .slt d a b => some ([a, b], d, if (rg a).toInt < (rg b).toInt then 1 else 0)
  | .sltn d a b => some ([a, b], d, if (rg a).toNat < (rg b).toNat then 1 else 0)
  | .min d a b => some ([a, b], d, BitVec.ofInt 64 (min (rg a).toInt (rg b).toInt))
  | .max d a b => some ([a, b], d, BitVec.ofInt 64 (max (rg a).toInt (rg b).toInt))
  | .minn d a b => some ([a, b], d, BitVec.ofNat 64 (min (rg a).toNat (rg b).toNat))
  | .maxn d a b => some ([a, b], d, BitVec.ofNat 64 (max (rg a).toNat (rg b).toNat))
  | .mul d a b => some ([a, b], d, BitVec.ofNat 64 ((rg a).toNat * (rg b).toNat))
  | .mulh d a b => some ([a, b], d, BitVec.ofInt 64 ((rg a).toInt * (rg b).toInt / 2 ^ 64))
  | .mulhn d a b => some ([a, b], d, BitVec.ofNat 64 ((rg a).toNat * (rg b).toNat / 2 ^ 64))
  | .div d a b => some ([a, b], d, if rg b = 0 then BitVec.allOnes 64 else BitVec.ofInt 64 ((rg a).toInt.tdiv (rg b).toInt))
  | .divn d a b => some ([a, b], d, if rg b = 0 then BitVec.allOnes 64 else BitVec.ofNat 64 ((rg a).toNat / (rg b).toNat))
  | .rem d a b => some ([a, b], d, if rg b = 0 then rg a else BitVec.ofInt 64 ((rg a).toInt.tmod (rg b).toInt))
  | .remn d a b => some ([a, b], d, if rg b = 0 then rg a else BitVec.ofNat 64 ((rg a).toNat % (rg b).toNat))
  | .clz d a => some ([a], d, BitVec.ofNat 64 (((List.range 64).takeWhile fun i => !(rg a).getLsbD (63 - i)).length))
  | .ctz d a => some ([a], d, BitVec.ofNat 64 (((List.range 64).takeWhile fun i => !(rg a).getLsbD i).length))
  | .popc d a => some ([a], d, BitVec.ofNat 64 ((List.range 64).countP fun i => (rg a).getLsbD i))
  | .sel d a b c => some ([a, b, c], d, if rg c ≠ 0 then rg a else rg b)
  | .addsh d a b n => some ([a, b], d, BitVec.ofNat 64 ((rg a).toNat + (rg b).toNat * 2 ^ n.toNat))
  | _ => none

/-- The immediate forms of R203 to R205, likewise. -/
def immediate (rg : BitVec 5 → Word) : Instr → Option (List (BitVec 5) × BitVec 5 × Word)
  | .addi d a imm => some ([a], d, BitVec.ofInt 64 ((rg a).toInt + imm.toInt))
  | .andi d a imm => some ([a], d, BitVec.ofNat 64 ((rg a).toNat &&& imm.toNat))
  | .ori d a imm => some ([a], d, BitVec.ofNat 64 ((rg a).toNat ||| imm.toNat))
  | .xori d a imm => some ([a], d, BitVec.ofNat 64 ((rg a).toNat ^^^ imm.toNat))
  | .slti d a imm => some ([a], d, if (rg a).toInt < imm.toInt then 1 else 0)
  | .slli d a n => some ([a], d, BitVec.ofNat 64 ((rg a).toNat * 2 ^ n.toNat))
  | .srli d a n => some ([a], d, BitVec.ofNat 64 ((rg a).toNat / 2 ^ n.toNat))
  | .srai d a n => some ([a], d, BitVec.ofInt 64 ((rg a).toInt / 2 ^ n.toNat))
  | .ext d a p l => some ([a], d, BitVec.ofNat 64 ((rg a).toNat / 2 ^ p.toNat % 2 ^ (l.toNat + 1)))
  | .ins d a p l => some ([a, d], d, BitVec.ofNat 64 ((rg d).toNat % 2 ^ p.toNat + (rg a).toNat % 2 ^ (l.toNat + 1) * 2 ^ p.toNat
      + (rg d).toNat / 2 ^ (p.toNat + l.toNat + 1) * 2 ^ (p.toNat + l.toNat + 1)))
  | .ldi d imm => some ([], d, BitVec.ofInt 64 imm.toInt)
  | .ldhi d imm => some ([d], d, BitVec.ofInt 64 (imm.toInt * 2 ^ 21 + (rg d).toNat % 2 ^ 21))
  | .ldxh d imm => some ([d], d, BitVec.ofInt 64 (imm.toInt * 2 ^ 42 + (rg d).toNat % 2 ^ 42))
  | _ => none

/-- The conditional branches of R206: sources, offset in words, and whether the branch is taken. -/
def branch (rg : BitVec 5 → Word) : Instr → Option (BitVec 5 × BitVec 5 × BitVec 16 × Bool)
  | .beq a b o => some (a, b, o, decide (rg a = rg b))
  | .bne a b o => some (a, b, o, decide (rg a ≠ rg b))
  | .blt a b o => some (a, b, o, decide ((rg a).toInt < (rg b).toInt))
  | .bge a b o => some (a, b, o, decide ((rg b).toInt ≤ (rg a).toInt))
  | .bltn a b o => some (a, b, o, decide ((rg a).toNat < (rg b).toNat))
  | .bgen a b o => some (a, b, o, decide ((rg b).toNat ≤ (rg a).toNat))
  | _ => none

/-- The sources of a form that reads g registers only, in the order in which it reads them. -/
def gSources (i : Instr) : Option (List (BitVec 5)) :=
  match register (fun _ => 0) i, immediate (fun _ => 0) i, branch (fun _ => 0) i with
  | some p, _, _ => some p.1
  | _, some p, _ => some p.1
  | _, _, some p => some [p.1, p.2.1]
  | _, _, _ => none

/-- What an MTS of `v` leaves in a special register that may be written, as MFS then reads it (R186, R212, R216, R394, R408); s.hpm0 counts the
MTS itself besides (log 31, DEDUCED). -/
def mtsLeaves (x : Strand) (old v : Word) (n : Nat) : Option Word :=
  match n with
  | 0x000 => some (let m : Word := if x.sup then 0x63 else 0x43; (old &&& ~~~m) ||| (v &&& m))
  | 0x004 => some (v &&& 0xFFFF)
  | 0x007 | 0x008 => some (if x.dl = 2 then old else v)
  | 0x00A => some (v &&& ~~~3#64)
  | 0x00D | 0x00E => some (v &&& ~~~7#64)
  | 0x010 => some ((old &&& 0xFE00000000000030) ||| (v &&& ~~~0xFE00000000000030#64))
  | 0x014 => some (if v.toNat % 4 = 3 then v &&& 4 else v &&& 7)
  | 0x001 | 0x002 | 0x003 | 0x00B | 0x00C | 0x011 | 0x015 | 0x016 => some v
  | 0x021 | 0x022 | 0x023 | 0x024 | 0x025 | 0x026 | 0x027 => some v
  | 0x020 => some (v + 1)
  | _ => none

/-- Forms that touch nothing but registers, special registers and PC. -/
def registerOnly : Instr → Bool
  | .add _ _ _ | .sub _ _ _ | .and _ _ _ | .or _ _ _ | .xor _ _ _ | .sll _ _ _ | .srl _ _ _ | .sra _ _ _ | .slt _ _ _ | .sltn _ _ _
  | .min _ _ _ | .max _ _ _ | .minn _ _ _ | .maxn _ _ _ | .mul _ _ _ | .mulh _ _ _ | .mulhn _ _ _ | .div _ _ _ | .divn _ _ _
  | .rem _ _ _ | .remn _ _ _ | .clz _ _ | .ctz _ _ | .popc _ _ | .sel _ _ _ _ | .addsh _ _ _ _ | .addi _ _ _ | .andi _ _ _
  | .ori _ _ _ | .xori _ _ _ | .slti _ _ _ | .slli _ _ _ | .srli _ _ _ | .srai _ _ _ | .ext _ _ _ _ | .ins _ _ _ _ | .ldi _ _
  | .ldhi _ _ | .ldxh _ _ | .beq _ _ _ | .bne _ _ _ | .blt _ _ _ | .bge _ _ _ | .bltn _ _ _ | .bgen _ _ _ | .jmp _ | .jr _
  | .trap _ | .brk _ | .eret | .mfs _ _ | .mts _ _ | .mfk _ _ | .waitev _ _
  | .fadd _ _ _ _ | .fsub _ _ _ _ | .fmul _ _ _ _ | .fdiv _ _ _ _ | .fma _ _ _ _ _ | .fnma _ _ _ _ _ | .fsqrt _ _ _ | .fmin _ _ _ _
  | .fmax _ _ _ _ | .feq _ _ _ _ | .flt _ _ _ _ | .fle _ _ _ _ | .fsgn _ _ _ _ _ | .fclass _ _ _ | .fcvt _ _ _ _ | .fcvti _ _ _ _
  | .icvtf _ _ _ _ | .fmvgf _ _ | .fmvfg _ _ | .rstate _ _ _ | .empty _ _ | .take _ _ _ | .sstat _ _ | .eset _ _ | .eget _ _
  | .vadd _ _ _ | .vsub _ _ _ | .vmul _ _ _ | .vmov _ _ | .vperm _ _ _ | .vand _ _ _ | .vor _ _ _ | .vxor _ _ _ => true
  | _ => false

/-- The machine takes the cycle of a core: after what its boundary brings (fills delivered, parks that are over), slot `l` of core `c`
issues, with no report pending, at a state `t` whose performing strand it is, and which differs beside that in the agenda, the core's cycle
count and the slots' notes of it (R155, R157, R222). -/
def issues (s t : State) : Prop :=
  ∃ c l ts, s.agenda = .cycle c :: ts ∧ c < 2048 ∧ (s.core c).works = true ∧
    let b := ({ s with agenda := ts } : State).boundary c
    b.pick c = some l ∧ t = { b.setCore c ((b.core c).tickCycle.note l (b.core c).cyc) with cur := (c, l) } ∧
    t.self.report = none ∧ t.self.wdRep = false

end Sys2Proof.Claims

open Sys2Proof.Claims

/-! Encoding -/

/-- R173 to R187: no field of any encoding is dropped or moved: the word of every well-formed instruction decodes to it. -/
def Obligations.DecodeOfEncode : Prop :=
  ∀ (i : Instr) (w : BitVec 32), i.WellFormed → encode i = some w → decode w = .ok i

/-- R173 to R187: every word that is accepted is the word of a well-formed instruction, and of no other. -/
def Obligations.EncodeOfDecode : Prop :=
  ∀ (w : BitVec 32) (i : Instr), decode w = .ok i → encode i = some w ∧ i.WellFormed

/-- The words that the chapters print beside the forms of their examples decode to those forms.

R176: a word of an unlisted major, with a nonzero must-be-zero field, or with a code out of range is no instruction. -/
def Obligations.PrintedWordsDecode : Prop :=
  (decode 0x08A63800#32 = .ok (.add 5 6 7) ∧ decode 0x09042811#32 = .ok (.div 8 4 5) ∧ decode 0x09042998#32 = .ok (.sel 8 4 5 6)
     ∧ decode 0x0D05FFFC#32 = .ok (.addi 8 5 0xFFFC) ∧ decode 0x21043203#32 = .ok (.ext 8 4 8 3)
     ∧ decode 0x290B3C4D#32 = .ok (.ldhi 8 0x0B3C4D) ∧ decode 0x3520FFFB#32 = .ok (.bne 9 0 0xFFFB)
     ∧ decode 0x4BFFFFFE#32 = .ok (.jmp 0x3FFFFFE) ∧ decode 0x04042A07#32 = .ok (.tlbinv 4 5 1 0)
     ∧ decode 0x05000242#32 = .ok (.mfs 8 9) ∧ decode 0xA5119000#32 = .ok (.spawn 8 17 18 )
     ∧ decode 0xB4200341#32 = .ok (.sbind 1 1 5) ∧ decode 0x99042D80#32 = .ok (.ldx 8 4 5 2 1 2)
     ∧ decode 0x9D042849#32 = .ok (.amocas 8 4 5 0 0 1) ∧ decode 0xA0042803#32 = .ok (.binit 4 5)
     ∧ decode 0xAC221910#32 = .ok (.fma 1 2 3 4 0) ∧ decode 0xAC221071#32 = .ok (.fsgn 1 2 2 1 1)) ∧
  (∀ w : BitVec 32, (w >>> 26 = 0 ∨ 0x34 ≤ (w >>> 26).toNat) → decode w = .error .unlistedMajor)

/-! Steps -/

/-- R172: when the strand that issues fetches a word that decodes to an instruction, the step of the machine is that instruction at that
state, with what the fetch took in, and then what the caches give up for want of room.

R176: when it fetches a word that is no instruction, the step takes ILLOP of that word. -/
def Obligations.StepRunsDecodedInstruction : Prop :=
  (∀ (s t u : State) (w : BitVec 32) (i : Instr), issues s t → fetch.run t = .ok (w, u) → decode w = .ok i →
     ∃ v, exec i u = .next v ∧ step s = .next v.trim) ∧
  (∀ (s t u : State) (w : BitVec 32) (e : DecodeError), issues s t → fetch.run t = .ok (w, u) → decode w = .error e →
     u.self.tvec ≠ 0 → step s = .next (u.traps 0x01 (zext64 w)).trim)

/-- Every instruction and every step of the device answers a next state, in every state: no meaning stops the machine. The machine never refuses,
and stops with a fault only when the turn it takes names an agent that the device does not have. -/
def Obligations.StopsOnlyForAbsentAgents : Prop :=
  (∀ (i : Instr) (s : State), ∃ t, exec i s = .next t) ∧
  (∀ (s : State) (r : Refusal), step s ≠ .refused r) ∧
  ∀ (s : State) (f : Fault), step s = .fault f →
    (∃ c, s.nextTurn.1 = .cycle c ∧ 2048 ≤ c) ∨ ∃ i, s.nextTurn.1 = .event i ∧ isStep i = false

/-! The invariant and reset -/

/-- Every step keeps the memories and the dirty bytes of the caches in canonical form: addresses strictly rising, no listed zero in a
memory. -/
def Obligations.StepsKeepCanonicalMemory : Prop :=
  ∀ s t : State, s.canonical = true → step s = .next t → t.canonical = true

/-- The machine after reset has the invariant. -/
def Obligations.ResetIsCanonical : Prop := State.reset.canonical = true

/-- What cold reset leaves: DRAM and scratchpads zero (R68, R72), and as the model's choices every other byte (log 9) and TLBs and the fault
queue empty and every queue disabled (log 8); no tile, ring or k register set (R102, R218), time units FREE at zero (R139, R154), every slot FREE
with generation 0 (R155), no launch. -/
def Obligations.ResetLeavesWhatTheSpecSays : Prop :=
  (∀ a, State.reset.homeByte a = 0) ∧
  (∀ c, (State.reset.core c).tlb = [] ∧ (State.reset.core c).cal = [] ∧ (State.reset.core c).launch = none ∧
    (∀ n, vget (State.reset.core c).tiles n = 0) ∧ (∀ n, vget (State.reset.core c).rings n = 0) ∧ (∀ n, vget (State.reset.core c).k n = 0) ∧
    ∀ l, (State.reset.strand c l).st = .free ∧ (State.reset.strand c l).gen = 0) ∧
  (∀ d, (State.reset.die d).tu = 0 ∧ (State.reset.die d).lock = .free ∧ (State.reset.die d).tlb = [] ∧ (State.reset.die d).fq = [] ∧
    (State.reset.die d).ponds = [] ∧ (State.reset.die d).bars = [] ∧ (State.reset.die d).wps = []) ∧
  (∀ q, wbit (State.reset.queue q).cfg 16 = false) ∧ State.reset.launches = []

/-! Scalar instructions -/

/-- R201, R202: each register form writes d as its table says, and goes on to the next instruction with nothing else changed. -/
def Obligations.RegisterFormsCompute : Prop :=
  ∀ (s : State) (rg : BitVec 5 → Word) (i : Instr) (srcs : List (BitVec 5)) (d : BitVec 5) (v : Word),
    register rg i = some (srcs, d, v) → (∀ n ∈ srcs, s.readsG n (rg n) = true) → s.port d.toNat = false →
    exec i s = .next (s.become (s.self.putG d v).went)

/-- R203, R204, R205: likewise the forms with immediates and the constants. EXT and INS whose field leaves the word are no instructions. -/
def Obligations.ImmediateFormsCompute : Prop :=
  ∀ (s : State) (rg : BitVec 5 → Word) (i : Instr) (srcs : List (BitVec 5)) (d : BitVec 5) (v : Word), i.WellFormed →
    immediate rg i = some (srcs, d, v) → (∀ n ∈ srcs, s.readsG n (rg n) = true) → s.port d.toNat = false →
    exec i s = .next (s.become (s.self.putG d v).went)

/-- R206: a branch compares its two sources, and goes to PC + 4 + off16 × 4 or to the next instruction; nothing else changes.

R207, R208: JMP goes to PC + 4 + off26 × 4. JR goes to the word address it reads, and at another address takes MISALIGN with PC where
it was. -/
def Obligations.BranchesAndJumpsGo : Prop :=
  (∀ (s : State) (rg : BitVec 5 → Word) (i : Instr) (a b : BitVec 5) (o : BitVec 16) (taken : Bool),
     Claims.branch rg i = some (a, b, o, taken) → s.readsG a (rg a) = true → s.readsG b (rg b) = true →
     exec i s = .next (s.become (s.self.retire (if taken then s.self.pc + 4 + BitVec.ofInt 64 (o.toInt * 4) else s.self.pc + 4)))) ∧
  ((∀ (s : State) (o : BitVec 26),
     exec (.jmp o) s = .next (s.become (s.self.retire (s.self.pc + 4 + BitVec.ofInt 64 (o.toInt * 4))))) ∧
   ∀ (s : State) (a : BitVec 5) (t : Word), s.readsG a t = true →
     (t.toNat % 4 = 0 → exec (.jr a) s = .next (s.become (s.self.retire t))) ∧
     (t.toNat % 4 ≠ 0 → s.self.tvec ≠ 0 → exec (.jr a) s = .next (s.traps 0x03 t)))

/-- R209, R213: with room in the return-address store, CALL and CALLR push the address of the next instruction, mark registers DEAD and
go; a full store first spills its oldest entry to s.rasp.

R210, R213: RET goes to the newest entry; with none it refills from s.rasp − 8, here from the strand's own core; with s.rasp at
s.rasb it takes RAS_UNDERFLOW.

R172: CALLR and RET to what is no word address take MISALIGN with it, and neither pushes nor pops.

The exact next states hold the model's choices that a spill or refill touches neither the predictor nor the record of R88 (log 75), and that a
refill is made in its instruction's step (log 12) and counts as a load in s.hpm5 (log 6). A refill from another core's home is not said here. -/
def Obligations.CallsPushAndReturnsPop : Prop :=
  (∀ (s : State) (i : Instr) (t : Word),
     ((∃ o, i = .call o ∧ t = s.self.pc + 4 + BitVec.ofInt 64 (o.toInt * 4)) ∨
       ∃ a, i = .callr a ∧ s.readsG a t = true ∧ t.toNat % 4 = 0) →
     (s.self.ras.length < 16 →
       exec i s = .next (s.become (({ s.self with ras := s.self.ras ++ [s.self.pc + 4] }.markDead (s.port 28)).retire t))) ∧
     ∀ a, 16 ≤ s.self.ras.length → s.maps s.self.rasp 8 .store a = true → s.self.fifo.length < 8 →
       exec i s = .next (s.become (({ s.self with
         ras := s.self.ras.tail ++ [s.self.pc + 4]
         rasp := s.self.rasp + 8
         fifo := s.self.fifo ++ [(⟨s.self.rasp.toNat, s.ctxOf s.self.launch, a, natLe (s.self.ras.headD 0).toNat 8, none,
           s.self.late.getLsbD 0, false, none⟩ : FifoEntry)] }.markDead (s.port 28)).retire t))) ∧
  (∀ (s : State) (a : BitVec 5) (t : Word), t.toNat % 4 ≠ 0 → s.self.tvec ≠ 0 →
     (s.readsG a t = true → exec (.callr a) s = .next (s.traps 0x03 t)) ∧
     (s.self.ras.getLast? = some t → exec .ret s = .next (s.traps 0x03 t))) ∧
  ((∀ (s : State) (t : Word), s.self.ras.getLast? = some t → t.toNat % 4 = 0 →
     exec .ret s = .next (s.become (({ s.self with ras := s.self.ras.dropLast }.markDead (s.port 28)).retire t))) ∧
   (∀ (s : State) (a : Access) (bs : List Byte), s.self.ras = [] → s.self.rasb.toNat < s.self.rasp.toNat →
     s.maps (s.self.rasp - 8) 8 .load a = true → a.place = .core s.cur.1 → s.uncovered a.pa 8 = true → s.upToDate s.cur.1 = true →
     s.trails s.cur.1 s.cur.2 a 8 = false → s.homeRead a.pa 8 = some bs → leNat bs % 4 = 0 →
     let u := s.fillFor s.cur.1 s.cur.2 a 8
     exec .ret s = .next (u.become
       (({ u.self with rasp := s.self.rasp - 8 }.markDead (s.port 28)).retire (w64 (leNat bs))))) ∧
   ∀ s : State, s.self.ras = [] → s.self.rasp.toNat ≤ s.self.rasb.toNat → s.self.tvec ≠ 0 →
     exec .ret s = .next (s.traps 0x0A 0))

/-- R213: MarkDead makes DEAD exactly the FULL registers that s.dmask and s.vmask name, g0 apart, and in a pipeline group the ports. -/
def Obligations.MarkDeadKillsMaskedFullRegisters : Prop :=
  ∀ (x : Strand) (port : Bool),
    (∀ n, n < 32 → (vget (x.markDead port).g n).st =
      if x.dmask.getLsbD n ∧ n ≠ 0 ∧ ¬(port ∧ 28 ≤ n) ∧ (vget x.g n).st = .full then .dead else (vget x.g n).st) ∧
    (∀ n, n < 32 → (vget (x.markDead port).f n).st =
      if x.dmask.getLsbD (32 + n) ∧ (vget x.f n).st = .full then .dead else (vget x.f n).st) ∧
    (∀ n, n < 16 → (vget (x.markDead port).v n).st =
      if x.vmask.getLsbD n ∧ (vget x.v n).st = .full then .dead else (vget x.v n).st)

/-- R214, R215, R396: TRAP and BRK take their traps: s.epc, s.cause, s.einfo and BM are written and PC goes to s.tvec. ERET goes back to
s.epc and clears BM, and takes MISALIGN when s.epc is no word address. An access for which the strand has leapt is still the next one after
an ERET that returns to it, and after no other (R88); a BAR that pre-emption has stopped in its wait goes on in it likewise (R276).

R399: a trap of a strand whose s.tvec is zero aborts its launch: the first abort is recorded with cause, s.epc, s.einfo and s.sid, and every slot
of the launch's cores is FREE. -/
def Obligations.TrapsEnterAndReturn : Prop :=
  (∀ (s : State) (k : BitVec 10), s.self.tvec ≠ 0 →
    exec (.trap k) s = .next (s.traps 0x13 (zext64 k)) ∧
    exec (.brk k) s = .next (s.traps 0x12 (zext64 k))) ∧
  (∀ s : State,
    (s.self.epc.toNat % 4 = 0 → exec .eret s = .next (s.become ({ s.self with
      bm := false, leapt := if s.self.leapt = some s.self.epc then s.self.leapt else none
      counted := s.self.counted.filter fun b => b.1 == s.self.epc }.retire s.self.epc))) ∧
    (s.self.epc.toNat % 4 ≠ 0 → s.self.tvec ≠ 0 → exec .eret s = .next (s.traps 0x03 s.self.epc))) ∧
  ∀ (s : State) (k : BitVec 10) (q : Launch), s.self.tvec = 0 → tget s.launches s.self.launch.toNat = some q → q.abort = none →
    ∃ t, exec (.trap k) s = .next t ∧
      (∃ q', tget t.launches s.self.launch.toNat = some q' ∧
        q'.abort = some (0x13, s.self.pc, zext64 k, sidOf s.devid s.cur.1 s.cur.2 s.self.gen)) ∧
      ∀ c l, (s.core c).launch = some s.self.launch → (t.strand c l).st = .free

/-- R216: MFS reads every special register of R186 into d. MTS writes what may be written, and MFS then reads it as R186, R212 and R216 say. MFS of
s.hpm0 gives the count before its own, and MTS to it leaves the value written plus one, for itself: the model's reading of R408 (log 31, DEDUCED).

R189, R290, R408: an MTS of an undefined s.efmt or s.fcr takes ILLOP, and in user mode without HU one to a counter takes PRIV; nothing
is written. -/
def Obligations.SpecialRegistersReadAndWrite : Prop :=
  ((∀ (s : State) (d : BitVec 5) (n : BitVec 10), isSpecial n = true → s.port d.toNat = false →
     exec (.mfs d n) s = .next (s.become (s.self.putG d (readSpecial s s.self n.toNat)).went)) ∧
   ∀ (s : State) (a : BitVec 5) (n : BitVec 10) (v w : Word), s.readsG a v = true →
     (0x20 ≤ n.toNat → s.self.sup = true ∨ s.self.hu = true) → mtsRefuses n.toNat v = false →
     mtsLeaves s.self (readSpecial s s.self n.toNat) v n.toNat = some w →
     ∃ x : Strand, exec (.mts a n) s = .next (s.become x) ∧ readSpecial (s.become x) x n.toNat = w ∧
       x.g = s.self.g ∧ x.f = s.self.f ∧ x.v = s.self.v ∧ x.pc = s.self.pc + 4) ∧
  (∀ (s : State) (a : BitVec 5) (n : BitVec 10) (v : Word), s.self.tvec ≠ 0 →
     (s.readsG a v = true → mtsRefuses n.toNat v = true → (n = 1 ∨ n = 2) →
       exec (.mts a n) s = .next (s.traps 0x01 v)) ∧
     (0x20 ≤ n.toNat → s.self.sup = false → s.self.hu = false →
       exec (.mts a n) s = .next (s.traps 0x02 (zext64 ((encode (.mts a n)).getD 0)))))

/-- R217, R220: MFK reads a k register that no MTK issued before it holds. MTK, its release at core scope with nothing to wait for and no
MTK or MFK of its register issued before it, writes it, and sets bit 0 of every latch of the core.

R217: an MFK behind an MTK, and an MTK behind either or with its release unfinished, parks, and takes its place in the core's order. -/
def Obligations.CoreSharedRegisters : Prop :=
  ∀ (s : State) (k : BitVec 4),
    (∀ d : BitVec 5, s.selfCore.heldK s.cur.2 k.toNat false = false → s.port d.toNat = false →
      let t := s.become (s.self.putG d (vget s.selfCore.k k.toNat)).went
      exec (.mfk d k) s = .next (t.becomeCore (t.selfCore.leaveK s.cur.2))) ∧
    (∀ (a : BitVec 5) (v : Word), s.selfCore.heldK s.cur.2 k.toNat true = false → s.readsG a v = true → s.self.fifo = [] →
      ∃ t, exec (.mtk k a) s = .next t ∧ vget t.selfCore.k k.toNat = v ∧ t.self.pc = s.self.pc + 4 ∧
        t.self.g = s.self.g ∧ t.mem = s.mem ∧ t.homeDirty = s.homeDirty ∧
        (∀ n, n < 16 → n ≠ k.toNat → vget t.selfCore.k n = vget s.selfCore.k n) ∧
        (∀ l, (t.strand s.cur.1 l).latch = (s.strand s.cur.1 l).latch ||| 1) ∧
        t.selfCore.kq = s.selfCore.kq.filter fun e => e.2.1 != s.cur.2) ∧
    (s.selfCore.kq.all (fun e => e.2.1 != s.cur.2) = true →
      let queued (w : Bool) (p : Park) : State :=
        (s.becomeCore { s.selfCore with kq := s.selfCore.kq ++ [(k.toNat, s.cur.2, w)] }).become { s.self with st := .parked p }
      (∀ d : BitVec 5, s.selfCore.heldK s.cur.2 k.toNat false = true → exec (.mfk d k) s = .next (queued false (.kHeld k.toNat))) ∧
      ∀ (a : BitVec 5) (v : Word), s.readsG a v = true →
        (s.self.fifo ≠ [] → exec (.mtk k a) s = .next (queued true (.release 0))) ∧
        (s.self.fifo = [] → s.selfCore.heldK s.cur.2 k.toNat true = true → exec (.mtk k a) s = .next (queued true (.kHeld k.toNat))))

/-- R178, R199, R221: a form that reads g registers parks on the first of its sources that is EMPTY or PENDING, wherever that stands among
them, and also when one before it is DEAD with DT set. With DT set and no source that parks it takes DEAD_READ on the first one that is
DEAD. It has no other effect.

R168: in a pipeline group a read of port q0 to q3 takes the oldest word of its queue, and a write adds one at the end; an empty queue, one
whose oldest place is held for a result under way, or for a write one of eight places parks. MOV is shown through ORI. -/
def Obligations.SourcesParkTrapOrPop : Prop :=
  (∀ (s : State) (i : Instr) (before rest : List (BitVec 5)) (n : BitVec 5), gSources i = some (before ++ n :: rest) → n ≠ 0 →
     s.port n.toNat = false → before.all s.atHand = true →
     (((vget s.self.g n.toNat).st = .empty ∨ ∃ t b, (vget s.self.g n.toNat).st = .pending t b) →
       exec i s = .next (s.become { s.self with st := .parked (.reg 0 n.toNat) })) ∧
     ((vget s.self.g n.toNat).st = .dead → s.self.dt = true → s.self.tvec ≠ 0 → (∀ m ∈ before, ∃ v, s.readsG m v = true) →
       rest.all s.atHand = true → exec i s = .next (s.traps 0x09 (w64 n.toNat)))) ∧
  (∀ (s : State) (n : BitVec 5) (i : Nat) (p : Pipe) (x : Word), 28 ≤ n.toNat → s.selfCore.pipeOf s.cur.2 = some (i, p) →
     s.selfCore.pipes[i]? = some p →
     (∀ xs, vget p.q (n.toNat - 28) = .word x :: xs → ∃ t, exec (.ori 1 n 0) s = .next t ∧ vget t.self.g 1 = Reg.full x ∧
       t.selfCore.pipes = s.selfCore.pipes.set i { p with q := vset p.q (n.toNat - 28) xs }) ∧
     ((vget p.q (n.toNat - 28) = [] ∨ ∃ l xs, vget p.q (n.toNat - 28) = .held l :: xs) →
       exec (.ori 1 n 0) s = .next (s.become { s.self with st := .parked .queue })) ∧
     (s.readsG 1 x = true → (vget p.q (n.toNat - 28)).contains (.held s.cur.2) = false →
       ((vget p.q (n.toNat - 28)).length < 8 → ∃ t, exec (.ori n 1 0) s = .next t ∧ t.self.g = s.self.g ∧
         t.selfCore.pipes = s.selfCore.pipes.set i { p with q := vset p.q (n.toNat - 28) (vget p.q (n.toNat - 28) ++ [.word x]) }) ∧
       (8 ≤ (vget p.q (n.toNat - 28)).length →
         exec (.ori n 1 0) s = .next (s.become { s.self with st := .parked .queueFull }))))

/-- R199: a form that touches registers only leaves every byte of memory as it was, in every state and with every outcome, and, unless its
trap aborts the launch or gives back a slot reserved for a leap, every other strand. -/
def Obligations.RegisterFormsLeaveMemory : Prop :=
  ∀ (i : Instr) (s t : State), registerOnly i = true → exec i s = .next t →
    sameBytes s t ∧ t.hostMem = s.hostMem ∧ (s.self.tvec ≠ 0 → s.self.going = none → sameOthers s t)

/-! Accesses to memory -/

namespace Sys2Proof.Claims

/-- A destination that takes a value at once: no queue port, no stream. -/
def lands (s : State) : Dest → Bool
  | .none => true
  | .g n _ _ => !s.port n
  | .f n _ => s.plainF (BitVec.ofNat 5 n)
  | .v n => s.plainV n
  | .element _ _ _ _ => false

/-- A strand with loaded bytes in their destination, extended as R255, R257 and R258 say. -/
def landed (x : Strand) (d : Dest) (bs : List Byte) : Strand :=
  match d with
  | .none => x
  | .g n b signed => x.putG (BitVec.ofNat 5 n)
      (if signed then BitVec.ofInt 64 (BitVec.ofNat (8 * b) (leNat bs)).toInt else BitVec.ofNat 64 (leNat bs))
  | .f n _ => x.putF (BitVec.ofNat 5 n) (BitVec.ofNat 64 (leNat bs))
  | .v n => x.putV n (BitVec.ofNat 256 (leNat bs))
  | .element _ _ _ _ => x

/-- The loads of R255, R257, R258 and R260: whether their sources read at once, their address, size and destination. -/
def loadForm (s : State) (rg : BitVec 5 → Word) : Instr → Option (Bool × Word × Nat × Dest)
  | .ldb d a i => some (s.readsG a (rg a), rg a + BitVec.ofInt 64 i.toInt, 1, .g d.toNat 1 true)
  | .ldbn d a i => some (s.readsG a (rg a), rg a + BitVec.ofInt 64 i.toInt, 1, .g d.toNat 1 false)
  | .ldh d a i => some (s.readsG a (rg a), rg a + BitVec.ofInt 64 i.toInt, 2, .g d.toNat 2 true)
  | .ldhn d a i => some (s.readsG a (rg a), rg a + BitVec.ofInt 64 i.toInt, 2, .g d.toNat 2 false)
  | .ldw d a i => some (s.readsG a (rg a), rg a + BitVec.ofInt 64 i.toInt, 4, .g d.toNat 4 true)
  | .ldwn d a i => some (s.readsG a (rg a), rg a + BitVec.ofInt 64 i.toInt, 4, .g d.toNat 4 false)
  | .ldd d a i => some (s.readsG a (rg a), rg a + BitVec.ofInt 64 i.toInt, 8, .g d.toNat 8 false)
  | .vld d a i => some (s.readsG a (rg a), rg a + BitVec.ofInt 64 (i.toInt * 32), 32, .v d.toNat)
  | .fldd d a i => some (s.readsG a (rg a), rg a + BitVec.ofInt 64 i.toInt, 8, .f d.toNat 8)
  | .flds d a i => some (s.readsG a (rg a), rg a + BitVec.ofInt 64 i.toInt, 4, .f d.toNat 4)
  | .ldx d a b _ n sc => some (s.readsG a (rg a) && s.readsG b (rg b), rg a + rg b, 2 ^ sc.toNat, .g d.toNat (2 ^ sc.toNat) (n == 0))
  | _ => none

/-- The stores of R256 to R258 and R260: whether their sources read at once, their address, size and data. -/
def storeForm (s : State) (rg rf : BitVec 5 → Word) (rv : Nat → VWord) : Instr → Option (Bool × Word × Nat × Nat)
  | .stb b a i => some (s.readsG a (rg a) && s.readsG b (rg b), rg a + BitVec.ofInt 64 i.toInt, 1, (rg b).toNat)
  | .sth b a i => some (s.readsG a (rg a) && s.readsG b (rg b), rg a + BitVec.ofInt 64 i.toInt, 2, (rg b).toNat)
  | .stw b a i => some (s.readsG a (rg a) && s.readsG b (rg b), rg a + BitVec.ofInt 64 i.toInt, 4, (rg b).toNat)
  | .std b a i => some (s.readsG a (rg a) && s.readsG b (rg b), rg a + BitVec.ofInt 64 i.toInt, 8, (rg b).toNat)
  | .vst b a i => some (s.readsG a (rg a) && s.readsV b.toNat (rv b.toNat), rg a + BitVec.ofInt 64 (i.toInt * 32), 32, (rv b.toNat).toNat)
  | .fstd b a i => some (s.readsG a (rg a) && s.readsF b (rf b), rg a + BitVec.ofInt 64 i.toInt, 8, (rf b).toNat)
  | .fsts b a i => some (s.readsG a (rg a) && s.readsF b (rf b), rg a + BitVec.ofInt 64 i.toInt, 4, (rf b).toNat)
  | .stx d a b _ sc => some (s.readsG a (rg a) && s.readsG b (rg b) && s.readsG d (rg d), rg a + rg b, 2 ^ sc.toNat, (rg d).toNat)
  | _ => none

/-- Loads and stores together: whether their sources read at once, their address, size and kind. -/
def accessForm (s : State) (rg rf : BitVec 5 → Word) (rv : Nat → VWord) (i : Instr) : Option (Bool × Word × Nat × Kind) :=
  match loadForm s rg i, storeForm s rg rf rv i with
  | some (r, va, n, _), _ => some (r, va, n, .load)
  | _, some (r, va, n, _) => some (r, va, n, .store)
  | _, _ => none

/-- Only cores differ, and of the performing core only its predictor and its strands. -/
def onlyMine (s t : State) : Prop :=
  t = { s with cores := t.cores } ∧ sameOthers s t ∧ (∀ c, c ≠ s.cur.1 → t.core c = s.core c) ∧
    t.selfCore = { s.selfCore with pred := t.selfCore.pred, slots := t.selfCore.slots }

/-- Cores other than the performing one are as before, and on it every strand but the performing one. -/
def othersStand (s t : State) : Prop := t.cur = s.cur ∧ sameOthers s t ∧ ∀ c, c ≠ s.cur.1 → t.core c = s.core c

/-- A byte as an access of this device reads it: a scratchpad's upper half is zero (R12). -/
def byteAt (s : State) (a : Nat) : Byte :=
  match regionOf (localOf a) with
  | .spad _ off => if off < 0x80000 then mget s.mem a else 0
  | _ => s.homeByte a

/-- `n` bytes at `pa` lie in DRAM, the CXL window or the populated half of a scratchpad of this device. -/
def inMemory (s : State) (pa n : Nat) : Prop :=
  ∀ i, i < n → devOf (pa + i) = s.devid.toNat ∧ match regionOf (localOf (pa + i)) with
    | .dram _ _ | .cxl _ => True
    | .spad _ off => off < 0x80000
    | _ => False

/-- Memory is `bs` at `pa`, and elsewhere as in `s`. -/
def stored (s t : State) (pa : Nat) (bs : List Byte) : Prop :=
  ∀ a, byteAt t a = if pa ≤ a ∧ a < pa + bs.length then bs.getD (a - pa) 0 else byteAt s a

/-- What a release at a scope finds done: the FIFO empty, no posted operation owed a probe, and at package scope and beyond no line that
the core's channel group has written; at system scope no timed store due and no dirty byte (R119). -/
def settled (s : State) (scope : Nat) : Prop :=
  s.self.fifo = [] ∧ s.self.tbm = 0 ∧
    (3 ≤ scope → (s.die (dieOf s.cur.1)).rdc.all (fun p => !p.2.writers.getLsbD (groupOf s.cur.1)) = true) ∧
    (scope = 5 → s.cores.all (fun k => s.upToDate k.1) = true ∧ s.homeDirty = [] ∧ s.mscDirty = [])

end Sys2Proof.Claims

/-- R109, R111, R255, R257, R258, R260: a load whose home is the strand's own core takes its bytes there, or from the strand's own FIFO
when that covers them all, and parks while it covers some; beside the destination, and what the home cache then holds, only the counters (a miss
there counts in s.hpm5, R408), the predictor and the record of R88 change.

R81, R87, R89, R106: a load homed at another core of the die, which no leap is chosen for, is carried to its home; there it is performed, eight
bytes at a time in ascending order, after any store of its strand to those bytes that is still on its way, and its answer is written and retires
the strand.

R80, R91, R92, R408: a load of a DRAM or CXL line homed on another die, which no leap is chosen for, takes its bytes from the issuing die's
remote-data cache where that holds them all, and else fills the sector from the home, counts in s.hpm6, and in s.hpm5 when the home cache misses
too (log 6, the model's choice). -/
def Obligations.LoadsGiveTheirBytes : Prop :=
  (∀ (s : State) (rg : BitVec 5 → Word) (i : Instr) (va : Word) (n : Nat) (d : Dest) (a : Access) (bs : List Byte),
     loadForm s rg i = some (true, va, n, d) → lands s d = true → s.reaches va n .load a = true → a.place = .core s.cur.1 →
     (s.uncovered a.pa n = true → s.self.going = none → s.upToDate s.cur.1 = true → s.homeRead a.pa n = some bs →
       let u := s.fillFor s.cur.1 s.cur.2 a n
       ∃ t, exec i s = .next t ∧ onlyMine u t ∧
         t.self = { (landed u.self d bs).went with mrec := t.self.mrec, leapt := t.self.leapt }) ∧
     (bs.length = n → (∀ j, j < n → fifoByte s.self.fifo (a.pa + j) = bs[j]?) →
       ∃ t, exec i s = .next t ∧ onlyMine s t ∧
         t.self = { (landed s.self d bs).went with mrec := t.self.mrec, leapt := t.self.leapt }) ∧
     ((∃ j, j < n ∧ (fifoByte s.self.fifo (a.pa + j)).isSome = true) → (∃ j, j < n ∧ fifoByte s.self.fifo (a.pa + j) = none) →
       exec i s = .next (s.become { s.self with st := .parked (.covered a.pa n) }))) ∧
  ((∀ (s : State) (rg : BitVec 5 → Word) (i : Instr) (va : Word) (n : Nat) (d : Dest) (a : Access) (y : Nat),
     loadForm s rg i = some (true, va, n, d) → lands s d = true → s.reaches va n .load a = true → a.place = .core y → y ≠ s.cur.1 →
     dieOf y = dieOf s.cur.1 → s.uncovered a.pa n = true → s.self.going = none →
     (s.self.mig.toNat % 4 = 1 ∨ s.canLeap s.cur.1 s.cur.2 y = false) →
     let u := s.yieldLine (dieOf s.cur.1) a.pa
     ∃ t, exec i s = .next t ∧ onlyMine u t ∧ t.self = { u.self with
       st := .parked (.memory (.read a n d [])), hpm := vset u.self.hpm 2 (vget u.self.hpm 2 + BitVec.ofNat 64 ((n + 7) / 8))
       mrec := t.self.mrec, leapt := t.self.leapt }) ∧
   ∀ (s : State) (c l : Nat) (a : Access) (n y : Nat) (d : Dest) (got bs : List Byte),
     (s.strand c l).st = .parked (.memory (.read a n d got)) → got.length < n → a.place = .core y → s.upToDate y = true →
     let here : Access := { a with pa := a.pa + got.length }
     let m := min 8 (n - got.length)
     s.refused here.pa = false → s.gone here.pa = false → s.trails c l a n = false → s.homeRead here.pa m = some bs →
     let u := s.fillFor c l here m
     (got.length + m < n → exec (.remoteWordAccess c l) s = .next (u.parkStrand c l (.memory (.read a n d (got ++ bs))))) ∧
     (got.length + m = n → lands { s with cur := (c, l) } d = true →
       exec (.remoteWordAccess c l) s = .next (u.setStrand c l (landed (u.strand c l) d (got ++ bs)).went))) ∧
  ∀ (s : State) (rg : BitVec 5 → Word) (i : Instr) (va : Word) (n : Nat) (d : Dest) (a : Access) (y : Nat),
    loadForm s rg i = some (true, va, n, d) → lands s d = true → s.reaches va n .load a = true → a.place = .core y →
    dieOf y ≠ dieOf s.cur.1 → (regionOf (localOf a.pa)).cached = true → s.uncovered a.pa n = true → s.self.going = none →
    (s.self.mig.toNat % 4 = 1 ∨ s.canLeap s.cur.1 s.cur.2 y = false) → s.badWords = [] →
    let rdc (t : State) : Option RdcLine := tget (t.die (dieOf s.cur.1)).rdc (a.pa / 256)
    let sector := a.pa / 64 * 64
    (∀ l bs, rdc s = some l → bs.length = n → (∀ j, j < n → l.get (a.pa % 256 + j) = bs[j]?) →
      ∃ t, exec i s = .next t ∧ onlyMine s t ∧ t.self = { (landed s.self d bs).went with mrec := t.self.mrec, leapt := t.self.leapt }) ∧
    ∀ ss, rdc s = none → s.upToDate y = true → s.homeRead sector 64 = some ss →
      ∃ t l, exec i s = .next t ∧ othersStand s t ∧ sameBytes s t ∧
        t.self = { (landed s.self d ((ss.drop (a.pa - sector)).take n)).went with
          mrec := t.self.mrec, leapt := t.self.leapt
          hpm := vset (vset s.self.went.hpm 6 (vget s.self.hpm 6 + 1)) 5 (vget s.self.hpm 5 + if s.missesHome a.place sector 64 then 1 else 0) } ∧
        rdc t = some l ∧ l.home = y ∧ l.dirty = [] ∧ ∀ j, j < 64 → l.get (sector % 256 + j) = ss[j]?

/-- R8, R17, R18, R24, R25, R27, R29, R39, R130, R178: before it has any effect an access of a load or store takes MISALIGN, PROT for an
address that is not canonical, waits for a walk, posts a rights fault, waits for a walk that sets A or D, takes MISALIGN of a width that control
space does not take, RANGE_HELD of the peg that holds it off, or PROT or EXTENT_GONE where it is refused. -/
def Obligations.AccessesAreCheckedFirst : Prop :=
  ∀ (s : State) (rg rf : BitVec 5 → Word) (rv : Nat → VWord) (i : Instr) (va : Word) (n : Nat) (k : Kind),
    accessForm s rg rf rv i = some (true, va, n, k) → s.self.tvec ≠ 0 →
    (va.toNat % n ≠ 0 → exec i s = .next (s.traps 0x03 va)) ∧
    (va.toNat % n = 0 → 2 ^ 57 ≤ va.toNat → exec i s = .next (s.traps 0x06 va)) ∧
    (va.toNat % n = 0 → va.toNat < 2 ^ 57 →
      let walks (upd : Bool) : State := (s.modDie (dieOf s.cur.1) fun d => { d with walks := d.walks ++
            [(⟨s.cur.1, s.cur.2, none, va.toNat, k, false, upd, s.ctxOf s.self.launch, !s.self.sup⟩ : WalkReq)] }).become
          { s.self with st := .parked (.walk va.toNat k false upd) }
      (s.tlbFind s.cur.1 (s.ctxOf s.self.launch) va.toNat = none → exec i s = .next (walks false)) ∧
      ∀ e, s.tlbFind s.cur.1 (s.ctxOf s.self.launch) va.toNat = some e →
        (leafAllows e.leaf k (!s.self.sup) = false → exec i s = .next (s.strandFault s.cur.1 s.cur.2 va.toNat k 1 e.level false)) ∧
        (leafAllows e.leaf k (!s.self.sup) = true → leafStale e.leaf k = true → exec i s = .next (walks true))) ∧
    (∀ (e : TlbEnt) (a : Access), va.toNat % n = 0 → va.toNat < 2 ^ 57 →
      s.tlbFind s.cur.1 (s.ctxOf s.self.launch) va.toNat = some e → leafAllows e.leaf k (!s.self.sup) = true → leafStale e.leaf k = false →
      s.accessOf e va.toNat = some a →
      (inControl a.pa = true → n ≠ 8 → exec i s = .next (s.traps 0x03 va)) ∧
      (inControl a.pa = false ∨ n = 8 → s.selfCore.pegHit (s.ctxOf s.self.launch) va.toNat n k.writes = none →
        (s.refused a.pa = true → exec i s = .next (s.traps 0x06 (BitVec.ofNat 64 a.pa))) ∧
        (s.refused a.pa = false → s.gone a.pa = true → exec i s = .next (s.traps 0x11 (BitVec.ofNat 64 a.pa))))) ∧
    ∀ (a : Access) (j : Nat) (w : Bool), s.maps va n k a = true →
      s.selfCore.pegHit (s.ctxOf s.self.launch) va.toNat n k.writes = some (j, w) →
      exec i s = .next (s.traps 0x07 (BitVec.ofNat 64 (j * 2 ^ 60 + w.toNat * 2 ^ 59 + va.toNat)))

/-- R87, R110, R256 to R258, R260, R262: a store that no leap is chosen for enters the tail of its strand's FIFO, and memory is as before;
a full FIFO parks it. A timed store, which no leap is chosen for, enters with its time and the policy of s.late. -/
def Obligations.StoresEnterTheirFifo : Prop :=
  (∀ (s : State) (rg rf : BitVec 5 → Word) (rv : Nat → VWord) (i : Instr) (va : Word) (n x : Nat) (a : Access),
    storeForm s rg rf rv i = some (true, va, n, x) → s.reaches va n .store a = true → s.self.going = none →
    (leapDst a s.cur.1 = none ∨ s.self.mig.toNat % 4 = 1) →
    (s.self.fifo.length < 8 → ∃ t, exec i s = .next t ∧ onlyMine s t ∧ t.self = { s.self.went with
      fifo := s.self.fifo ++ [⟨va.toNat, s.ctxOf s.self.launch, a, natLe x n, none, s.self.late.getLsbD 0, false, none⟩]
      mrec := t.self.mrec, leapt := t.self.leapt }) ∧
    (8 ≤ s.self.fifo.length → exec i s = .next (s.become { s.self with st := .parked .fifoFull }))) ∧
  ∀ (s : State) (rg : BitVec 5 → Word) (d a b : BitVec 5) (sc : BitVec 2) (x : Access),
    s.readsG a (rg a) = true → s.readsG b (rg b) = true → s.readsG d (rg d) = true →
    s.reaches (rg a) (2 ^ sc.toNat) .timedStore x = true →
    (s.self.fifo.length < 8 → ∃ t, exec (.stt d a b sc) s = .next t ∧ onlyMine s t ∧ t.self = { s.self.went with
      fifo := s.self.fifo ++ [(⟨(rg a).toNat, s.ctxOf s.self.launch, x, natLe (rg d).toNat (2 ^ sc.toNat), some (rg b),
        s.self.late.getLsbD 0, false, none⟩ : FifoEntry)]
      mrec := t.self.mrec, leapt := t.self.leapt }) ∧
    (8 ≤ s.self.fifo.length → exec (.stt d a b sc) s = .next (s.become { s.self with st := .parked .fifoFull }))

/-- R81, R83, R92, R105, R107, R113, R114, R408: the head of a FIFO whose home lies on the die drains into it, in one piece at its own core and
otherwise by at most eight bytes, which count as a remote word access (one to control space is none, R80): those bytes of memory are the store's,
every other byte is as before, and what is left stays at the head. A store to a sector of which the home cache holds nothing counts as its miss (log
6, the model's choice). A cached line homed on another die takes the store as dirty bytes of the die's remote-data cache. A far store is placed on
the posted path, its exit counted and bit 63 of s.tbm set. -/
def Obligations.StoresDrainInOrder : Prop :=
  ∀ (s : State) (c l : Nat) (e : FifoEntry) (es : List FifoEntry), (s.strand c l).fifo = e :: es → e.timed = none →
    let left (n : Nat) : List FifoEntry := (if e.data.length ≤ n then [] else [{ e with
      va := e.va + n, acc := { e.acc with pa := e.acc.pa + n }, data := e.data.drop n }]) ++ es
    (∀ y, s.canonical = true → e.acc.place = .core y → dieOf y = dieOf c → s.upToDate y = true → s.refused e.acc.pa = false →
      s.gone e.acc.pa = false → inMemory s e.acc.pa e.data.length →
      let n := if y = c then e.data.length else min 8 e.data.length
      let h := if (regionOf (localOf e.acc.pa)).cached && !s.homeHolds (e.acc.pa / 64) && !s.homeDirty.any (fun b => b.1 / 64 == e.acc.pa / 64)
        then vset (s.strand c l).hpm 5 (vget (s.strand c l).hpm 5 + 1) else (s.strand c l).hpm
      ∃ t, exec (.storeDrain c l) s = .next t ∧ stored s t e.acc.pa (e.data.take n) ∧
        t = { s with cores := t.cores, homeDirty := t.homeDirty, clean := t.clean, badWords := t.badWords, mem := t.mem, dies := t.dies, pushes :=
          t.pushes } ∧
        t.strand c l = { s.strand c l with
          fifo := left n, hpm := if y = c ∨ inControl e.acc.pa = true then h else vset h 2 (vget h 2 + 1) } ∧
        ∀ c' l', c' ≠ c ∨ l' % 16 ≠ l % 16 → t.strand c' l' = s.strand c' l') ∧
    (∀ y, e.acc.place = .core y → dieOf y ≠ dieOf c → (regionOf (localOf e.acc.pa)).cached = true → s.refused e.acc.pa = false →
      s.gone e.acc.pa = false → ∃ t q, exec (.storeDrain c l) s = .next t ∧ sameBytes s t ∧ t.strand c l = { s.strand c l with fifo := es } ∧
        tget (t.die (dieOf c)).rdc (e.acc.pa / 256) = some q ∧ q.writers.getLsbD (groupOf c) = true ∧
        ∀ j b, e.data[j]? = some b → tget q.dirty (e.acc.pa % 256 + j) = some b) ∧
    (((∃ z h, e.acc.place = .device z h) ∨ ∃ y, e.acc.place = .core y ∧ dieOf y ≠ dieOf c ∧ (regionOf (localOf e.acc.pa)).cached = false) →
      ∃ t, exec (.storeDrain c l) s = .next t ∧ sameBytes s t ∧ t.posted = s.posted ++
          [⟨c, l, (s.strand c l).gen, (s.strand c l).launch, .store { e with data := e.data.take (min 8 e.data.length) }⟩] ∧
        t.strand c l = { s.strand c l with
          fifo := left (min 8 e.data.length), tbm := (s.strand c l).tbm ||| (1#64 <<< 63), exits := (s.strand c l).exits + 1
          hpm := if inControl e.acc.pa then (s.strand c l).hpm else vset (s.strand c l).hpm 2 (vget (s.strand c l).hpm 2 + 1) })

/-- R145, R148, R261: a timed load leaves for its home, on this device or another, once no FIFO entry covers a byte of it. There it waits until the
clock of the home has reached its time; one that comes later is performed on arrival. It arrives after any store of its strand to those bytes that
is still on its way (R106).

R145 to R147, R149 to R151: a timed store is sent, and its home takes it into the calendar while its time is to come; one that comes late is counted
in TULATE, applied under APPLY and discarded under DROP. It too arrives after the strand's own stores on their way (R106). The calendar applies an
entry when its time is reached. The verdict ends the drain, and a late one is recorded in s.late, with a report under DROP. -/
def Obligations.TimedAccessesMeetTheirTime : Prop :=
  ((∀ (s : State) (rg : BitVec 5 → Word) (d a b : BitVec 5) (m : BitVec 1) (sc : BitVec 2) (x : Access),
     s.readsG a (rg a) = true → s.readsG b (rg b) = true → s.reaches (rg a) (2 ^ sc.toNat) .timedLoad x = true → s.port d.toNat = false →
     s.self.fifo.all (fun e => !e.overlaps x.pa (2 ^ sc.toNat)) = true →
     let u := s.yieldLine (dieOf s.cur.1) x.pa
     ∃ t, exec (.ldt d a b m sc) s = .next t ∧ onlyMine u t ∧ t.self = { u.self with
       st := .parked (.timedLoad (.timedRead x (2 ^ sc.toNat) (rg b) (.g d.toNat (2 ^ sc.toNat) (m == 0)) false))
       hpm := if x.place = .core s.cur.1 ∨ inControl x.pa = true then u.self.hpm else vset u.self.hpm 2 (vget u.self.hpm 2 + 1)
       mrec := t.self.mrec, leapt := t.self.leapt }) ∧
   ∀ (s : State) (c l : Nat) (p : Place) (a : Access) (n : Nat) (w : Word) (d : Dest),
     (s.strand c l).st = .parked (.timedLoad (.timedRead a n w d false)) → a.place = p → p ≠ .control → s.heldBack a = false →
     s.trails c l a n = false → (s.clock p < w.toNat → ∃ t, exec (.timedLoadArrival c l) s = .next t ∧
       t.strand c l = { s.strand c l with st := .parked (.timedLoad (.timedRead a n w d true)) } ∧
       t = { s with cores := t.cores, fars := t.fars } ∧
       (t.calOf p).loads = ((s.calOf p).loads.filter fun q => !(q.core == c && q.slot == l)) ++ [⟨a, n, w, c, l, (s.strand c l).gen, none⟩]) ∧
     ∀ bs, w.toNat ≤ s.clock p → s.current p = true → s.refused a.pa = false → s.gone a.pa = false →
       ((∃ y, p = .core y) ∨ namesRegister a.pa = false) → s.homeRead a.pa n = some bs → lands { s with cur := (c, l) } d = true →
       let u := s.fillFor c l a n
       exec (.timedLoadArrival c l) s = .next ((u.dropClean (dieOf c) a.pa).setStrand c l (landed (u.strand c l) d bs).went)) ∧
  ((∀ (s : State) (c l : Nat) (e : FifoEntry) (es : List FifoEntry) (w : Word), (s.strand c l).fifo = e :: es → e.timed = some w →
     e.sent = false → tget (s.die (dieOf c)).rdc (e.acc.pa / 256) = none →
     exec (.storeDrain c l) s = .next (s.setStrand c l { s.strand c l with
       fifo := { e with sent := true } :: es
       hpm := if e.acc.place = .core c ∨ inControl e.acc.pa = true then (s.strand c l).hpm
         else vset (s.strand c l).hpm 2 (vget (s.strand c l).hpm 2 + 1) })) ∧
   (∀ (s : State) (c l y : Nat) (e : FifoEntry) (es : List FifoEntry) (w : Word), (s.strand c l).fifo = e :: es → e.timed = some w →
     e.sent = true → e.late = none → e.acc.place = .core y → s.refused e.acc.pa = false → s.gone e.acc.pa = false →
     s.trails c l e.acc e.data.length = false → s.upToDate y = true → (s.core y).calWait = [] →
     (s.atime (dieOf y) < w.toNat → (s.core y).cal.length < 64 → ∃ t, exec (.timedStoreArrival c l) s = .next t ∧
       t.strand c l = { s.strand c l with fifo := { e with late := some false } :: es } ∧ t = { s with cores := t.cores } ∧
       (t.core y).cal = (s.core y).cal ++ [⟨w, e.acc, e.va, e.ctx, e.data, e.pol, c, l, (s.strand c l).gen⟩]) ∧
     (s.atime (dieOf y) < w.toNat → 64 ≤ (s.core y).cal.length → ∃ t, exec (.timedStoreArrival c l) s = .next t ∧
       t = { s with cores := t.cores } ∧ t.strand c l = s.strand c l ∧ (t.core y).cal = (s.core y).cal ∧
       (t.core y).calWait = [⟨w, e.acc, e.va, e.ctx, e.data, e.pol, c, l, (s.strand c l).gen⟩]) ∧
     (w.toNat ≤ s.atime (dieOf y) → s.canonical = true → inMemory s e.acc.pa e.data.length → ∃ t, exec (.timedStoreArrival c l) s = .next t ∧
       t.strand c l = { s.strand c l with fifo := { e with late := some true } :: es } ∧ (t.core y).cal = (s.core y).cal ∧
       (t.die (dieOf y)).late = (s.die (dieOf y)).late + 1 ∧ stored s t e.acc.pa (if e.pol then e.data else []))) ∧
   (∀ (s : State) (y : Nat) (e : CalEntry), s.canonical = true → (s.core y).cal = [e] → (s.core y).calWait = [] → (s.core y).loads = [] →
     e.t.toNat ≤ s.atime (dieOf y) → s.refused e.acc.pa = false → s.gone e.acc.pa = false → inMemory s e.acc.pa e.data.length →
     ∃ t, exec (.calendarApply y) s = .next t ∧ stored s t e.acc.pa e.data ∧ (t.core y).cal = [] ∧
       ∀ c l, t.strand c l = s.strand c l) ∧
   ∀ (s : State) (c l : Nat) (e : FifoEntry) (es : List FifoEntry) (w : Word) (late : Bool), (s.strand c l).fifo = e :: es →
     e.timed = some w → e.late = some late → (s.strand c l).st ≠ .free →
     exec (.verdictReturn c l) s = .next (s.setStrand c l (if late then { s.strand c l with
         fifo := es
         late := BitVec.ofNat 64 (e.va % 2 ^ 57 * 2 ^ 7
           + (if e.pol then min 63 (((s.strand c l).late.toNat / 2) % 64 + 1) else ((s.strand c l).late.toNat / 2) % 64) * 2
           + (s.strand c l).late.toNat % 2)
         report := if e.pol then (s.strand c l).report else (s.strand c l).report.or (some w) }
       else { s.strand c l with fifo := es })))

/-! Atomics, ordering and waiting -/

namespace Sys2Proof.Claims

/-- The operation, the registers d, a, b and the bits R, Q and SC of an atomic (R267). -/
def amoForm : Instr → Option (AmoOp × BitVec 5 × BitVec 5 × BitVec 5 × BitVec 1 × BitVec 1 × BitVec 1)
  | .amoadd d a b r q sc => some (.add, d, a, b, r, q, sc)
  | .amoand d a b r q sc => some (.and, d, a, b, r, q, sc)
  | .amoor d a b r q sc => some (.or, d, a, b, r, q, sc)
  | .amoxor d a b r q sc => some (.xor, d, a, b, r, q, sc)
  | .amomin d a b r q sc => some (.min, d, a, b, r, q, sc)
  | .amomax d a b r q sc => some (.max, d, a, b, r, q, sc)
  | .amominn d a b r q sc => some (.minn, d, a, b, r, q, sc)
  | .amomaxn d a b r q sc => some (.maxn, d, a, b, r, q, sc)
  | .amoswap d a b r q sc => some (.swap, d, a, b, r, q, sc)
  | .amocas d a b r q sc => some (.cas, d, a, b, r, q, sc)
  | .amofadd d a b r q sc => some (.fadd, d, a, b, r, q, sc)
  | .amofmax d a b r q sc => some (.fmax, d, a, b, r, q, sc)
  | _ => none

/-- Whether an atomic is a floating one. -/
def floats (op : AmoOp) : Bool := op == .fadd || op == .fmax

/-- What an atomic of width `w` writes (R268, R269); the floating ones round once, to nearest (R270). -/
def amoWrites (op : AmoOp) (w : Nat) (old b cmp : BitVec w) : Option (BitVec w) :=
  match op with
  | .add => some (old + b)
  | .and => some (old &&& b)
  | .or => some (old ||| b)
  | .xor => some (old ^^^ b)
  | .min => some (if old.toInt < b.toInt then old else b)
  | .max => some (if old.toInt < b.toInt then b else old)
  | .minn => some (if old.toNat < b.toNat then old else b)
  | .maxn => some (if old.toNat < b.toNat then b else old)
  | .swap => some b
  | .cas => if old = cmp then some b else none
  | .fadd => some (BitVec.ofNat w (famo false (w / 8) old.toNat b.toNat))
  | .fmax => some (BitVec.ofNat w (famo true (w / 8) old.toNat b.toNat))

/-- A strand after an acquire, when its instruction makes one (R120, R247). -/
def acquired (q : Bool) (x : Strand) : Strand := if q then x.discard else x

/-- No clean byte of a line that is not read-only stays in a die's remote-data cache (R94). -/
def flashed (t : State) (d : Nat) : Prop := ∀ p ∈ (t.die d).rdc, p.2.ros = false → p.2.clean = []

/-- The eight bytes at an address, in the strand's own core's home and in no entry of its FIFO, are a word. -/
def reads8 (s : State) (va w : Word) : Prop :=
  ∃ a, s.reaches va 8 .load a = true ∧ a.place = .core s.cur.1 ∧ s.uncovered a.pa 8 = true ∧ s.homeRead a.pa 8 = some (natLe w.toNat 8)

/-- A barrier form's operand: its unit belongs to the strand's launch, and its scope contains the core (R272). -/
def barrierHere (s : State) (w : Word) (b : Barrier) : Prop :=
  w.toNat < 1024 ∧ s.barrier w.toNat = some b ∧ b.owner = s.self.launch ∧ scopeOf s.cur.1 b.init ≤ b.scope

end Sys2Proof.Claims

/-- R66, R101, R252: a load at its own core that needs a byte of an uncorrectable sector which no cache on its way holds, or a byte of scratchpad
or a dirty byte of the home cache with an uncorrectable error, takes MEM_UNCORRECTABLE with the sector's address, its destination as before;
CHUE and CHUEADDR of the channel, or SRUE of the die, count it. -/
def Obligations.UncorrectableReadsTrap : Prop :=
  ∀ (s : State) (rg : BitVec 5 → Word) (i : Instr) (va : Word) (n : Nat) (d : Dest) (a : Access) (j : Nat),
    loadForm s rg i = some (true, va, n, d) → lands s d = true → s.reaches va n .load a = true → a.place = .core s.cur.1 → a.pa < 2 ^ 57 →
    a.pa % n = 0 → s.uncovered a.pa n = true → s.upToDate s.cur.1 = true → s.self.tvec ≠ 0 → j < n →
    let info := BitVec.ofNat 64 (a.pa / 64 * 64)
    let traps (t : State) : Prop := t.self = s.given.self.trapped 0x0E info ∧ othersStand s.given t ∧ sameBytes s t
    (a.pa / 64 * 64 ∈ s.badSectors → s.masked (a.pa + j) = false → s.homeHolds (a.pa / 64) = false → s.mscHolds (a.pa / 64) = false →
      (∀ w ∈ s.badWords, w.2 / 8 ≠ a.pa / 64) →
      ∃ t, exec i s = .next t ∧ traps t ∧
        (∀ h, chanOf a.pa = some h → t.chan h = { s.chan h with ue := (s.chan h).ue + 1, ueAddr := info }) ∧
        ∀ c o, regionOf (localOf a.pa) = .spad c o → (t.die (dieOf c)).srue = (s.die (dieOf c)).srue + 1) ∧
    (s.badWord none (a.pa + j) = true → ((tget s.homeDirty (a.pa + j)).isSome = true ∨ inSpad (a.pa + j) = true) →
      s.homeDie a.pa = some (dieOf s.cur.1) →
      ∃ t, exec i s = .next t ∧ traps t ∧ (t.die (dieOf s.cur.1)).srue = (s.die (dieOf s.cur.1)).srue + 1)

/-- R115, R267 to R270, and at level 0 the floating forms: an atomic at its own core reads the old value, sign-extended where R267 says so,
into d, and writes what its table says in one step, after the release of R and before the acquire of Q.

R271: at determinism levels 1 and 2 a floating atomic enters the core's ordered-atomic buffer with its lane and sequence number,
leaves d DEAD, and changes no memory. -/
def Obligations.AtomicsUpdateTheirHome : Prop :=
  (∀ (s : State) (rg : BitVec 5 → Word) (i : Instr) (op : AmoOp) (d a b : BitVec 5) (r q sc : BitVec 1) (x : Access) (bs : List Byte),
     s.canonical = true → amoForm i = some (op, d, a, b, r, q, sc) → (floats op = true → s.self.dl = 0) →
     s.readsG a (rg a) = true → s.readsG b (rg b) = true → (op = .cas → s.readsG d (rg d) = true) → s.port d.toNat = false →
     let n := if sc = 1 then 8 else 4
     s.reaches (rg a) n .atomic x = true → x.place = .core s.cur.1 → s.self.fifo = [] → s.self.going = none → (r = 1 → settled s 3) →
     s.upToDate s.cur.1 = true →
     tget (s.die (dieOf s.cur.1)).rdc (x.pa / 256) = none → s.homeRead x.pa n = some bs → inMemory s x.pa n →
     let u := s.fillFor s.cur.1 s.cur.2 x n
     ∃ t, exec i s = .next t ∧ othersStand s t ∧
       t.self = { (acquired (q == 1) (landed u.self (.g d.toNat n (op != .minn && op != .maxn && !floats op)) bs)).went with
         mrec := t.self.mrec, leapt := t.self.leapt } ∧
       stored s t x.pa (match amoWrites op (8 * n) (BitVec.ofNat _ (leNat bs)) (BitVec.ofNat _ (rg b).toNat) (BitVec.ofNat _ (rg d).toNat) with
         | some v => natLe v.toNat n
         | none => []) ∧
       (q = 1 → flashed t (dieOf s.cur.1))) ∧
  (∀ (s : State) (rg : BitVec 5 → Word) (i : Instr) (op : AmoOp) (d a b : BitVec 5) (r q sc : BitVec 1) (x : Access),
     amoForm i = some (op, d, a, b, r, q, sc) → floats op = true → s.self.dl ≠ 0 → s.readsG a (rg a) = true → s.readsG b (rg b) = true →
     s.port d.toNat = false → d ≠ 0 →
     let n := if sc = 1 then 8 else 4
     let scope := match x.place with | .device _ _ => 4 | _ => 3
     s.reaches (rg a) n .atomic x = true → s.self.fifo = [] → (r = 1 → settled s scope) → s.selfCore.oab.length < 256 →
     ∃ t, exec i s = .next t ∧ othersStand s t ∧ sameBytes s t ∧
       t.self = (acquired (q == 1) { s.self with seq := s.self.seq + 1, g := vset s.self.g d.toNat ⟨0, .dead, none⟩ }).went ∧
       t.selfCore.oab = s.selfCore.oab ++ [⟨x, n, op == .fmax, rg b, s.self.lane, s.self.seq, s.cur.1, s.cur.2⟩])

/-- R272 to R276: BINIT sets a unit; ARRIVE gives the phase, counts one arrival and, as the last, advances the phase; WAITB passes when its
phase has completed and parks before; BAR arrives and waits for the phase it arrived in. An arrival that completes a phase applies the launch's
deferred atomics first, which may count in its strand (R271, R408); it waits while one of them waits for a reroute (R415). A BAR that pre-emption
has stopped in its wait does not arrive again. -/
def Obligations.BarriersCountArrivals : Prop :=
  (∀ (s : State) (rg : BitVec 5 → Word) (a b : BitVec 5), s.readsG a (rg a) = true → s.readsG b (rg b) = true → (rg a).toNat < 1024 →
    (rg b).toNat / 2 ^ 35 = 0 → (rg b).toNat / 2 ^ 16 % 2 ^ 16 = 0 → (rg b).toNat / 2 ^ 32 % 8 ≤ 3 → 1 ≤ (rg b).toNat % 2 ^ 16 →
    (rg b).toNat % 2 ^ 16 ≤ 32768 → (∀ x, s.barrier (rg a).toNat = some x → x.owner = s.self.launch ∧ x.arrived = 0) →
    ∃ t, exec (.binit a b) s = .next t ∧ t.self = s.self.went ∧ othersStand s t ∧ sameBytes s t ∧
      t.barrier (rg a).toNat = some ⟨s.self.launch, s.cur.1, (rg b).toNat / 2 ^ 32 % 8, (rg b).toNat % 2 ^ 16, 0, 0⟩) ∧
  (∀ (s : State) (a d : BitVec 5) (w : Word) (b : Barrier), s.readsG a w = true → barrierHere s w b → settled s b.scope →
    s.port d.toNat = false →
    let last := b.count ≤ b.arrived + 1
    let b' : Barrier := if last then { b with arrived := 0, phase := b.phase + 1 } else { b with arrived := b.arrived + 1 }
    let becomes (x y : Strand) : Prop := x = { y with hpm := x.hpm, exits := x.exits } ∧
      ((last → ∀ p ∈ s.cores, p.2.launch = some b.owner → p.2.oab = [] ∧ p.2.oaBlocks = []) → x = y)
    (last → s.orderedHeld b.owner = false) →
    (∃ t, exec (.arrive d a) s = .next t ∧ becomes t.self (s.self.putG d (zext64 b.phase)).went ∧ t.barrier w.toNat = some b') ∧
    (s.self.barAt = none → ∃ t, exec (.bar a) s = .next t ∧ t.barrier w.toNat = some b' ∧
      becomes t.self (if last then s.self.discard.went else { s.self with st := .parked (.barArrived w.toNat b.phase) }))) ∧
  (∀ (s : State) (a : BitVec 5) (n : Nat) (p : BitVec 32) (b : Barrier), s.self.barAt = some (n, p) → s.barrier n = some b →
    let behind := (b.phase - p).toNat
    (1 ≤ behind ∧ behind ≤ 2 ^ 31 → ∃ t, exec (.bar a) s = .next t ∧ t.self = s.self.discard.went ∧ t.barrier n = some b ∧ sameBytes s t) ∧
    (¬(1 ≤ behind ∧ behind ≤ 2 ^ 31) → exec (.bar a) s = .next (s.become { s.self with st := .parked (.barArrived n p) }))) ∧
  ∀ (s : State) (rg : BitVec 5 → Word) (a b : BitVec 5) (x : Barrier), s.readsG a (rg a) = true → s.readsG b (rg b) = true →
    barrierHere s (rg a) x →
    let behind := (x.phase - BitVec.ofNat 32 (rg b).toNat).toNat
    (1 ≤ behind ∧ behind ≤ 2 ^ 31 → ∃ t, exec (.waitb a b) s = .next t ∧ t.self = s.self.discard.went ∧ othersStand s t ∧ sameBytes s t ∧
      (3 ≤ x.scope → flashed t (dieOf s.cur.1))) ∧
    (¬(1 ≤ behind ∧ behind ≤ 2 ^ 31) →
      exec (.waitb a b) s = .next (s.become { s.self with st := .parked (.barrier (rg a).toNat (BitVec.ofNat 32 (rg b).toNat)) }))

/-- R94, R95, R119 to R121: a release waits while the FIFO holds an entry, and completes when nothing is owed it; an acquire discards the
stream elements not consumed and, at package scope and beyond, the clean bytes of the die's remote-data cache. FENCE is both. None changes
what memory reads as. -/
def Obligations.FencesOrderAccesses : Prop :=
  ∀ (s : State) (sc : BitVec 3),
    (s.self.fifo ≠ [] → exec (.rel sc) s = .next (s.become { s.self with st := .parked (.release sc.toNat) }) ∧
      exec (.fence sc) s = .next (s.become { s.self with st := .parked (.release sc.toNat) })) ∧
    (settled s sc.toNat → ∃ t, exec (.rel sc) s = .next t ∧ t.self = s.self.went ∧ othersStand s t ∧ sameBytes s t) ∧
    (∃ t, exec (.acq sc) s = .next t ∧ t.self = s.self.discard.went ∧ othersStand s t ∧ sameBytes s t ∧
      (3 ≤ sc.toNat → flashed t (dieOf s.cur.1))) ∧
    (settled s sc.toNat → ∃ t, exec (.fence sc) s = .next t ∧ t.self = s.self.discard.went ∧ othersStand s t ∧ sameBytes s t ∧
      (3 ≤ sc.toNat → flashed t (dieOf s.cur.1)))

/-- R99, R100: with an empty FIFO, on a line homed at a core of this device, CCTL.WB takes what is dirty of it in the issuing die's remote-data
cache, the home cache and the memory-side cache down to memory, which marks a near copy of its row dirty (R44), and its copies stay valid and clean;
CCTL.INV does the same and then takes the line out of all three; CCTL.DROP, in supervisor mode, takes it out of them with its dirty bytes lost. On a
line of another device DROP leaves in each byte what it held or what it held before a write since the last write-back (log 2, the model's choice).
On scratchpad they have no effect. FLASH makes the clean bytes of lines that are not read-only invalid (R94), and IINV empties the fetch buffer.
Each waits while the FIFO holds an entry, and DROP takes PRIV in user mode.

R28, R219: TLBINV waits while the FIFO holds an entry. Its release done, it removes the entries of its kind from every TLB of the dies it names; it
completes once what was accepted through them has been performed, and parks before. That the entries are gone while it still parks, and that nothing
at all is dirty in those dies' remote-data caches when it completes, is the model's reading (log 42, DEDUCED). It takes PRIV in user mode, and PROT
for an address that it reads and that is not canonical. -/
def Obligations.CacheControlsAct : Prop :=
  (∀ (s : State) (a : BitVec 5) (va : Word) (x : Access) (y : Nat), s.readsG a va = true → s.self.fifo = [] → s.canonical = true →
    (regionOf (localOf x.pa)).cached = true → x.place = .core y → s.upToDate y = true →
    let line := x.pa / 256
    let d := dieOf s.cur.1
    let held := (tget (s.die d).rdc line).map fun l => l.dirty
    let seen (o : Nat) : Byte := match held.bind fun t => t.reverse.find? fun c => c.1 == o with
      | some c => c.2
      | none => s.homeByte (line * 256 + o)
    let out (u : State) : State := { u with clean := { u.clean with home := tdel u.clean.home line, msc := tdel u.clean.msc line } }
    (s.maps va 1 .load x = true → (∀ l, tget (s.die d).rdc line = some l → l.home = y) →
      (∀ o, o < 256 → s.refused (line * 256 + o) = false ∧ s.gone (line * 256 + o) = false) →
      (∀ q ∈ s.badSectors, q / 256 ≠ line) → (∀ w ∈ s.badWords, w.2 / 32 ≠ line) → (∀ q, q / 4 = line → s.staleIn q = false) →
      ∃ u, exec (.cctlWb a) s = .next u ∧ u.self = s.self.went ∧
        (∀ o, o < 256 → mget u.mem (line * 256 + o) = seen o ∧ u.homeByte (line * 256 + o) = seen o) ∧
        (∀ p ∈ u.homeDirty ++ u.mscDirty, p.1 / 256 ≠ line) ∧ (∀ l, tget (u.die d).rdc line = some l → l.dirty = []) ∧
        (∀ q, q / 4 = line → s.homeHolds q = true → u.homeHolds q = true) ∧
        (∀ r k n, rowOf x.pa = some r → ((s.chan r.ch).sub r).rows = [(k, n)] → n.frow = r.frow → ((u.chan r.ch).sub r).rows =
          [(k, { n with dirty := n.dirty || (held.getD []).any (fun p => p.1 < 256)
            || (s.homeDirty ++ s.mscDirty).any fun p => p.1 / 256 == line })]) ∧
        ((∀ t, held = some t → ∀ c ∈ t, c.1 < 256) → ∀ b, b / 256 ≠ line → u.homeByte b = s.homeByte b) ∧
        exec (.cctlInv a) s = .next ((out u).modDie d fun z => { z with rdc := tdel z.rdc line })) ∧
    (s.maps va 1 .store x = true → s.self.sup = true →
      ∃ t, exec (.cctlDrop a) s = .next t ∧ t.self = s.self.went ∧ t.mem = s.mem ∧
        (∀ b, t.homeByte b = if b / 256 = line then mget s.mem b else s.homeByte b) ∧
        (t.die d).rdc = tdel (s.die d).rdc line ∧ t.clean = (out s).clean)) ∧
  (∀ (s : State) (a : BitVec 5) (va : Word) (x : Access) (y h : Nat), s.readsG a va = true → s.self.fifo = [] → s.canonical = true →
    (regionOf (localOf x.pa)).cached = true → x.place = .device y h → s.maps va 1 .store x = true → s.self.sup = true →
    s.current x.place = true → Tab.sorted s.farOld = true →
    ∃ t, exec (.cctlDrop a) s = .next t ∧ t.self = s.self.went ∧ t.farOld = (s.farOld.filter fun p => p.1 / 256 != x.pa / 256) ∧
      ∀ b, mget t.mem b = mget s.mem b ∨ (b / 256 = x.pa / 256 ∧ ∃ vs, tget s.farOld b = some vs ∧ mget t.mem b ∈ vs)) ∧
  (∀ (s : State) (a : BitVec 5) (va : Word), s.readsG a va = true →
    (s.self.fifo ≠ [] → exec (.cctlWb a) s = .next (s.become { s.self with st := .parked .fifoEmpty }) ∧
      exec (.cctlInv a) s = .next (s.become { s.self with st := .parked .fifoEmpty }) ∧
      (s.self.sup = true → exec (.cctlDrop a) s = .next (s.become { s.self with st := .parked .fifoEmpty }))) ∧
    (s.self.sup = false → s.self.tvec ≠ 0 →
      exec (.cctlDrop a) s = .next (s.traps 0x02 (zext64 ((encode (.cctlDrop a)).getD 0)))) ∧
    ∀ x, s.self.fifo = [] → (regionOf (localOf x.pa)).cached = false →
      (s.maps va 1 .load x = true → exec (.cctlWb a) s = .next (s.become s.self.went) ∧ exec (.cctlInv a) s = .next (s.become s.self.went)) ∧
      (s.maps va 1 .store x = true → s.self.sup = true → exec (.cctlDrop a) s = .next (s.become s.self.went))) ∧
  (∀ s : State,
    (s.self.fifo = [] →
      (∃ t, exec .cctlFlash s = .next t ∧ t.self = s.self.went ∧ sameBytes s t ∧ (t.die (dieOf s.cur.1)).rdc =
        (s.die (dieOf s.cur.1)).rdc.map fun p => if p.2.ros then p else (p.1, { p.2 with clean := [] })) ∧
      exec .cctlIinv s = .next ((s.becomeCore { s.selfCore with fetchBuf := [], histAt := s.clean.hist.length }).become s.self.went)) ∧
    (s.self.fifo ≠ [] → exec .cctlFlash s = .next (s.become { s.self with st := .parked .fifoEmpty }) ∧
      exec .cctlIinv s = .next (s.become { s.self with st := .parked .fifoEmpty }))) ∧
  ∀ (s : State) (rg : BitVec 5 → Word) (a b : BitVec 5) (l : BitVec 1) (k : BitVec 3), k.toNat ≤ 3 →
    (k = 0 ∨ k = 3 → s.readsG a (rg a) = true) → s.readsG b (rg b) = true →
    let dies := if l = 1 then [0, 1, 2, 3] else [dieOf s.cur.1]
    let ctx := (rg b).toNat % 65536
    let hits (e : TlbEnt) : Bool := tlbinvHits k.toNat (rg a) ctx e
    let cleared (t : State) : Prop := ∀ d ∈ dies, (t.die d).tlb = (s.die d).tlb.filter (fun e => !hits e) ∧
      ∀ c, dieOf c = d → (t.core c).tlb = (s.core c).tlb.filter fun e => !hits e
    (s.self.sup = true → (k = 0 ∨ k = 3 → (rg a).toNat < 2 ^ 57) → s.self.fifo ≠ [] →
      exec (.tlbinv a b l k) s = .next (s.become { s.self with st := .parked .fifoEmpty })) ∧
    (s.self.sup = true → (k = 0 ∨ k = 3 → (rg a).toNat < 2 ^ 57) → settled s 3 →
      (s.tlbinvDone (if l = 1 then none else some (dieOf s.cur.1)) k.toNat (rg a) ctx = true →
        ∃ t, exec (.tlbinv a b l k) s = .next t ∧ t.self = s.self.went ∧ cleared t ∧
          (∀ d ∈ dies, Tab.sorted (s.die d).rdc = true → ∀ p ∈ (t.die d).rdc, p.2.dirty = []) ∧
          ((∀ d ∈ dies, ∀ p ∈ (s.die d).rdc, p.2.dirty = []) → sameBytes s t)) ∧
      (s.tlbinvDone (if l = 1 then none else some (dieOf s.cur.1)) k.toNat (rg a) ctx = false →
        ∃ t, exec (.tlbinv a b l k) s = .next t ∧ cleared t ∧ sameBytes s t ∧ ∃ v, (k = 0 ∨ k = 3 → v = rg a) ∧
          t.self = { s.self with st := .parked (.tlbinv v ctx (l == 1) k.toNat) })) ∧
    (s.self.tvec ≠ 0 →
      (s.self.sup = false → exec (.tlbinv a b l k) s = .next (s.traps 0x02 (zext64 ((encode (.tlbinv a b l k)).getD 0)))) ∧
      (s.self.sup = true → k = 0 ∨ k = 3 → 2 ^ 57 ≤ (rg a).toNat → exec (.tlbinv a b l k) s = .next (s.traps 0x06 (rg a))))

/-- R152, R220: WAITEV of no event gives 0; of one whose latch bit is set it gives and clears the set bits; of others it parks. TSLEEP goes on
once its time has come and parks before; the wake-up retires it. -/
def Obligations.WaitsEndAtTheirEvent : Prop :=
  (∀ (s : State) (d a : BitVec 5) (v : Word), s.readsG a v = true → s.port d.toNat = false →
    let m := BitVec.ofNat 5 v.toNat
    (m = 0 → exec (.waitev d a) s = .next (s.become (s.self.putG d 0).went)) ∧
    (s.self.latch &&& m ≠ 0 → exec (.waitev d a) s =
      .next (s.become ({ s.self with latch := s.self.latch &&& ~~~m }.putG d (zext64 (s.self.latch &&& m))).went)) ∧
    (m ≠ 0 → s.self.latch &&& m = 0 → exec (.waitev d a) s = .next (s.become { s.self with st := .parked (.latch m) }))) ∧
  (∀ (s : State) (a : BitVec 5) (w : Word), s.readsG a w = true →
    (w.toNat ≤ s.atime (dieOf s.cur.1) → exec (.tsleep a) s = .next (s.become s.self.went)) ∧
    (s.atime (dieOf s.cur.1) < w.toNat → exec (.tsleep a) s = .next (s.become { s.self with st := .parked (.sleep w) }))) ∧
  ∀ (s : State) (c l : Nat) (w : Word), (s.strand c l).st = .parked (.sleep w) → w.toNat ≤ s.atime (dieOf c) →
    exec (.tsleepWake c l) s = .next (s.setStrand c l (s.strand c l).went)

/-- R41, R46 to R49, R263 to R265: PROMOTE and DEMOTE of a DRAM row answer with the status of R47, and make the row resident or free its
near row; PREF changes no register, and of a source that is not FULL it asks nothing; LEAP to the strand's own core gives 1 and moves nothing.

R87 to R90, R138: an explicit LEAP that R89 allows frees the strand's slot, reserves the lowest free one of the core it leaps to and
sends the context; it arrives there, READY with its next generation and every latch bit set, when the die's time unit allows. -/
def Obligations.RowsAndPlacementAreControlled : Prop :=
  (∀ (s : State) (d a : BitVec 5) (va : Word), s.readsG a va = true →
     (∀ (x : Access) (r : RowAt), s.maps va 1 .load x = true → rowOf x.pa = some r → (∀ e h, x.place ≠ .device e h) →
       s.port d.toNat = false →
       let near := (s.chan r.ch).sub r
       (∀ p : BitVec 1, x.lc ≠ 0 → near.find r.frow = none → near.next < 2 ^ 32 → (∃ k, k < 32 ∧ tget near.rows k = none) →
         ∃ t, exec (.promote d a p) s = .next t ∧ t.self = (s.self.putG d (if p = 1 then 0x100 else 0)).went ∧
           (((t.chan r.ch).sub r).find r.frow).isSome = true ∧ (t.chan r.ch).prom = (s.chan r.ch).prom + 1 ∧ sameBytes s t) ∧
       (near.find r.frow = none → ∃ t, exec (.demote d a) s = .next t ∧ t.self = (s.self.putG d 4).went ∧ sameBytes s t) ∧
       ∀ (k : Nat) (e : NearRow), near.rows = [(k, e)] → e.frow = r.frow →
         ∃ t, exec (.demote d a) s = .next t ∧ t.self = (s.self.putG d (if e.dirty then 0x200 else 0)).went ∧
           ((t.chan r.ch).sub r).find r.frow = none ∧ (t.chan r.ch).evic = (s.chan r.ch).evic + 1 ∧ sameBytes s t) ∧
     (∃ t, exec (.pref a) s = .next t ∧ t.self = { s.self.went with fifo := t.self.fifo } ∧ (s.self.fifo = [] → t.self.fifo = [])) ∧
     ∀ x : Access, s.maps va 1 .load x = true → x.place = .core s.cur.1 → s.port d.toNat = false → s.self.going = none →
       exec (.leap d a) s = .next (s.become (s.self.putG d 1).went)) ∧
  (∀ (s : State) (a : BitVec 5), a ≠ 0 → s.port a.toNat = false →
     ((vget s.self.g a.toNat).st = .empty ∨ (∃ t b, (vget s.self.g a.toNat).st = .pending t b) ∨
       (vget s.self.g a.toNat).st = .dead ∧ s.self.dt = true) → exec (.pref a) s = .next (s.become s.self.went)) ∧
  ((∀ (s : State) (d a : BitVec 5) (va : Word) (x : Access) (y m : Nat), s.readsG a va = true → s.maps va 1 .load x = true → x.place = .core y →
     y ≠ s.cur.1 → s.self.going = none → s.canLeap s.cur.1 s.cur.2 y = true → (s.core y).freeSlot = some m → settled s 3 →
     ∃ t, exec (.leap d a) s = .next t ∧ t.self.st = .free ∧ (t.strand y m).st = .reserved ∧ sameBytes s t ∧
       ∃ q, t.leaps = s.leaps ++ [q] ∧ q.dst = y ∧ q.slot = m ∧ q.d = some d.toNat ∧ q.ctx.pc = s.self.pc + 4 ∧
         q.ctx.g = s.self.g.map Reg.ship ∧ q.ctx.launch = s.self.launch) ∧
   ∀ (s : State) (c l : Nat) (q : Leap), l < 16 → s.leaps = [q] → q.dst = c → q.slot = l → q.at_ ≤ (s.die (dieOf c)).tu →
     (s.strand c l).st = .reserved →
     ∃ t, exec (.leapArrival c l) s = .next t ∧ t.leaps = [] ∧ sameBytes s t ∧ flashed t (dieOf c) ∧
       t.strand c l = { q.ctx with
         st := .ready, gen := (s.strand c l).gen + 1, latch := 31, lastCyc := none, rereg := q.ctx.prods.length
         g := match q.d with | some d => if d = 0 then q.ctx.g else vset q.ctx.g d (Reg.full 0) | none => q.ctx.g })

/-- R278 to R281: WPSET reads its block of sixteen doublewords, takes the lowest free watchpoint of the range's die, armed, and answers its
number; WPCLR of an own watchpoint frees it. What is due at the homes has been performed before: here nothing is (R147). That it is the
lowest-numbered of the free ones is log 13 (R279 says a free one), and that the block is read in one step is log 12, both DESIGN CHOICE. -/
def Obligations.WatchpointsAreSetAndCleared : Prop :=
  (∀ (s : State) (d a : BitVec 5) (va : Word) (w : Nat → Word) (x : Access) (die k : Nat), s.readsG a va = true → va.toNat % 128 = 0 →
    (∀ i, i < 16 → reads8 s (va + BitVec.ofNat 64 (8 * i)) (w i)) → s.upToDate s.cur.1 = true →
    s.cores.all (fun k => s.upToDate k.1) = true → s.maps (BitVec.ofNat 64 ((w 0).toNat % 2 ^ 57)) 1 .load x = true → s.watchable x.pa = true →
      (w 0).toNat < 2 ^ 57 → 1 ≤ (w 1).toNat →
    (w 0).toNat % 65536 + (w 1).toNat ≤ 65536 → (w 4).toNat < 8 → (w 4).toNat % 4 ≠ 3 →
    w 5 = 0 → w 6 = 0 → w 7 = 0 → (w 8).toNat % 4 = 0 → (w 14).toNat < 2 ^ 8 →
    (w 14).toNat / 4 % 4 ≠ 3 → (w 15).toNat < 2 ^ 24 →
    s.homeDie x.pa = some die → k < 64 → tget (s.die die).wps k = none → (∀ j, j < k → (tget (s.die die).wps j).isSome = true) →
    s.port d.toNat = false →
    ∃ t p, exec (.wpset d a) s = .next t ∧ sameBytes s t ∧
      t.self = { (s.self.putG d (BitVec.ofNat 64 (die * 64 + k))).went with
        mrec := t.self.mrec, leapt := t.self.leapt, hpm := vset s.self.went.hpm 5 (vget t.self.hpm 5) } ∧
      tget (t.die die).wps k = some p ∧ p.owner = s.self.launch ∧ p.core = s.cur.1 ∧ p.lo = x.pa ∧ p.len = (w 1).toNat ∧
      p.value = w 2 ∧ p.mask = w 3 ∧ p.armed = true ∧ p.rec_.pc = w 8) ∧
  ∀ (s : State) (a : BitVec 5) (w : Word) (p : Watch), s.readsG a w = true → w.toNat < 256 →
    tget (s.die (w.toNat / 64)).wps (w.toNat % 64) = some p → p.owner = s.self.launch → Tab.sorted (s.die (w.toNat / 64)).wps = true →
    s.cores.all (fun k => s.upToDate k.1) = true → ∃ t, exec (.wpclr a) s = .next t ∧ t.self = s.self.went ∧
      tget (t.die (w.toNat / 64)).wps (w.toNat % 64) = none ∧ sameBytes s t

/-! Strands, messages, registers and joins -/

namespace Sys2Proof.Claims

/-- The payload of the creating forms, when none of a0 to a3 owes an acquire: the FULL ones, and zero for the others (R227). -/
def payloadOf (x : Strand) : List Word := (List.range 4).map fun i => if (vget x.g (4 + i)).st = .full then (vget x.g (4 + i)).val else 0

/-- None of a0 to a3 owes an acquire. -/
def payloadPlain (x : Strand) : Prop := ∀ i, i < 4 → (vget x.g (4 + i)).owe = none

/-- A core of the performing strand's launch (R162). -/
def mine (s : State) (w : Word) : Prop := w.toNat < 2048 ∧ ∃ q, s.launchOf s.cur.1 = some q ∧ q.holds w.toNat = true

/-- A record with no link to a join. -/
def plainRec (pc : Word) (a : List Word) (key : BitVec 24) : TaskRec := ⟨pc, a, 0, 0, false, false, 0, key⟩

/-- A fill address that R233 accepts: WORD, its core held by the launch. -/
def fillOk (s : State) (w : Word) : Prop :=
  w.toNat < 2 ^ 40 ∧ w.toNat / 2 ^ 34 % 64 ≠ 0 ∧ w.toNat / 2 ^ 23 % 2 ^ 11 = s.devid.toNat ∧
    ∃ q, s.launchOf s.cur.1 = some q ∧ q.holds (w.toNat / 2 ^ 12 % 2 ^ 11) = true

/-- The number of posted operations that a strand has placed to a core and that it has not accepted, a SPAWNQ that waits there for room among
them (R118, R165). -/
def postedTo (s : State) (c : Nat) : Nat :=
  s.posted.countP (fun p => p.by s.cur.1 s.cur.2 s.self.gen && p.op.dst == some c)
    + s.pushes.countP fun p => p.src == some (s.cur.1, s.cur.2, s.self.gen) && p.dst == c

/-- A register of a class named by a form of R236 to R238 is an ordinary one: no queue port and no stream. -/
def ordinary (s : State) (k n : Nat) : Bool := if k = 0 then !s.port n else (s.self.streamOf k n).isNone

/-- A join form at a record that is not malformed, as R385 to R387 and R392 have it: its result and the record after it. Not said here, but apart:
what a KIND 2 or KIND 3 producer adds, and an operand that fires the join. -/
def joinStep (j : Join) (pa : Nat) (word : Word) (form : JoinForm) : Option (Word × Join) :=
  let stale := j.gen ≠ word.toNat / 2 ^ 56 ∨ j.state = 0
  match form with
  | .new cfg pc => some (if j.state ≠ 0 then (BitVec.allOnes 64, j) else (joinWord j pa,
      ⟨j.gen * 2 ^ 56 + 2 ^ 42 + cfg.toNat / 2 ^ 8 % 2 * 2 ^ 40 + cfg.toNat / 2 ^ 6 % 4 * 2 ^ 38 + cfg.toNat / 2 ^ 4 % 4 * 2 ^ 36
        + cfg.toNat % 2 ^ 4 * 2 ^ 32, [0, 0, 0, 0], pc, [0, 0, 0, 0]⟩))
  | .reg i kind _ =>
    if stale then some (BitVec.allOnes 64 - 2, j)
    else if j.arity ≤ i then none
    else if j.pmask.testBit i ∨ j.unsettled i then some (BitVec.allOnes 64 - 1, j)
    else if kind = 1 then some (BitVec.ofNat 64 (pa % 2 ^ 57 + 4 + i), { j with pw := j.pw.set i (2 ^ 29) })
    else none
  | .val i x =>
    if stale then some (3, j)
    else if j.arity ≤ i ∨ j.kind i = 2 then none
    else if 2 ≤ j.state then some (2, j.recycle.1)
    else if j.pmask.testBit i then some (4, j.recycle.1)
    else if j.abs ∨ j.pmask ||| 2 ^ i = 2 ^ j.arity - 1 then none
    else some (0, ({ j with v := j.v.set i x, ctl := setBits j.ctl 47 44 (j.pmask ||| 2 ^ i) } : Join).recycle.1)
  | .drop i =>
    if stale then some (3, j)
    else if j.arity ≤ i then none
    else if j.unsettled i = false then some (5, j)
    else if j.kind i = 2 then none
    else some (0, ({ j with pw := j.pw.set i (2 ^ 31) } : Join).recycle.1)
  | .chk i =>
    if stale then some (3, j)
    else if j.arity ≤ i then none
    else if j.pmask.testBit i then some (4, j)
    else if j.wmask.testBit i then some (1, j)
    else if j.state = 1 then some (0, j) else none
  | .free =>
    if stale then some (3, j)
    else if (List.range 4).any fun i => j.kind i == 2 || j.kind i == 3 then none
    else
      let j' := if j.state = 1 then j.close 3 else j
      some (if (List.range 4).any j.unsettled then 1 else 0, ({ j' with ctl := setBits j'.ctl 41 41 1 } : Join).recycle.1)
  | _ => none

/-- A join record at its home, current there, read, and not malformed. -/
def joinAt (s : State) (pa h : Nat) (j : Join) : Prop :=
  s.canonical = true ∧ s.joinHome pa = some h ∧ s.upToDate h = true ∧ s.getJoin pa = some j ∧ j.malformed = false

/-- A join word of R379: its must-be-zero fields are zero. -/
def joinPlain (w : Word) : Prop := w.toNat / 2 ^ 30 % 2 ^ 26 = 0 ∧ w.toNat % 64 = 0

/-- A launch that has not aborted runs on a core under a key. -/
def runsOn (s : State) (c : Nat) (key : BitVec 24) : Prop :=
  (s.core c).launch = some key ∧ ∃ q, tget s.launches key.toNat = some q ∧ q.abort = none

/-- The registers behind the queue ports of a new pipeline group's member (R243). -/
def hidden (x : Strand) : Strand :=
  { x with g := (List.range 4).foldl (fun (g : Vector (Reg 64) 32) i => vset g (28 + i) ⟨0, .dead, none⟩) x.g }

end Sys2Proof.Claims

/-- R118, R167, R227, R229, R230, R234: MSG, SPAWNQ to another core and FILL place one operation on the posted path to their core, set
its s.tbm bit, and go on; a fifth unaccepted one parks. SPAWNQ's release is at the scope that contains the cores that may steal the record
as well (log 11, the model's choice). -/
def Obligations.PostedFormsArePlaced : Prop :=
  ∀ (s : State) (rg : BitVec 5 → Word) (a b c : BitVec 5), s.readsG a (rg a) = true → s.readsG b (rg b) = true → s.readsG c (rg c) = true →
    ((rg a).toNat % 4 = 0 → payloadPlain s.self → mine s (rg b) → settled s (scopeOf s.cur.1 (rg b).toNat) →
      let dst := (rg b).toNat
      let sc := scopeOf s.cur.1 dst
      let r := plainRec (rg a) (payloadOf s.self) s.self.launch
      let mark := s.self.tbm ||| (1#64 <<< (if dieOf s.cur.1 = dieOf dst then groupOf dst else 63))
      (postedTo s dst < 4 → ∃ t, exec (.msg a b) s = .next t ∧ othersStand s t ∧ sameBytes s t ∧
        t.posted = s.posted ++ [⟨s.cur.1, s.cur.2, s.self.gen, s.self.launch, .msg r dst sc⟩] ∧ t.self = { s.self.went with tbm := mark }) ∧
      (postedTo s dst < 4 → (rg c).toNat = 0 → dst ≠ s.cur.1 → settled s (max sc (s.stealScope dst)) → ∃ t, exec (.spawnq a b c) s = .next t ∧
        othersStand s t ∧ sameBytes s t ∧
        t.posted = s.posted ++ [⟨s.cur.1, s.cur.2, s.self.gen, s.self.launch, .push r dst sc⟩] ∧ t.self = { s.self.went with tbm := mark }) ∧
      (4 ≤ postedTo s dst → exec (.msg a b) s = .next (s.become { s.self with st := .parked (.path dst) }))) ∧
    (fillOk s (rg a) →
      let dst := (rg a).toNat / 2 ^ 12 % 2 ^ 11
      settled s (scopeOf s.cur.1 dst) → postedTo s dst < 4 → ∀ d : BitVec 5, s.port d.toNat = false →
        ∃ t rep, exec (.fill d a b) s = .next t ∧ othersStand s t ∧ sameBytes s t ∧
          t.posted = s.posted ++ [⟨s.cur.1, s.cur.2, s.self.gen, s.self.launch, .fill dst ((rg a).toNat / 2 ^ 8 % 16)
            (BitVec.ofNat 8 (rg a).toNat) ((rg a).toNat / 2 ^ 39 % 2) ((rg a).toNat / 2 ^ 34 % 32) (rg b) (scopeOf s.cur.1 dst) rep⟩] ∧
          t.self.pc = s.self.pc + 4 ∧ (d = 0 → rep = none ∧ t.self.g = s.self.g) ∧
          (d ≠ 0 → ∃ h, rep = some ⟨s.cur.1, s.cur.2, s.self.gen, d.toNat, h⟩ ∧ t.self.g = vset s.self.g d.toNat ⟨0, .pending h true, none⟩))

/-- R118, R124, R125, R167, R235: a core accepts a message or fill into its buffer in order, behind its sender's SPAWNQs that wait there, and
signals it; the oldest message starts a strand in the lowest free slot; a fill lands FULL in an EMPTY or PENDING register of the strand it names,
owing an acquire at its scope. -/
def Obligations.PostedOperationsArrive : Prop :=
  (∀ (s : State) (p : Posted) (ps : List Posted) (c : Nat), s.posted = p :: ps → runsOn s c p.key → (s.core c).msgs.length < 16 →
    (∀ q ∈ s.pushes, q.dst = c → q.src ≠ some (p.core, p.slot, p.gen)) →
    (∀ r sc, p.op = .msg r c sc → ∃ t, exec (.postedAccept 0) s = .next t ∧ t.posted = ps ∧
      (t.core c).msgs = (s.core c).msgs ++ [.msg r sc] ∧ sameBytes s t ∧ ∀ l, (t.strand c l).latch = (s.strand c l).latch ||| 4) ∧
    ∀ l g k n v sc rep, p.op = .fill c l g k n v sc rep → ∃ t, exec (.postedAccept 0) s = .next t ∧ t.posted = ps ∧
      (t.core c).msgs = (s.core c).msgs ++ [.fill l g k n v sc rep] ∧ sameBytes s t) ∧
  (∀ (s : State) (c l sc : Nat) (r : TaskRec) (ms : List Msg) (q : Launch), (s.core c).msgs = .msg r sc :: ms →
    (s.core c).launch = some r.key → s.launchOf c = some q → (s.core c).works = true → (s.core c).freeSlot = some l →
    ∃ t, exec (.messageStart c) s = .next t ∧ (t.core c).msgs = ms ∧ sameBytes s t ∧
      t.strand c l = q.startState (s.strand c l) (q.lane c l) r.pc r.a ∧ (3 ≤ sc → flashed t (dieOf c))) ∧
  (∀ (s : State) (c l n sc : Nat) (g : BitVec 8) (v : Word) (ms : List Msg), (s.core c).msgs = .fill l g 0 n v sc none :: ms →
    (s.strand c l).is g = true → 1 ≤ n → n < 28 → ((vget (s.strand c l).g n).st = .empty ∨ ∃ t b, (vget (s.strand c l).g n).st = .pending t b) →
    (∀ h, (s.strand c l).hold = some h → h.2 ≠ n) → (s.core c).held = [] → ∃ t, exec (.fillDelivery c 0) s = .next t ∧ (t.core c).msgs = ms ∧
      sameBytes s t ∧
      t.strand c l = { s.strand c l with g := vset (s.strand c l).g n ⟨v, .full, some sc⟩ }) ∧
  ∀ (s : State) (p : Posted) (ps : List Posted) (q : Push), s.posted = p :: ps → p.slot < 16 → q ∈ s.pushes →
    q.src = some (p.core, p.slot, p.gen) → (∀ r sc, p.op = .msg r q.dst sc → exec (.postedAccept 0) s = .next s) ∧
    ∀ l g k n v sc rep, p.op = .fill q.dst l g k n v sc rep → exec (.postedAccept 0) s = .next s

/-- R160, R227 to R229: SPAWN to the issuing core starts a strand in its lowest free slot with the payload in a0 to a3 and answers its
number, or all ones when no slot is free; FORK, and SPAWNQ to the issuing core, push a record at the bottom of its deque, once their release
at the scope of the cores that may steal it is done (R125; log 11, the model's choice).

R163, R231, R389, R391: QUIT waits for its store FIFO; then its slot is FREE, its streams are gone, and every join on its producer list is
told. -/
def Obligations.StrandsAreCreatedAndQuit : Prop :=
  (∀ (s : State) (rg : BitVec 5 → Word) (d a b c : BitVec 5) (q : Launch), s.readsG a (rg a) = true → s.readsG b (rg b) = true →
     s.readsG c (rg c) = true → (rg a).toNat % 4 = 0 → payloadPlain s.self → s.self.fifo = [] → s.launchOf s.cur.1 = some q →
     (rg b).toNat = s.cur.1 → s.cur.1 < 2048 → q.holds s.cur.1 = true → s.cur.2 < 16 → s.port d.toNat = false →
     (∀ m, s.selfCore.freeSlot = some m → m ≠ s.cur.2 → ∃ t, exec (.spawn d a b) s = .next t ∧
       t.strand s.cur.1 m = q.startState (s.strand s.cur.1 m) (q.lane s.cur.1 m) (rg a) (payloadOf s.self) ∧
       t.self = (s.self.putG d (sidOf s.devid s.cur.1 m ((s.strand s.cur.1 m).gen + 1))).went ∧ sameBytes s t) ∧
     (s.selfCore.freeSlot = none → ∃ t, exec (.spawn d a b) s = .next t ∧ t.self = (s.self.putG d (BitVec.allOnes 64)).went ∧
       sameOthers s t ∧ sameBytes s t) ∧
     ((rg c).toNat = 0 → settled s (s.stealScope s.cur.1) → s.selfCore.deque.length < 112 → s.pushes.all (fun p => !p.here) = true →
       ∀ i, i = .fork a c ∨ i = .spawnq a b c → ∃ t, exec i s = .next t ∧
       t.selfCore.deque = plainRec (rg a) (payloadOf s.self) s.self.launch :: s.selfCore.deque ∧ t.self.pc = s.self.pc + 4 ∧
       t.self.g = s.self.g ∧ sameBytes s t)) ∧
  (∀ s : State,
     (s.self.fifo = [] → ∃ t, exec .quit s = .next t ∧ othersStand s t ∧ sameBytes s t ∧ t.self = s.self.quit ∧ t.self.st = .free ∧
       t.joins.length = s.joins.length + s.self.prods.length) ∧
     (s.self.fifo ≠ [] → exec .quit s = .next (s.become { s.self with st := .parked .fifoEmpty })))

/-- R221, R236 to R241: EMPTY and TAKE on ordinary registers, RSTATE, AWAIT and FTEST, and FCANCEL of a register that holds no handle. That AWAIT
counts for a queue port the register behind it is log 55 (DESIGN CHOICE), and so is, with log 14 (DESIGN CHOICE), the state that RSTATE gives of a
port, beside the bit that says it is none of the ordinary registers. -/
def Obligations.RegisterStatesAreHandled : Prop :=
  ∀ (s : State) (d a : BitVec 5) (k : BitVec 2), k.toNat < 3 →
    (k ≠ 2 ∨ d.toNat < 16) → (k ≠ 2 ∨ a.toNat < 16) →
    (ordinary s k.toNat d.toNat = true → exec (.empty d k) s = .next (s.become (s.self.makeEmpty k.toNat d.toNat).went)) ∧
    (ordinary s k.toNat d.toNat = true → ordinary s k.toNat a.toNat = true →
      (∀ v, k = 0 → s.readsG a v = true → exec (.take d a k) s = .next (s.become ((s.self.makeEmpty 0 a.toNat).putG d v).went)) ∧
      (∀ v, k = 1 → s.readsF a v = true → exec (.take d a k) s = .next (s.become ((s.self.makeEmpty 1 a.toNat).putF d v).went)) ∧
      ∀ v, k = 2 → s.readsV a.toNat v = true → exec (.take d a k) s = .next (s.become ((s.self.makeEmpty 2 a.toNat).putV d.toNat v).went)) ∧
    (s.port d.toNat = false → exec (.rstate d a k) s = .next (s.become (s.self.putG d (BitVec.ofNat 64
      ((match s.self.stateOf k.toNat a.toNat with | .full => 0 | .empty => 1 | .pending _ _ => 2 | .dead => 3)
        + if ordinary s k.toNat a.toNat then 0 else 4))).went)) ∧
    (∀ v, s.readsG a v = true → s.port d.toNat = false → (∀ n, n < 32 → (vget s.self.g n).owe = none) →
      let hit := (List.range 32).filter fun n => v.getLsbD n && (n == 0 || (vget s.self.g n).st == .full || (vget s.self.g n).st == .dead)
      (BitVec.ofNat 32 v.toNat = 0 → exec (.await d a) s = .next (s.become (s.self.putG d 0).went)) ∧
      (hit ≠ [] → exec (.await d a) s = .next (s.become (s.self.putG d (BitVec.ofNat 64 (hit.foldl (fun n i => n + 2 ^ i) 0))).went)) ∧
      (BitVec.ofNat 32 v.toNat ≠ 0 → hit = [] →
        exec (.await d a) s = .next (s.become { s.self with st := .parked (.await (BitVec.ofNat 32 v.toNat)) }))) ∧
    (s.port d.toNat = false → s.port a.toNat = false →
      (∀ v, s.readsG a v = true → exec (.ftest d a) s = .next (s.become (s.self.putG d v).went)) ∧
      (a ≠ 0 → ((vget s.self.g a.toNat).st = .empty ∨ ∃ t b, (vget s.self.g a.toNat).st = .pending t b) →
        exec (.ftest d a) s = .next (s.become (s.self.putG d (BitVec.allOnes 64)).went))) ∧
    ((a = 0 ∨ ∀ t, (vget s.self.g a.toNat).st ≠ .pending t false) → exec (.fcancel a) s = .next (s.become s.self.went))

/-- R241, R242, R132, R354: FCANCEL of a handle asks its operation, unless its group has begun combining, to stop with status 2; FWD of a FULL
register sends its value as a fill, and of a handle sends the completion word of its operation there instead, leaving the register DEAD. It
records that redirection when it issues, also when it then waits in its release.

R168, R243: PIPE of a mask of one to four live slots, the issuer's among them, whose registers q0 to q3 are FULL or DEAD and which are in no group,
makes them one group with four empty queues, and their values in q0 to q3 are gone: the registers behind the ports are DEAD with value zero, which is
the model's choice (log 55). -/
def Obligations.HandlesAndGroupsAct : Prop :=
  (∀ (s : State) (a b : BitVec 5) (w : Word) (h : BitVec 12), a ≠ 0 →
     ((vget s.self.g a.toNat).st = .pending h false → ∃ t, exec (.fcancel a) s = .next t ∧ t.self = s.self.went ∧ sameBytes s t ∧
       t.selfCore.ops = s.selfCore.ops.map fun o => if o.tag = h ∧ o.cancel = none ∧ o.comb = none then { o with cancel := some 2 } else o) ∧
     (s.readsG b w = true → fillOk s w → a ≠ b → s.port a.toNat = false →
       let dst := w.toNat / 2 ^ 12 % 2 ^ 11
       let sc := scopeOf s.cur.1 dst
       settled s sc → postedTo s dst < 4 →
       (∀ v, (vget s.self.g a.toNat) = Reg.full v → s.self.hold = none → ∃ t, exec (.fwd 0 a b) s = .next t ∧ t.self.pc = s.self.pc + 4 ∧
         t.posted = s.posted ++ [⟨s.cur.1, s.cur.2, s.self.gen, s.self.launch, fillOp w v sc none⟩] ∧ sameBytes s t) ∧
       (((vget s.self.g a.toNat).st = .pending h false ∧ s.self.hold = none ∨ ∃ n, s.self.hold = some (h, n)) → (∀ q ∈ s.comps, q.tag ≠ h) →
         ∃ t, exec (.fwd 0 a b) s = .next t ∧
         t.self.pc = s.self.pc + 4 ∧ (vget t.self.g a.toNat).st = .dead ∧ t.posted = s.posted ∧ sameBytes s t ∧
         t.selfCore.ops = s.selfCore.ops.map fun o => if o.tag = h then { o with fwd := some (w, none) } else o)) ∧
     (s.readsG b w = true → fillOk s w → a ≠ b → s.port a.toNat = false → (vget s.self.g a.toNat).st = .pending h false →
       s.self.hold = none → s.self.fifo ≠ [] → exec (.fwd 0 a b) s = .next (s.become { s.self with
         hold := some (h, a.toNat), st := .parked (.release (scopeOf s.cur.1 (w.toNat / 2 ^ 12 % 2 ^ 11))) }))) ∧
  (∀ (s : State) (d a : BitVec 5) (m : Word), s.readsG a m = true → m.toNat < 65536 → m.getLsbD s.cur.2 = true → s.cur.2 < 16 →
     ((List.range 16).filter fun l => m.getLsbD l).length ≤ 4 → s.port d.toNat = false →
     ((List.range 16).filter fun l => m.getLsbD l).all s.selfCore.canPipe = true →
     ∃ t, exec (.pipe d a) s = .next t ∧ t.self = (hidden (s.self.putG d 0)).went ∧ sameBytes s t ∧
       (∀ l, l < 16 → l ≠ s.cur.2 → t.strand s.cur.1 l = if m.getLsbD l then hidden (s.strand s.cur.1 l) else s.strand s.cur.1 l) ∧
       (∀ c, c ≠ s.cur.1 → t.core c = s.core c) ∧
       t.selfCore.pipes = s.selfCore.pipes ++ [⟨BitVec.ofNat 16 m.toNat, Vector.replicate 4 []⟩])

/-- R379 to R387, R392, for a record at the issuer's core: JNEW makes a FREE record active and answers its join word; JREG registers an
anonymous producer and answers its operand address; JVAL stores an operand, answering 0; JDROP settles a producer; WCHK tells a present, a
withdrawn and an open operand apart; JFREE closes the record and releases it; a stale join word is answered 3, or by JREG all ones less 2. The
record is left as each has it, recycled when nothing more is owed, and no other byte of memory changes.

R388: the operand that completes the join fires it: the record closes, and a consumer record with the fold of its operands goes to the bottom
of the home core's deque. JFREE of a record whose producers are strands or engine operations completes too. -/
def Obligations.JoinFormsActOnTheirRecord : Prop :=
  (∀ (s : State) (rg : BitVec 5 → Word) (d a b c : BitVec 5) (x : Access) (q : Launch) (j : Join), s.readsG a (rg a) = true →
    s.readsG b (rg b) = true → s.readsG c (rg c) = true → s.port d.toNat = false → (rg a).toNat % 64 = 0 → s.maps (rg a) 1 .store x = true →
    joinAt s x.pa s.cur.1 j → s.launchOf s.cur.1 = some q → q.holds s.cur.1 = true → (rg b).toNat < 2 ^ 9 →
    joinConfigOk ((rg b).toNat % 16) ((rg b).toNat / 16 % 4) ((rg b).getLsbD 8) = true → (rg c).toNat % 4 = 0 →
    ∀ v j', joinStep j x.pa 0 (.new (rg b) (rg c)) = some (v, j') →
      ∃ t, exec (.jnew d a b c) s = .next t ∧ t.self = (s.self.putG d v).went ∧ othersStand s t ∧ t.getJoin x.pa = some j' ∧
        ∀ y, y / 64 ≠ x.pa / 64 → t.homeByte y = s.homeByte y) ∧
  (∀ (s : State) (d a : BitVec 5) (w : Word) (j : Join), s.readsG a w = true → s.port d.toNat = false → joinPlain w →
    let pa := joinPa s.devid w
    joinAt s pa s.cur.1 j →
    let does (i : Instr) (form : JoinForm) : Prop := ∀ v j', joinStep j pa w form = some (v, j') →
      ∃ t, exec i s = .next t ∧ t.self = (s.self.putG d v).went ∧ othersStand s t ∧ t.getJoin pa = some j' ∧
        ∀ y, y / 64 ≠ pa / 64 → t.homeByte y = s.homeByte y
    (∀ (b : BitVec 5) (p : Word), s.readsG b p = true → p.toNat / 2 ^ 39 = 0 →
      (p.toNat / 2 ^ 36 % 8 = 1 ∧ p.toNat % 2 ^ 34 = 0 ∨ p.toNat / 2 ^ 36 % 8 = 2 ∧ p.toNat % 2 ^ 34 / 2 ^ 23 = s.devid.toNat) →
      does (.jreg d a b 0) (.reg (p.toNat / 2 ^ 34 % 4) (p.toNat / 2 ^ 36 % 8) (BitVec.ofNat 23 p.toNat))) ∧
    (∀ (b : BitVec 5) (x : Word) (i : BitVec 2), s.readsG b x = true → settled s 0 → does (.jval d a b i) (.val i.toNat x)) ∧
    (∀ i : BitVec 2, does (.jdrop d a i) (.drop i.toNat) ∧ does (.wchk d a i) (.chk i.toNat)) ∧
    does (.jfree d a) .free ∧
    (j.gen = w.toNat / 2 ^ 56 → j.state ≠ 0 →
      (∃ t v, exec (.jfree d a) s = .next t ∧ t.self.g = (s.self.putG d v).g ∧ (v = 0 ∨ v = 1) ∧ t.self.pc = s.self.pc + 4) ∧
      ∀ (b : BitVec 5) (x : Word) (i : BitVec 2), s.readsG b x = true → settled s 0 → j.state = 1 → i.toNat < j.arity → j.kind i.toNat ≠ 2 →
        j.pmask.testBit i.toNat = false → j.pmask ||| 2 ^ i.toNat = 2 ^ j.arity - 1 → j.abs = false →
        s.selfCore.deque.length < 112 → s.pushes.all (fun p => !p.here) = true → (∀ q, s.launchOf s.cur.1 = some q → q.abort = none) →
        let full : Join := { j with v := j.v.set i.toNat x, ctl := setBits j.ctl 47 44 (j.pmask ||| 2 ^ i.toNat) }
        ∃ t, exec (.jval d a b i) s = .next t ∧ t.self.g = (s.self.putG d 1).g ∧ t.self.pc = s.self.pc + 4 ∧
          t.getJoin pa = some (full.close 2).recycle.1 ∧
          t.selfCore.deque = ⟨j.cpc, [BitVec.ofNat 64 full.fold, joinWord j pa, BitVec.ofNat 64 full.pmask, 0], pa, BitVec.ofNat 4 full.pmask,
            true, false, 0, s.selfCore.launch.getD 0⟩ :: s.selfCore.deque))

/-- R382, R391, R389, R390, R228, R225: a carried join form is performed at its home and its answer retires the strand; a leapt strand's joins
are told its place; a withdrawal notice is recorded in s.wd; a carried SPAWN starts its strand and is answered; a completion word lands
FULL in the register that waits for it. -/
def Obligations.AnswersAndNoticesArrive : Prop :=
  (∀ (s : State) (q : JoinReq) (qs : List JoinReq) (h : Nat) (j : Join) (v : Word) (j' : Join), s.joins = q :: qs → q.await_ = true →
    s.joinHeld q = false → joinAt s q.pa h j → joinStep j q.pa q.word q.form = some (v, j') → s.awaits q.core q.slot q.gen = true → q.d < 28 →
    ∃ t, exec (.joinEvent 0) s = .next t ∧ t.joins = qs ∧ t.getJoin q.pa = some j' ∧
      t.strand q.core q.slot = ((s.strand q.core q.slot).putG (BitVec.ofNat 5 q.d) v).went) ∧
  (∀ (s : State) (q : JoinReq) (qs : List JoinReq) (c l old h : Nat) (j : Join), s.joins = q :: qs → c < 2048 → l < 16 →
    let new := whoStrand c l (s.strand c l).gen
    let mine := (List.range 4).filter fun i => j.kind i == 2 && j.who i == old
    q.form = .rereg old new → s.joinHeld q = false → joinAt s q.pa h j →
    ∃ t, exec (.joinReregistration c l) s = .next t ∧ t.joins = qs ∧
      t.getJoin q.pa = some { j with pw := mine.foldl (fun p i => p.set i (2 ^ 30 + new)) j.pw } ∧
      t.strand c l = { s.strand c l with
        rereg := (s.strand c l).rereg - 1, prods := if mine = [] then (s.strand c l).prods.erase q.pa else (s.strand c l).prods }) ∧
  (∀ (s : State) (q : Notice) (qs : List Notice), s.notices = q :: qs → runsOn s q.core q.key →
    (s.strand q.core q.slot).is q.gen = true → ∃ t, exec (.withdrawalNotice 0) s = .next t ∧ t.notices = qs ∧ sameBytes s t ∧
      t.strand q.core q.slot = { s.strand q.core q.slot with
        wd := wdAfter (s.strand q.core q.slot).wd q.pa q.opidx, wdRep := (s.strand q.core q.slot).wdRep || (s.strand q.core q.slot).wt }) ∧
  (∀ (s : State) (q : SpawnReq) (qs : List SpawnReq) (n : Launch) (m : Nat), s.spawns = q :: qs → runsOn s q.dst q.r.key →
    s.launchOf q.dst = some n → (s.core q.dst).freeSlot = some m → s.awaits q.core q.slot q.gen = true → q.core ≠ q.dst → q.d < 28 →
    ∃ t, exec (.spawnRequest 0) s = .next t ∧ t.spawns = qs ∧ sameBytes s t ∧
      t.strand q.dst m = n.startState (s.strand q.dst m) (n.lane q.dst m) q.r.pc q.r.a ∧
      t.strand q.core q.slot = ((s.strand q.core q.slot).putG (BitVec.ofNat 5 q.d)
        (sidOf s.devid q.dst m ((s.strand q.dst m).gen + 1))).went) ∧
  ∀ (s : State) (q : Completion) (qs : List Completion) (b : Bool), s.comps = q :: qs → runsOn s q.core q.key →
    (s.strand q.core q.slot).is q.gen = true → (s.strand q.core q.slot).holding q.tag = false →
    (vget (s.strand q.core q.slot).g q.reg).st = .pending q.tag b →
    ∃ t, exec (.completionDelivery 0) s = .next t ∧ t.comps = qs ∧ sameBytes s t ∧
      t.strand q.core q.slot = { s.strand q.core q.slot with g := vset (s.strand q.core q.slot).g q.reg ⟨q.val, .full, q.scope⟩ }

/-! Floating point, streams and vectors -/

namespace Sys2Proof.Claims

/-- What a form on registers gives: whether its sources read at once, whether its destination takes a value at once, the strand with it
there, the flags raised, and the draws made. -/
abbrev Gives := Bool × Bool × (Strand → Strand) × Flags × Nat

/-- An exact result rounded once into a format: value, flags, draws (R291, R294). -/
def rounded (x : Strand) (g : Fmt) (rm : Nat) (e : Exact) : Nat × Flags × Nat :=
  let r := g.round rm (satOf x.efmt) x.rng e.1
  (r.code, e.2 ||| r.fl, if r.drew then 1 else 0)

/-- An f register takes a rounded result. -/
def givesF (s : State) (reads : Bool) (d : BitVec 5) (r : Nat × Flags × Nat) : Option Gives :=
  some (reads, s.plainF d, fun x => x.putF d (BitVec.ofNat 64 r.1), r.2.1, r.2.2)

/-- A g register takes a value. -/
def givesG (s : State) (reads : Bool) (d : BitVec 5) (v : Word) (fl : Flags := 0) (n : Nat := 0) : Option Gives :=
  some (reads, !s.port d.toNat, fun x => x.putG d v, fl, n)

/-- A v register takes lanes. -/
def givesV (s : State) (reads : Bool) (d : Nat) (v : VWord) (fl : Flags := 0) (n : Nat := 0) : Option Gives :=
  some (reads, s.plainV d, fun x => x.putV d v, fl, n)

/-- A format code of FCVT, FCVTI and ICVTF that names a narrow format agrees with its descriptor (R300). -/
def agrees (code : BitVec 5) (d : Desc) : Bool := !(narrow code.toNat && d.code != code.toNat)

/-- The scalar floating forms (R296, R302 to R308). -/
def floatForm (s : State) (rg rf : BitVec 5 → Word) (i : Instr) : Option Gives :=
  let x := s.self
  let rm := x.fcr.toNat % 8
  let v (f : BitVec 2) (n : BitVec 5) : FVal := (fpFmt f).decode (rf n).toNat
  let r2 (a b : BitVec 5) : Bool := s.readsF a (rf a) && s.readsF b (rf b)
  let r1 (a : BitVec 5) : Bool := s.readsF a (rf a)
  let cmp (d a b : BitVec 5) (f : BitVec 2) (k : Nat) : Option Gives :=
    let c := cmpVal k (v f a) (v f b)
    givesG s (r2 a b) d (if c.1 then 1 else 0) c.2
  let conv (dst src : BitVec 5) (w : Word) : Rounded :=
    convert dst.toNat (primary x.efmt) src.toNat (secondary x.efmt) rm (satOf x.efmt) x.rng w.toNat
  match i with
  | .fadd d a b f => givesF s (r2 a b) d (rounded x (fpFmt f) rm (addVal rm (v f a) (v f b)))
  | .fsub d a b f => givesF s (r2 a b) d (rounded x (fpFmt f) rm (addVal rm (v f a) (v f b).negate))
  | .fmul d a b f => givesF s (r2 a b) d (rounded x (fpFmt f) rm (mulVal (v f a) (v f b)))
  | .fdiv d a b f => givesF s (r2 a b) d (rounded x (fpFmt f) rm (divVal (v f a) (v f b)))
  | .fma d a b c f => givesF s (r2 a b && r1 c) d (rounded x (fpFmt f) rm (fmaVal rm (v f a) (v f b) (v f c)))
  | .fnma d a b c f => givesF s (r2 a b && r1 c) d (rounded x (fpFmt f) rm (fmaVal rm (v f a).negate (v f b) (v f c)))
  | .fsqrt d a f => givesF s (r1 a) d (rounded x (fpFmt f) rm (sqrtVal (v f a)))
  | .fexp2 d a f => givesF s (r1 a) d (rounded x (fpFmt f) 0 (exp2Val (v f a)))
  | .flog2 d a f => givesF s (r1 a) d (rounded x (fpFmt f) 0 (log2Val (v f a)))
  | .frcp d a f => givesF s (r1 a) d (rounded x (fpFmt f) 0 (rcpVal (v f a)))
  | .frsqrt d a f => givesF s (r1 a) d (rounded x (fpFmt f) 0 (rsqrtVal (v f a)))
  | .fmin d a b f => let r := minmaxCode (fpFmt f) false (rf a).toNat (rf b).toNat; givesF s (r2 a b) d (r.1, r.2, 0)
  | .fmax d a b f => let r := minmaxCode (fpFmt f) true (rf a).toNat (rf b).toNat; givesF s (r2 a b) d (r.1, r.2, 0)
  | .feq d a b f => cmp d a b f 0
  | .flt d a b f => cmp d a b f 1
  | .fle d a b f => cmp d a b f 2
  | .fsgn d a b m f =>
    let w := (fpFmt f).width
    let neg := if m = 0 then (rf b).getLsbD (w - 1) else if m = 1 then !(rf b).getLsbD (w - 1)
      else (rf a).getLsbD (w - 1) != (rf b).getLsbD (w - 1)
    givesF s (r2 a b) d ((rf a).toNat % 2 ^ (w - 1) + neg.toNat * 2 ^ (w - 1), 0, 0)
  | .fclass d a f => givesG s (r1 a) d (BitVec.ofNat 64 (classMask (fpFmt f) (rf a).toNat))
  | .fcvt d a b c => if agrees b (primary x.efmt) && agrees c (secondary x.efmt) then
      let r := conv b c (rf a); givesF s (r1 a) d (r.code, r.fl, r.drew.toNat) else none
  | .fcvti d a b c => if agrees c (secondary x.efmt) then
      let r := conv b c (rf a); givesG s (r1 a) d (extendInt b.toNat r.code) r.fl r.drew.toNat else none
  | .icvtf d a b c => if agrees b (primary x.efmt) then
      let r := conv b c (rg a); givesF s (s.readsG a (rg a)) d (r.code, r.fl, r.drew.toNat) else none
  | .fmvgf d a => givesF s (s.readsG a (rg a)) d ((rg a).toNat, 0, 0)
  | .fmvfg d a => givesG s (r1 a) d (rf a)
  | _ => none

/-- A form on registers: with no enabled flag among those it raises it writes its destination, adds the flags to s.fcr and its draws to
s.rng, and goes on; with one it takes FP with the flags raised and writes nothing (R290, R292, R294). -/
def actsAs (s : State) (i : Instr) (p : Gives) : Prop :=
  p.1 = true → p.2.1 = true → i.WellFormed →
    let fl := p.2.2.2.1
    (fl.toNat &&& (s.self.fcr.toNat / 2 ^ 8 % 32) = 0 → exec i s = .next (s.become (p.2.2.1 { s.self with
      fcr := s.self.fcr ||| BitVec.ofNat 64 (fl.toNat * 8), rng := s.self.rng + BitVec.ofNat 64 p.2.2.2.2 }).went)) ∧
    (fl.toNat &&& (s.self.fcr.toNat / 2 ^ 8 % 32) ≠ 0 → s.self.tvec ≠ 0 →
      exec i s = .next (s.traps 0x10 (BitVec.ofNat 64 fl.toNat)))

/-- Exact lanes rounded one after the other, from the n-th draw on (R294, R312). -/
def roundedLanes (x : Strand) (g : Fmt) (rm : Nat) : Nat → List Exact → List Nat × Flags × Nat
  | n, [] => ([], 0, n)
  | n, e :: es =>
    let r := g.round rm (satOf x.efmt) (x.rng + BitVec.ofNat 64 n) e.1
    let t := roundedLanes x g rm (if r.drew then n + 1 else n) es
    (r.code :: t.1, e.2 ||| r.fl ||| t.2.1, t.2.2)

/-- Lanes with flags of their own, none of which draws. -/
def flagged (rs : List (Nat × Flags)) : List Nat × Flags × Nat := (rs.map Prod.fst, rs.foldr (fun r fl => r.2 ||| fl) 0, 0)

/-- The vector forms on lanes of the type of the primary descriptor (R309 to R312, R315). -/
def laneForm (s : State) (rv : Nat → VWord) (i : Instr) : Option Gives :=
  let x := s.self
  let rm := x.fcr.toNat % 8
  let code := (primary x.efmt).code
  let l (n : BitVec 4) : List Nat := lanes code (rv n.toNat)
  let r1 (a : BitVec 4) : Bool := s.readsV a.toNat (rv a.toNat)
  let r2 (a b : BitVec 4) : Bool := r1 a && r1 b
  let put (reads : Bool) (d : BitVec 4) (r : List Nat × Flags × Nat) : Option Gives :=
    givesV s reads d.toNat (ofLanes (laneStride code) r.1) r.2.1 r.2.2
  let ones (c : Bool) : Nat := if c then 2 ^ codeWidth code - 1 else 0
  match (primary x.efmt).lanes with
  | none => none
  | some (.fl f) =>
    let v (n : BitVec 4) : List FVal := (l n).map f.decode
    let e2 (op : FVal → FVal → Exact) (d a b : BitVec 4) : Option Gives :=
      put (r2 a b) d (roundedLanes x f rm 0 (List.zipWith op (v a) (v b)))
    let e1 (m : Nat) (op : FVal → Exact) (d a : BitVec 4) : Option Gives := put (r1 a) d (roundedLanes x f m 0 ((v a).map op))
    match i with
    | .vadd d a b => e2 (addVal rm) d a b
    | .vsub d a b => e2 (fun p q => addVal rm p q.negate) d a b
    | .vmul d a b => e2 mulVal d a b
    | .vdiv d a b => e2 divVal d a b
    | .vfma d a b c => put (r2 a b && r1 c) d (roundedLanes x f rm 0 (((v a).zip ((v b).zip (v c))).map fun p => fmaVal rm p.1 p.2.1 p.2.2))
    | .vsqrt d a => e1 rm sqrtVal d a
    | .vexp2 d a => if code = 1 then none else e1 0 exp2Val d a
    | .vlog2 d a => if code = 1 then none else e1 0 log2Val d a
    | .vrcp d a => e1 0 rcpVal d a
    | .vrsqrt d a => e1 0 rsqrtVal d a
    | .vscale d a b => put (r2 a b) d (roundedLanes x f rm 0 (List.zipWith (fun p n => scaleBy p (intOf (codeWidth code) true n)) (v a) (l b)))
    | .vmin d a b => put (r2 a b) d (flagged (List.zipWith (minmaxCode f false) (l a) (l b)))
    | .vmax d a b => put (r2 a b) d (flagged (List.zipWith (minmaxCode f true) (l a) (l b)))
    | .vabs d a => put (r1 a) d (flagged ((l a).map (signLane f false)))
    | .vneg d a => put (r1 a) d (flagged ((l a).map (signLane f true)))
    | .vceq d a b => put (r2 a b) d (flagged (List.zipWith (fun p q => let c := cmpVal 0 p q; (ones c.1, c.2)) (v a) (v b)))
    | .vclt d a b => put (r2 a b) d (flagged (List.zipWith (fun p q => let c := cmpVal 1 p q; (ones c.1, c.2)) (v a) (v b)))
    | .vcle d a b => put (r2 a b) d (flagged (List.zipWith (fun p q => let c := cmpVal 2 p q; (ones c.1, c.2)) (v a) (v b)))
    | .vredsum d a => givesF s (r1 a) d (let t := sumVal (v a); rounded x f rm (t.1, t.2 ||| (v a).foldr (fun q fl => nvOf q ||| fl) 0))
    | .vredmax d a => givesF s (r1 a) d ((extreme f true (l a)).getD f.nan, (v a).foldr (fun q fl => nvOf q ||| fl) 0, 0)
    | .vredmin d a => givesF s (r1 a) d ((extreme f false (l a)).getD f.nan, (v a).foldr (fun q fl => nvOf q ||| fl) 0, 0)
    | _ => none
  | some (.int w sg) =>
    let z (n : BitVec 4) : List (BitVec w) := (l n).map (BitVec.ofNat w)
    let val (n : Nat) : Int := intOf w sg n
    let b2 (op : BitVec w → BitVec w → BitVec w) (d a b : BitVec 4) : Option Gives :=
      put (r2 a b) d ((List.zipWith op (z a) (z b)).map BitVec.toNat, 0, 0)
    let c2 (t : Int → Int → Bool) (d a b : BitVec 4) : Option Gives :=
      put (r2 a b) d (List.zipWith (fun p q => ones (t (val p) (val q))) (l a) (l b), 0, 0)
    let all (a : BitVec 4) : List Int := (l a).map val
    match i with
    | .vadd d a b => b2 (· + ·) d a b
    | .vsub d a b => b2 (· - ·) d a b
    | .vmul d a b => b2 (· * ·) d a b
    | .vdiv d a b => b2 (fun p q => if q = 0 then BitVec.allOnes w else if sg then BitVec.ofInt w (p.toInt.tdiv q.toInt) else p / q) d a b
    | .vfma d a b c => put (r2 a b && r1 c) d ((List.zipWith (· + ·) (List.zipWith (· * ·) (z a) (z b)) (z c)).map BitVec.toNat, 0, 0)
    | .vmin d a b => put (r2 a b) d (List.zipWith (fun p q => if val p < val q then p else q) (l a) (l b), 0, 0)
    | .vmax d a b => put (r2 a b) d (List.zipWith (fun p q => if val p < val q then q else p) (l a) (l b), 0, 0)
    | .vabs d a => put (r1 a) d ((l a).map (fun p => (BitVec.ofInt w |val p|).toNat), 0, 0)
    | .vneg d a => put (r1 a) d ((z a).map (fun p => (-p).toNat), 0, 0)
    | .vceq d a b => c2 (fun p q => decide (p = q)) d a b
    | .vclt d a b => c2 (fun p q => decide (p < q)) d a b
    | .vcle d a b => c2 (fun p q => decide (p ≤ q)) d a b
    | .vshl d a b => put (r2 a b) d (List.zipWith (fun (p : BitVec w) (q : Nat) => (p <<< (q % w)).toNat) (z a) (l b), 0, 0)
    | .vshr d a b => put (r2 a b) d (List.zipWith (fun (p : BitVec w) (q : Nat) => (p >>> (q % w)).toNat) (z a) (l b), 0, 0)
    | .vsra d a b => put (r2 a b) d (List.zipWith (fun (p : BitVec w) (q : Nat) => (p.sshiftRight (q % w)).toNat) (z a) (l b), 0, 0)
    | .vredsum d a => givesG s (r1 a) d (BitVec.ofInt 64 (all a).sum)
    | .vredmax d a => givesG s (r1 a) d (BitVec.ofInt 64 ((all a).foldl max ((all a).headD 0)))
    | .vredmin d a => givesG s (r1 a) d (BitVec.ofInt 64 ((all a).foldl min ((all a).headD 0)))
    | _ => none

/-- The vector forms that move lanes and bits (R311, R313). -/
def moveForm (s : State) (rg : BitVec 5 → Word) (rv : Nat → VWord) (i : Instr) : Option Gives :=
  let p := primary s.self.efmt
  let code := p.code
  let n := laneCount code
  let r (a : BitVec 4) : Bool := s.readsV a.toNat (rv a.toNat)
  let v (a : BitVec 4) : VWord := rv a.toNat
  let at_ (a : BitVec 4) (k : Nat) : Nat := lane code (v a) k
  let build (f : Nat → Nat) : VWord := ofLanes (laneStride code) ((List.range n).map f)
  let typed (g : Option Gives) : Option Gives := if p.lanes.isSome then g else none
  let moved (g : Option Gives) : Option Gives := if (p.lanes true).isSome then g else none
  match i with
  | .vand d a b => typed (givesV s (r a && r b) d.toNat (v a &&& v b))
  | .vor d a b => typed (givesV s (r a && r b) d.toNat (v a ||| v b))
  | .vxor d a b => typed (givesV s (r a && r b) d.toNat (v a ^^^ v b))
  | .vsel d a b c => typed (givesV s (r a && r b && r c) d.toNat (build fun k => if at_ c k = 0 then at_ b k else at_ a k))
  | .vbcast d a => typed (givesV s (s.readsG a (rg a)) d.toNat (build fun _ => (rg a).toNat % 2 ^ codeWidth code))
  | .vextr d a b => typed (givesG s (r a && s.readsG b (rg b)) d (extendInt code (at_ a ((rg b).toNat % n))))
  | .vinsr d a b => typed (givesV s (s.readsG a (rg a) && s.readsG b (rg b) && r d) d.toNat (setLane code (v d) ((rg b).toNat % n) (rg a).toNat))
  | .vperm d a b => givesV s (r a && r b) d.toNat (ofLanes 8 ((List.range 32).map fun k => lane 9 (v a) (lane 9 (v b) k % 32)))
  | .vslide d a b c => moved (givesV s (r a && r b && s.readsG c (rg c)) d.toNat (build fun k =>
      let j := k + min (rg c).toNat n
      if j < n then at_ a j else at_ b (j - n)))
  | .vzip d a b h => moved (givesV s (r a && r b) d.toNat (build fun k => at_ (if k % 2 = 0 then a else b) (h.toNat * (n / 2) + k / 2)))
  | .vunzip d a b h => moved (givesV s (r a && r b) d.toNat (build fun k =>
      let j := 2 * k + h.toNat
      if j < n then at_ a j else at_ b (j - n)))
  | .vmov d a => givesV s (r a) d.toNat (v a)
  | _ => none

/-- The forms that have no meaning for an integer type, or for a floating one (R311). -/
def needsFloat : Instr → Bool
  | .vsqrt _ _ | .vexp2 _ _ | .vlog2 _ _ | .vrcp _ _ | .vrsqrt _ _ | .vscale _ _ _ => true
  | _ => false
def needsInt : Instr → Bool
  | .vshl _ _ _ | .vshr _ _ _ | .vsra _ _ _ => true
  | _ => false

/-- The forms that take their lane type from the primary descriptor, and for which sc8 and fx16 are none (R309). -/
def needsLanes : Instr → Bool
  | .vadd _ _ _ | .vsub _ _ _ | .vmul _ _ _ | .vdiv _ _ _ | .vfma _ _ _ _ | .vmin _ _ _ | .vmax _ _ _ | .vabs _ _ | .vneg _ _
  | .vceq _ _ _ | .vclt _ _ _ | .vcle _ _ _ | .vsel _ _ _ _ | .vand _ _ _ | .vor _ _ _ | .vxor _ _ _ | .vbcast _ _ | .vextr _ _ _
  | .vinsr _ _ _ | .vredsum _ _ | .vredmax _ _ | .vredmin _ _ => true
  | i => needsFloat i || needsInt i

/-- Lanes converted one after the other, from the n-th draw on (R294, R314). -/
def convertedLanes (x : Strand) (cv : Word → Nat → Rounded) : Nat → List Nat → List Nat × Flags × Nat
  | n, [] => ([], 0, n)
  | n, v :: vs =>
    let r := cv (x.rng + BitVec.ofNat 64 n) v
    let t := convertedLanes x cv (if r.drew then n + 1 else n) vs
    (r.code :: t.1, r.fl ||| t.2.1, t.2.2)

/-- The formats of a pair's elements (R184), and the products of a lane (R317). -/
def dotPair (p : BitVec 6) : Option (Nat × Nat × Nat) :=
  match p.toNat with
  | 0 => some (5, 5, 4) | 1 => some (5, 4, 2) | 2 => some (4, 4, 2) | 3 => some (3, 3, 2) | 5 => some (6, 6, 4) | 6 => some (7, 7, 8)
  | 7 => some (7, 5, 4) | 8 => some (8, 8, 4) | 9 => some (16, 16, 8) | _ => none

/-- The exact value of an element of a floating pair, and its NV: a narrow one is scaled (R288). -/
def dotElem (code : Nat) (d : Desc) (x sc : Nat) : Exact :=
  match floatFmt code d with
  | some f => if narrow code then scaleVal (f.decode x) (fmtSc8.decode sc) else (f.decode x, nvOf (f.decode x))
  | none => (.nan false, 0)

/-- VCVT between any two lane types, every part of it, and VDOT of every pair (R314, R317, R318). -/
def crossForm (s : State) (rf : BitVec 5 → Word) (rv : Nat → VWord) : Instr → Option Gives
  | .vcvt d a p =>
    let (dd, sd) := (primary s.self.efmt, secondary s.self.efmt)
    let (ls, ld, st) := (laneCount sd.code, laneCount dd.code, laneStride dd.code)
    if (dd.lanes true).isNone || (sd.lanes true).isNone || decide (max ls ld / min ls ld ≤ p.toNat) then none
    else
      let src := if ld ≤ ls then (List.range ld).map fun i => lane sd.code (rv a.toNat) (p.toNat * ld + i) else lanes sd.code (rv a.toNat)
      let r := convertedLanes s.self (fun rng v => convert dd.code dd sd.code sd (s.self.fcr.toNat % 8) (satOf s.self.efmt) rng v) 0 src
      let here := s.readsV a.toNat (rv a.toNat)
      if ld ≤ ls then givesV s here d.toNat (ofLanes st r.1) r.2.1 r.2.2
      else givesV s (here && s.readsV d.toNat (rv d.toNat)) d.toNat (ofLanes st ((List.range ld).map fun i =>
        if p.toNat * ls ≤ i ∧ i < p.toNat * ls + ls then r.1.getD (i - p.toNat * ls) 0 % 2 ^ codeWidth dd.code
        else (rv d.toNat).toNat / 2 ^ (st * i) % 2 ^ st)) r.2.1 r.2.2
  | .vdot d a b c p => match dotPair p with
    | none => none
    | some (ca, cb, n) =>
      let reads := s.readsV a.toNat (rv a.toNat) && s.readsV b.toNat (rv b.toNat) && s.readsV d.toNat (rv d.toNat) && s.readsF c (rf c)
      let ea (j k : Nat) : Nat := lane ca (rv a.toNat) (n * j + k)
      let eb (j k : Nat) : Nat := lane cb (rv b.toNat) (n * j + k)
      let acc (j : Nat) : Nat := lane 13 (rv d.toNat) j
      if 8 ≤ p.toNat then givesV s reads d.toNat (ofLanes 32 ((List.range 8).map fun j =>
        ((((List.range n).map fun k => intOf (codeWidth ca) true (ea j k) * intOf (codeWidth cb) true (eb j k)).sum + (acc j : Int)) % 2 ^ 32).toNat))
      else if (narrow ca && (primary s.self.efmt).code != ca) || (narrow cb && (secondary s.self.efmt).code != cb) then none
      else
        let scale (i : Nat) : Nat := (rf c).toNat / 2 ^ (8 * i) % 256
        let es := (List.range 8).map fun j =>
          let xs := (List.range n).map fun k => dotElem ca (primary s.self.efmt) (ea j k) (scale ((n * j + k) / 32))
          let ys := (List.range n).map fun k => dotElem cb (secondary s.self.efmt) (eb j k) (scale (2 + (n * j + k) / 32))
          let prods := List.zipWith (fun x y => mulVal x.1 y.1) xs ys
          let z := fmtS.decode (acc j)
          let t := sumVal (prods.map Prod.fst ++ [z])
          ((t.1, ((xs ++ ys).map Prod.snd).foldr (· ||| ·) 0 ||| (prods.map fun q => q.2 &&& flagNV).foldr (· ||| ·) 0 ||| t.2 ||| nvOf z) : Exact)
        let r := roundedLanes s.self fmtS 0 0 es
        givesV s reads d.toNat (ofLanes 32 r.1) r.2.1 r.2.2
  | _ => none

end Sys2Proof.Claims

/-- R291: rounding to a multiple of 2^q gives a neighbour: the nearest in modes 0 and 4, toward zero in 1, up in 2, down in 3; and says
whether that is inexact. Half way between two neighbours mode 0 gives the lower one when `even` says that its code is even and the other one
when not, and mode 4 the one away from zero. -/
def Obligations.RoundingPicksTheNeighbour : Prop :=
  ∀ (rng : Word) (neg : Bool) (n d : Nat) (q : Int) (even : Nat → Bool), 0 < d →
    let u : ℚ := (2 : ℚ) ^ q
    let v : ℚ := (n : ℚ) / d
    let m (rm : Nat) : ℚ := (roundAt rm rng neg n d q even).1
    (∀ rm, |m rm * u - v| < u ∧ ((roundAt rm rng neg n d q even).2 = true ↔ m rm * u ≠ v)) ∧
    |m 0 * u - v| ≤ u / 2 ∧ |m 4 * u - v| ≤ u / 2 ∧ m 1 * u ≤ v ∧
    (∀ k : Nat, v = ((k : ℚ) + 1 / 2) * u → m 0 = (if even k then (k : ℚ) else k + 1) ∧ m 4 = k + 1) ∧
    (if neg then m 2 * u ≤ v ∧ v ≤ m 3 * u else v ≤ m 2 * u ∧ m 3 * u ≤ v)

/-- R290 to R296, R302 to R308: each scalar floating form delivers its exact result rounded once, its comparison, class, conversion or move. -/
def Obligations.ScalarFloatsRoundOnce : Prop :=
  ∀ (s : State) (rg rf : BitVec 5 → Word) (i : Instr) (p : Gives), floatForm s rg rf i = some p → actsAs s i p

/-- R311, R313: the forms that select, broadcast, insert and move lanes and bits. That VSEL tests the bits of the lane of c, so that a lane
of −0 selects a, is the model's reading (log 15, DEDUCED); that VINSR keeps bits [7:6] of the six-bit lanes it does not write is log 35, and that the
moves of six-bit lanes write zero there is log 52 (both DEDUCED). -/
def Obligations.LanesAreMoved : Prop :=
  ∀ (s : State) (rg : BitVec 5 → Word) (rv : Nat → VWord) (i : Instr) (p : Gives), moveForm s rg rv i = some p → actsAs s i p

/-- R309 to R312, R315: each form on lanes works lane by lane in the type of the primary descriptor; the reductions combine every lane.

R309, R311: a form on lanes takes ILLOP of its word when the primary descriptor is no lane type, or one the form has no meaning for; VEXP2 and
VLOG2 have none on binary64 lanes. -/
def Obligations.LaneFormsWorkLaneByLane : Prop :=
  (∀ (s : State) (rv : Nat → VWord) (i : Instr) (p : Gives), laneForm s rv i = some p → actsAs s i p) ∧
  (∀ (s : State) (i : Instr) (w : BitVec 32), s.self.tvec ≠ 0 → encode i = some w →
     ((needsFloat i = true ∧ ∀ f, (primary s.self.efmt).lanes ≠ some (.fl f)) ∨
       (needsInt i = true ∧ ∀ n b, (primary s.self.efmt).lanes ≠ some (.int n b)) ∨
       (needsLanes i = true ∧ (primary s.self.efmt).lanes = none) ∨
       ((∃ d a, i = .vexp2 d a ∨ i = .vlog2 d a) ∧ (primary s.self.efmt).code = 1)) →
     exec i s = .next (s.traps 0x01 (zext64 w)))

/-- R316: VMERGEK keeps the eight best entries of two lists in order.

R184, R314, R317, R318: VCVT converts its lanes between any two types, in every part, and a narrowing one keeps the lanes of d that it does not
write, bits [7:6] of six-bit lanes among them (log 35, DEDUCED); VDOT of every pair adds the exact dot product of each lane's elements, the narrow
ones scaled, to its accumulator, with one rounding of a floating pair. -/
def Obligations.DotMergeAndConvert : Prop :=
  (∀ (s : State) (rv : Nat → VWord) (d a : BitVec 4), d.toNat % 2 = 0 → a.toNat % 2 = 0 → ∀ b : BitVec 4, b.toNat % 2 = 0 →
    s.readsV a.toNat (rv a.toNat) = true → s.readsV (a.toNat + 1) (rv (a.toNat + 1)) = true → s.readsV b.toNat (rv b.toNat) = true →
    s.readsV (b.toNat + 1) (rv (b.toNat + 1)) = true → s.plainV d.toNat = true → s.plainV (d.toNat + 1) = true →
    let list (n : Nat) : List (Nat × Nat) := (lanes 2 (rv n)).zip (lanes 13 (rv (n + 1)))
    let kept := (entrySort fmtS (entryDedup fmtS (list a.toNat ++ list b.toNat))).take 8
    let full := kept ++ List.replicate (8 - kept.length) (0x7FC00000, 0xFFFFFFFF)
    exec (.vmergek d a b) s = .next (s.become (((s.self.putV d.toNat (ofLanes 32 (full.map Prod.fst))).putV (d.toNat + 1)
      (ofLanes 32 (full.map Prod.snd))).went))) ∧
  ∀ (s : State) (rf : BitVec 5 → Word) (rv : Nat → VWord) (i : Instr) (p : Gives), crossForm s rf rv i = some p → actsAs s i p

/-- R244 to R250: SCFG reads a descriptor into an unbound stream, SBIND binds it to an EMPTY register, SUNBIND leaves the register DEAD, or
FULL with an element not yet consumed, and SSTAT reports. A loaded element lands in the EMPTY register; reading it consumes it, and writing
a write-bound register stores the next element. That neither access touches the predictor or the record of R88 is log 75 (DESIGN CHOICE), and that an
element load which misses the home cache counts in s.hpm5 is log 6 (DESIGN CHOICE). -/
def Obligations.StreamsFeedRegisters : Prop :=
  (∀ (s : State) (a : BitVec 5) (n : BitVec 3) (va : Word) (w : Nat → Word) (x : Stream), s.readsG a va = true → va.toNat % 32 = 0 →
    (∀ i, i < 4 → reads8 s (va + BitVec.ofNat 64 (8 * i)) (w i)) → s.upToDate s.cur.1 = true →
    (vget s.self.streams n.toNat).bound = none → streamFrom (w 0) (w 1) (w 2) (w 3) = some x →
    ∃ t, exec (.scfg a n) s = .next t ∧ sameBytes s t ∧
      t.self = { s.self.went with
        streams := vset s.self.streams n.toNat x, mrec := t.self.mrec, leapt := t.self.leapt, hpm := vset s.self.went.hpm 5 (vget t.self.hpm 5) }) ∧
  (∀ (s : State) (r : BitVec 2) (k : BitVec 1) (n : BitVec 3),
    let x := s.self
    let t := vget x.streams n.toNat
    let cls := if k = 0 then 1 else 2
    (t.cfg = true → t.bound = none → t.done = false → x.streamOf cls r.toNat = none → (t.esize = 2 ↔ cls = 2) →
      let y : Strand := { x with streams := vset x.streams n.toNat { t with bound := some (cls, r.toNat), loaded := [], failed := none } }
      exec (.sbind r k n) s = .next (s.become (y.restate cls r.toNat .empty).went)) ∧
    (x.streamOf cls r.toNat = none → exec (.sunbind r k) s = .next (s.become x.went)) ∧
    (∀ i, x.streamOf cls r.toNat = some i →
      let u := vget x.streams i
      let y : Strand := { x with streams := vset x.streams i { u with bound := none, loaded := [], failed := none } }
      exec (.sunbind r k) s = .next (s.become (if u.wr = false ∧ x.stateOf cls r.toNat = .full then y else y.restate cls r.toNat .dead).went)) ∧
    ∀ d : BitVec 5, s.port d.toNat = false →
      let p := t.bound.getD (1, 0)
      exec (.sstat d n) s = .next (s.become (x.putG d (BitVec.ofNat 64 ((if p.1 = 2 then 2 ^ 40 else 0) + p.2 * 2 ^ 38
        + t.bound.isSome.toNat * 2 ^ 37 + t.wr.toNat * 2 ^ 36 + t.done.toNat * 2 ^ 35 + t.cfg.toNat * 2 ^ 34 + t.pos.toNat))).went)) ∧
  (∀ (s : State) (c l i n : Nat) (a : Access) (bs : List Byte), (s.core c).saving = false → i < 8 → (s.strand c l).st ≠ .free →
    (s.strand c l).st ≠ .reserved →
    let x := s.strand c l
    let t := vget x.streams i
    t.wr = false → t.bound = some (1, n) → t.failed = none → t.loaded = [] → t.pos.toNat < t.count.toNat → (vget x.f n).st = .empty →
    ({ s with cur := (c, l) } : State).reaches (BitVec.ofNat 64 (t.addr t.pos.toNat)) t.size .load a = true → a.place = .core c →
    s.upToDate c = true → s.homeRead a.pa t.size = some bs →
    ∃ u, exec (.streamElementLoad c l i) s = .next u ∧ sameBytes s u ∧
      u.strand c l = { x with f := vset x.f n (Reg.full (BitVec.ofNat 64 (leNat bs))), hpm := ((s.fillFor c l a t.size).strand c l).hpm }) ∧
  ∀ (s : State) (d a : BitVec 5) (v : Word) (i : Nat),
    let x := s.self
    let t := vget x.streams i
    (x.streamOf 1 a.toNat = some i → t.wr = false → vget x.f a.toNat = Reg.full v → s.port d.toNat = false →
      exec (.fmvfg d a) s = .next (s.become ({ x with
        f := vset x.f a.toNat ⟨v, if t.pos + 1 = t.count then .dead else .empty, none⟩
        streams := vset x.streams i { t with pos := t.pos + 1, done := t.done || t.pos + 1 == t.count } }.putG d v).went)) ∧
    ∀ e : Access, x.streamOf 1 d.toNat = some i → t.wr = true → t.done = false → t.pos.toNat < t.count.toNat → s.readsG a v = true →
      s.reaches (BitVec.ofNat 64 (t.addr t.pos.toNat)) t.size .store e = true → x.fifo.length < 8 →
      exec (.fmvgf d a) s = .next (s.become { x.went with
        fifo := x.fifo ++ [(⟨t.addr t.pos.toNat, s.ctxOf x.launch, e, natLe v.toNat t.size, none, x.late.getLsbD 0, false, none⟩ : FifoEntry)]
        streams := vset x.streams i { t with pos := t.pos + 1, done := t.pos + 1 == t.count } })

/-! Tiles, rings and engines -/

namespace Sys2Proof.Claims

/-- No engine operation and no withdrawn ring position of the core is left: rings have nothing to settle. -/
def calm (s : State) : Prop := s.selfCore.ops = [] ∧ s.selfCore.ringWd = []

/-- The snapshot of an engine command (R326). -/
def snap (s : State) (eng cmd : Nat) (ga gb : Word) (scope : Nat) : EngOp :=
  let x := s.self
  ⟨eng, cmd, 0, s.cur.2, x.gen, 0, none, x.engRegs eng, ga, gb, x.efmt, x.lane, x.launch, s.ctxOf x.launch, !x.sup, x.dl.toNat, scope, 0,
    .queued, 0, true, none, none, none, none, [], [], [], none, none, [], none⟩

/-- The checks of R330 on the ranges of a command. -/
def rangesOk : List Range → Bool
  | [] => true
  | [x] => decide (x.len < 2 ^ 32)
  | x :: y :: _ => decide (x.len < 2 ^ 32) && decide (y.len < 2 ^ 32) && !x.meets y

/-- The engine commands (R332 to R351, R365 to R378): whether the sources read and every issue check passes, the register of the handle, the
operation, its ranges, and the ring it claims. -/
def issueForm (s : State) (rg : BitVec 5 → Word) (i : Instr) : Option (Bool × BitVec 5 × EngOp × List Range × Option Nat) :=
  let x := s.self
  let k := s.selfCore
  let reg (eng j : Nat) : Word := vget x.eregs ((engSpan eng).1 + j)
  let scope (eng : Nat) : Nat := (reg eng 0).toNat % 8
  let r (a : BitVec 5) : Bool := s.readsG a (rg a)
  let mctl : Bool := decide ((reg 0 0).toNat < 2 ^ 24) && !(reg 0 0).getLsbD 3 && decide (scope 0 ≤ 5)
  let pctl : Bool := decide ((reg 4 0).toNat < 2 ^ 12) && wbits (reg 4 0) 5 4 == 0 && decide (scope 4 ≤ 5)
  let narrowOk (f : Nat) (p : Desc) : Bool := !narrow f || (p.valid && p.code == f)
  let copy (cmd : Nat) (d a b : BitVec 5) : Option (Bool × BitVec 5 × EngOp × List Range × Option Nat) :=
    let o := snap s 1 cmd (rg a) (rg b) (scope 1)
    let src := cmd != 1
    let js := List.range o.ndim
    let ring (kind n : Nat) : Bool := kind != 2 || (decide (n < 16) && k.hasRing n)
    let ranges := (if 2 ≤ cmd then [(⟨false, (reg 1 26).toNat % 2 ^ 57, 4 * o.ext 1, w64 154⟩ : Range)] else [])
      ++ (if src && cmd != 2 && o.skind == 0 then [rangeOf false (o.span (rg a).toNat o.sstr o.sfmt) (rg a)] else [])
      ++ (if cmd != 3 && o.dkind == 0 then [rangeOf true (o.span (rg b).toNat o.dstr o.dfmt) (rg b)] else [])
    some (r a && r b && decide ((reg 1 0).toNat < 2 ^ 42) && wbits (reg 1 0) 11 4 == 0 && decide (1 ≤ o.dfmt ∧ o.dfmt ≤ 19)
      && (!src || decide (1 ≤ o.sfmt ∧ o.sfmt ≤ 19)) && decide (1 ≤ o.ndim ∧ o.ndim ≤ 9) && (cmd < 2 || o.ndim == 2) && o.dkind != 3
      && (!src || o.skind != 3) && (cmd != 2 || o.skind == 0) && (cmd != 3 || o.dkind == 0) && ring o.dkind o.dt_
      && (!src || ring o.skind o.st_) && decide (o.scope ≤ 5)
      && js.all (fun j => decide (1 ≤ (o.reg (1 + j)).toNat ∧ (o.reg (1 + j)).toNat < 2 ^ 32))
      && (js.drop 1).all (fun j => !src || o.sstr j % elemBytes o.sfmt == 0) && (js.drop 1).all (fun j => o.dstr j % elemBytes o.dfmt == 0)
      && (cmd < 2 || decide ((reg 1 26).toNat < 2 ^ 57)) && (!src || (rg a).toNat % elemBytes o.sfmt == 0)
      && (rg b).toNat % elemBytes o.dfmt == 0 && rangesOk ranges && (!src || narrowOk o.sfmt (secondary x.efmt))
      && narrowOk o.dfmt (primary x.efmt), d, o, ranges, if o.dkind = 2 then some o.dt_ else none)
  let select (cmd : Nat) (d a b : BitVec 5) : Option (Bool × BitVec 5 × EngOp × List Range × Option Nat) :=
    let o := snap s 2 cmd (rg a) (rg b) (scope 2)
    let w := elemBytes o.slFmt
    let ranges := [rangeOf false (rowsSpan (rg a) (o.reg 1) o.slRows (if cmd = 0 then o.slLen * w else 528)) (rg a),
      if cmd = 0 then rangeOf true (rowsSpan (rg b) (o.reg 2) o.slRows 528) (rg b) else ⟨true, (rg b).toNat % 2 ^ 57, 528, rg b⟩]
    some (r a && r b && decide ((reg 2 0).toNat < 2 ^ 48) && wbits (reg 2 0) 31 29 == 0 && !(reg 2 0).getLsbD 3 && decide (1 ≤ o.slRows)
      && (if cmd = 0 then decide (1 ≤ o.slLen ∧ o.slLen ≤ 4096) else decide (o.slRows ≤ 64) && o.slLen == 0)
      && decide (2 ≤ o.slFmt ∧ o.slFmt ≤ 5) && decide (1 ≤ o.slK ∧ o.slK ≤ 64) && decide (o.scope ≤ 5)
      && (if cmd = 0 then (o.reg 1).toInt % w == 0 && (o.reg 2).toInt % 16 == 0 && (decide (o.slRows < 2) || decide (528 ≤ (o.reg 2).toInt.natAbs))
          && (rg a).toNat % w == 0 else (o.reg 1).toInt % 16 == 0 && (rg a).toNat % 16 == 0)
      && (rg b).toNat % 16 == 0 && rangesOk ranges && narrowOk o.slFmt (primary x.efmt), d, o, ranges, none)
  let collect (cmd : Nat) (d a b : BitVec 5) : Option (Bool × BitVec 5 × EngOp × List Range × Option Nat) :=
    let o := snap s 3 cmd (rg a) (rg b) (scope 3)
    let n := o.colCount * elemBytes o.colFmt
    let f := o.colFmt
    let dst : Range := ⟨true, (rg b).toNat % 2 ^ 57, n, rg b⟩
    let ranges := if rg a = rg b then [dst] else [⟨false, (rg a).toNat % 2 ^ 57, n, rg a⟩, dst]
    let lanes := (s.group o.colTag).map fun p => p.2.lane
    some (r a && r b && decide ((reg 3 0).toNat < 2 ^ 43) && wbits (reg 3 0) 31 21 == 0 && wbits (reg 3 0) 15 13 == 0
      && !(reg 3 0).getLsbD 7 && !(reg 3 0).getLsbD 3 && decide (1 ≤ o.colNdev ∧ o.colNdev ≤ 1536) && decide (1 ≤ o.colPpd ∧ o.colPpd ≤ 16)
      && (if cmd = 0 then decide ((1 ≤ f ∧ f ≤ 4) ∨ (12 ≤ f ∧ f ≤ 15)) else decide (1 ≤ f ∧ f ≤ 19 ∧ 8 ≤ codeWidth f)) && decide (o.colOp ≤ 2)
      && (cmd == 0 || o.colOp == 0) && (o.scope == 4 || o.scope == 5) && decide ((reg 3 1).toNat < 2 ^ 57) && (reg 3 1).toNat % 2 == 0
      && decide (1 ≤ (reg 3 2).toNat ∧ (reg 3 2).toNat < 2 ^ 32) && decide ((reg 3 3).toNat < 2 ^ 32) && rangesOk ranges
      && decide (lanes.Nodup ∧ o.lane ∉ lanes), d, o, ranges, none)
  let handle (h : Word) : Bool := decide (h.toNat < 2 ^ 42) && wbits h 35 32 == 0
  match i with
  | .mma d a p =>
    let o := snap s 0 p.toNat (rg a) 0 (scope 0)
    some (r a && pairOk p.toNat x.efmt && mctl && decide o.mmaRings.Nodup && o.mmaRings.all k.hasRing && !(p == 10 && o.accN % 2 == 1)
      && decide (1 ≤ (rg a).toNat ∧ (rg a).toNat < 2 ^ 32), d, o, [], none)
  | .mmv d a b =>
    let o := snap s 0 0x10 (rg a) (rg b) (scope 0)
    let pairIs := isMmaPair o.mvPair && o.mvPair != 10
    let row := runBytes (pairCodes o.mvPair).1 o.mvK
    let weights : Range := ⟨false, (rg a).toNat % 2 ^ 57, (o.mvN - 1) * (reg 0 3).toNat + row, rg a⟩
    let ranges := if (pairScaled o.mvPair).1 then [weights, ⟨false, (rg b).toNat % 2 ^ 57, o.mvN * o.mvBlocks, rg b⟩] else [weights]
    some (r a && r b && mctl && decide (1 ≤ (reg 0 1).toNat ∧ (reg 0 1).toNat < 2 ^ 32) && decide ((reg 0 2).toNat < 2 ^ 35)
      && wbits (reg 0 2) 31 15 == 0 && decide (1 ≤ o.mvN ∧ o.mvN ≤ 16384) && decide ((reg 0 3).toNat < 2 ^ 32) && (reg 0 3).toNat % 64 == 0
      && pairIs && decide (row ≤ (reg 0 3).toNat) && decide ((reg 0 4).toNat < 2 ^ 20) && wbits (reg 0 4) 15 14 == 0 && wbits (reg 0 4) 7 6 == 0
      && (rg a).toNat % 64 == 0 && rangesOk ranges && pairOk o.mvPair x.efmt, d, o, ranges, none)
  | .mclr d a => some (r a && mctl && decide ((rg a).toNat < 256), d, snap s 0 0x11 (rg a) 0 (scope 0), [], none)
  | .mld d a b => some (r a && r b && mctl && decide ((rg a).toNat < 8) && decide ((rg b).toNat < 64), d, snap s 0 0x12 (rg a) (rg b) (scope 0),
    [], none)
  | .mst d a b =>
    let f := (reg 0 5).toNat
    some (r a && r b && mctl && (f == 12 || decide (2 ≤ f ∧ f ≤ 7)) && decide ((rg a).toNat < 8) && decide ((rg b).toNat < 64)
      && narrowOk f (primary x.efmt), d, snap s 0 0x13 (rg a) (rg b) (scope 0), [], none)
  | .copy d a b => copy 0 d a b
  | .fillt d a b => copy 1 d a b
  | .gather d a b => copy 2 d a b
  | .scatter d a b => copy 3 d a b
  | .topk d a b => select 0 d a b
  | .mergel d a b => select 1 d a b
  | .allred d a b => collect 0 d a b
  | .bcast d a b => collect 1 d a b
  | .tjins d => some (pctl, d, snap s 4 0 0 0 (scope 4), [], none)
  | .tjapp d a b =>
    let z := match tget (s.die (handleStore (rg a)).1).ponds (handleStore (rg a)).2 with | some p => 64 + p.obs | none => 0
    let o : EngOp := { snap s 4 1 (rg a) (rg b) (scope 4) with z := z }
    let ranges := [(⟨false, (rg b).toNat % 2 ^ 57, o.pNapp * max 64 z, rg b⟩ : Range)]
    some (r a && r b && pctl && decide ((reg 4 3).toNat < 2 ^ 39) && o.pNapp != 0 && handle (rg a) && (rg b).toNat % 64 == 0 && rangesOk ranges,
      d, o, ranges, none)
  | .tjcls d a b => some (r a && r b && pctl && handle (rg a) && decide ((rg b).toNat < 2 ^ 32), d, snap s 4 2 (rg a) (rg b) (scope 4), [], none)
  | .tjsmp d a b =>
    let sup := (reg 4 0).getLsbD 3
    let gb := if b = a then rg a else rg b
    let o := snap s 4 3 (rg a) gb (scope 4)
    let recs : Range := ⟨true, (rg a).toNat % 2 ^ 57, 32 * o.pK, rg a⟩
    let ranges := if sup then [recs, ⟨false, gb.toNat % 2 ^ 57, 8 * o.pK, gb⟩] else [recs]
    some (r a && r b && pctl && decide ((reg 4 1).toNat < 2 ^ 43) && decide (1 ≤ o.pK ∧ o.pK ≤ 1024)
      && (decide (o.pBeta ≤ 0x3F800000) || o.pBeta == 0x80000000) && (rg a).toNat % 32 == 0 && (!sup || gb.toNat % 8 == 0) && rangesOk ranges,
      d, o, ranges, none)
  | .tjget d a b =>
    let o := snap s 4 4 (rg a) (rg b) (scope 4)
    let ranges := [(⟨false, (rg a).toNat % 2 ^ 57, 32 * (rg b).toNat, rg a⟩ : Range)]
    some (r a && r b && pctl && decide ((reg 4 3).toNat < 2 ^ 39) && o.pWin != 0 && (!o.pRing || (decide (o.pTile < 16) && k.hasRing o.pTile))
      && (rg a).toNat % 32 == 0 && decide (1 ≤ (rg b).toNat ∧ (rg b).toNat ≤ 1024) && rangesOk ranges, d, o, ranges,
      if o.pRing then some o.pTile else none)
  | .tjpri d a b => some (r a && r b && pctl && handle (rg a) && decide ((rg b).toNat < 2 ^ 32), d, snap s 4 5 (rg a) (rg b) (scope 4), [], none)
  | .tjevi d a => some (r a && pctl && handle (rg a), d, snap s 4 6 (rg a) 0 (scope 4), [], none)
  | .tjver d a b => some (r a && r b && pctl && decide ((rg a).toNat < 2 ^ 32) && decide ((rg b).toNat < 2 ^ 32), d,
      snap s 4 7 (rg a) (rg b) (scope 4), [], none)
  | .tjstat d b =>
    let ranges := [(⟨true, (rg b).toNat % 2 ^ 57, 64, rg b⟩ : Range)]
    some (r b && pctl && (rg b).toNat % 64 == 0 && rangesOk ranges, d, snap s 4 8 0 (rg b) (scope 4), ranges, none)
  | _ => none

end Sys2Proof.Claims

/-- R73 to R75, R187, R319, R320, R323, R324, R326: the forms on engine registers and tiles. With no operation of the core's engines under way: TSET
writes an entry, TMARK makes the three changes of state it may, TWAIT waits for a state, VLDT reads a READY tile and VSTT enters a store to it.

R78, R79, R321, R322: TRING sets a ring that no operation names; RINGHD and RINGTL report the head and tail tile with the descriptor as it was, and
with bit 0 set pop a READY head tile, which goes EMPTY, or claim an EMPTY tail tile for filling. Neither asks for a SIZE (log 46, DEDUCED). -/
def Obligations.TilesAndRingsAct : Prop :=
  ((∀ (s : State) (d a : BitVec 5) (er : BitVec 10) (v : Word), s.readsG a v = true → s.port d.toNat = false →
     exec (.eset a er) s = .next (s.become { s.self.went with eregs := vset s.self.eregs ((engSpan (er.toNat / 128)).1 + er.toNat % 128) v }) ∧
     exec (.eget d er) s = .next (s.become (s.self.putG d (vget s.self.eregs ((engSpan (er.toNat / 128)).1 + er.toNat % 128))).went)) ∧
   (∀ (s : State) (d a : BitVec 5) (t : BitVec 6) (v : Word), s.readsG a v = true → s.port d.toNat = false → calm s →
     let w := s.selfCore.tile t.toNat
     let marked (z st : Nat) : Prop := ∃ u, exec (.tmark a t) s = .next u ∧ u.self.pc = s.self.pc + 4 ∧ u.self.g = s.self.g ∧ sameBytes s u ∧
       u.selfCore.tiles = vset s.selfCore.tiles t.toNat (tileWith w st (z == 1))
     (s.self.fifo = [] → s.selfCore.owned t.toNat = false → tileOk v = true → ∃ u, exec (.tset a t) s = .next u ∧ u.self.pc = s.self.pc + 4 ∧
       u.self.g = s.self.g ∧ sameBytes s u ∧ u.selfCore.tiles = vset s.selfCore.tiles t.toNat v) ∧
     (tileSize w ≠ 0 → exec (.tstate d t) s = .next (s.become (s.self.putG d w).went)) ∧
     (tileSize w ≠ 0 → v.toNat % 4 = tileState w → exec (.twait a t) s = .next (s.become s.self.went)) ∧
     (tileSize w ≠ 0 → v.toNat % 4 ≠ tileState w → exec (.twait a t) s = .next (s.become { s.self with st := .parked (.tile t.toNat) })) ∧
     (tileSize w ≠ 0 → s.selfCore.owned t.toNat = false →
       (tileState w = 0 → v.toNat % 4 = 1 → marked 0 1) ∧ (tileState w = 2 → v.toNat % 4 = 0 → marked 0 0) ∧
       (tileState w = 1 → v.toNat % 4 = 2 → s.self.fifo = [] → marked (v.toNat / 4 % 2) 2))) ∧
   ∀ (s : State) (d : BitVec 4) (a : BitVec 5) (t : BitVec 6) (off : Word), s.readsG a off = true →
     let w := s.selfCore.tile t.toNat
     tileSize w ≠ 0 → off.toNat % 32 = 0 → off.toNat + 32 ≤ tileSize w → tileState w = 2 →
     let pa := s.tileAddr s.cur.1 t.toNat off.toNat
     (∀ bs, s.plainV d.toNat = true → s.self.going = none → s.uncovered pa 32 = true → s.upToDate s.cur.1 = true → s.homeRead pa 32 = some bs →
       ∃ u, exec (.vldt d a t) s = .next u ∧ onlyMine s u ∧
         u.self = { (s.self.putV d.toNat (BitVec.ofNat 256 (leNat bs))).went with mrec := u.self.mrec, leapt := u.self.leapt }) ∧
     ∀ v, s.readsV d.toNat v = true → s.self.fifo.length < 8 → ∃ u e, exec (.vstt d a t) s = .next u ∧ onlyMine s u ∧
       u.self = { s.self.went with fifo := s.self.fifo ++ [e], mrec := u.self.mrec, leapt := u.self.leapt } ∧
       e.acc.pa = pa ∧ e.acc.place = .core s.cur.1 ∧ e.data = natLe v.toNat 32 ∧ e.timed = none) ∧
  (∀ (s : State) (d a : BitVec 5) (r : BitVec 4) (v : Word), s.readsG a v = true → s.port d.toNat = false → calm s →
     let w := s.selfCore.ring r.toNat
     (ringOk v = true → ∃ t, exec (.tring a r) s = .next t ∧ t.self.pc = s.self.pc + 4 ∧ t.self.g = s.self.g ∧ sameBytes s t ∧
       t.selfCore.rings = vset s.selfCore.rings r.toNat v) ∧
     (ringCount w ≠ 0 → v.getLsbD 0 = false →
       exec (.ringhd d a r) s = .next (s.become (s.self.putG d (ringReport w (ringHead w))).went) ∧
       exec (.ringtl d a r) s = .next (s.become (s.self.putG d (ringReport w (ringTail w))).went)) ∧
     (ringCount w ≠ 0 → v.getLsbD 0 = true → ringHead w ≠ ringTail w → tileState (s.selfCore.tile (s.selfCore.headTile r.toNat)) = 2 →
       s.selfCore.owned (s.selfCore.headTile r.toNat) = false → ∃ t, exec (.ringhd d a r) s = .next t ∧ t.self.pc = s.self.pc + 4 ∧
         t.self.g = (s.self.putG d (ringReport w (ringHead w))).g ∧ tileState (t.selfCore.tile (s.selfCore.headTile r.toNat)) = 0 ∧
         t.selfCore.ring r.toNat = ringWith w ((ringHead w + 1) % (2 * ringCount w)) (ringTail w)) ∧
     (ringCount w ≠ 0 → v.getLsbD 0 = true → ringHeld w ≠ ringCount w → tileState (s.selfCore.tile (ringTile w (ringTail w))) = 0 →
       s.selfCore.owned (ringTile w (ringTail w)) = false → ∃ t, exec (.ringtl d a r) s = .next t ∧ t.self.pc = s.self.pc + 4 ∧
         t.self.g = (s.self.putG d (ringReport w (ringTail w))).g ∧ tileState (t.selfCore.tile (ringTile w (ringTail w))) = 1 ∧
         t.selfCore.ring r.toNat = ringWith w (ringHead w) ((ringTail w + 1) % (2 * ringCount w))))

/-- R129, R221, R225, R326 to R330: an engine command whose checks pass and that finds room is queued behind the core's other operations with
its snapshot and a handle: its ranges are registered as pegs, whose OP is the low eight bits of the handle's tag (log 53, DEDUCED), its ring is
claimed, d is PENDING on the handle, and memory is as before. With its engine's sixteen places full it parks. A COPY, GATHER or SCATTER with any
aligned destination stride passes its checks (log 54, DEDUCED). -/
def Obligations.EngineCommandsAreQueued : Prop :=
  ∀ (s : State) (rg : BitVec 5 → Word) (i : Instr) (d : BitVec 5) (o : EngOp) (ranges : List Range) (ring : Option Nat),
    i.WellFormed → issueForm s rg i = some (true, d, o, ranges, ring) → s.port d.toNat = false → settled s o.scope →
    (s.selfCore.ops.countP (fun q => q.eng == o.eng) < 16 → ranges.any (s.selfCore.fifoMeets o.ctx) = false →
      ranges.length ≤ s.selfCore.freePegs.length → (∀ r, ring = some r → ringHeld (s.selfCore.ring r) ≠ ringCount (s.selfCore.ring r)) →
      ∃ t h, exec i s = .next t ∧ t.self.pc = s.self.pc + 4 ∧ sameBytes s t ∧
        t.selfCore.ops = s.selfCore.ops ++ [{ o with
          tag := h, dest := d.toNat, claim := ring.map fun r => (r, ringTail (s.selfCore.ring r)) }] ∧
        t.self.g = (if d = 0 then s.self.g else vset s.self.g d.toNat ⟨0, .pending h false, none⟩) ∧
        ∀ p ∈ ranges, ∃ n, n < 16 ∧ vget t.selfCore.pegs n = some ⟨p.w, o.ctx, p.base, p.len, h.setWidth 8⟩) ∧
    (16 ≤ s.selfCore.ops.countP (fun q => q.eng == o.eng) → exec i s = .next (s.become { s.self with st := .parked .engine }))

namespace Sys2Proof.Claims

/-- An engine operation of core `c` reaches `pa` by the address `va`: in a tile, or in this device's memory through its translation, with nothing
due at the home (R18, R24, R131, R344). -/
def engLands (s : State) (c : Nat) (o : EngOp) (tile : Option Nat) (va : Nat) (kind : Kind) (pa : Nat) : Prop :=
  match tile with
  | some t => pa = s.tileAddr c t va
  | none => va < 2 ^ 57 ∧ ∃ e a, s.tlbFind c o.ctx va = some e ∧ leafAllows e.leaf kind o.user = true ∧ leafStale e.leaf kind = false ∧
      s.accessOf e va = some a ∧ a.pa = pa ∧ devOf pa = s.devid.toNat ∧ s.refused pa = false ∧ s.gone pa = false ∧ inControl pa = false ∧
      s.current a.place = true

/-- An engine operation reads `bs` at `va` of a tile or of memory, each part at its home (R329); `R` holds of every byte that it reads. -/
def engSees (s : State) (c : Nat) (o : EngOp) (R : Nat → Bool) (tile : Option Nat) (va : Nat) (bs : List Byte) : Prop :=
  match tile with
  | some t => s.homeRead (s.tileAddr c t va) bs.length = some bs ∧ ∀ i, i < bs.length → R (s.tileAddr c t va + i) = true
  | none => ∀ p ∈ chunks (bs.length / 8 + 2) va bs.length, ∃ pa, engLands s c o none p.1 .engineRead pa ∧
      s.homeRead pa p.2 = some ((bs.drop (p.1 - va)).take p.2) ∧ ∀ i, i < p.2 → R (pa + i) = true

/-- A core whose matrix engine is at a step of an MMA, none of whose pops is owed (R335). -/
def mmaAt (s : State) (c : Nat) (o : EngOp) : Prop :=
  (s.core c).ops = [o] ∧ o.eng = 0 ∧ o.cmd ≤ 11 ∧ isMmaPair o.cmd = true ∧ o.st = .begun ∧ o.owes = [] ∧ (s.core c).ringWd = [] ∧
    o.mmaRings.Nodup

/-- The rings whose head tiles the next step takes: with NS set and a zero A tile, the B tile and its scales stay unread (R335, R337). -/
def mmaTakes (k : Core) (o : EngOp) : List Nat :=
  if (o.reg 0).getLsbD 7 = true ∧ tileZero (k.tile (k.headTile o.ra)) = true then [o.ra] ++ (if (pairScaled o.cmd).1 then [o.sra] else [])
  else o.mmaRings

/-- An element of a combination of one participant: as it is, save that a reduction of floats gives the default NaN for a NaN (R283, R353). -/
def colElem (o : EngOp) (x : Nat) : Nat :=
  match if o.cmd = 1 then none else floatFmt o.colFmt ⟨0, 0, false, false⟩ with
  | some f => if (f.decode x).isNan then f.nan else x
  | none => x

/-- The completion of an operation, alone on its core: it leaves the queue and the peg table and sends its completion word; the tile that it
filled is READY after STATUS OK, with Z when every byte written is zero, and EMPTY otherwise; the tile that it read is READY again, or popped
(R74, R79, R132, R226). -/
def opEnds (s u : State) (c : Nat) (o : EngOp) (status count : Nat) (zero : Bool) : Prop :=
  (u.core c).ops = [] ∧ (∀ n p, vget (u.core c).pegs n = some p → p.op ≠ o.tag.setWidth 8) ∧
    u.comps = s.comps ++ [⟨c, o.slot, o.gen, o.dest, o.tag, BitVec.ofNat 64 (status * 2 ^ 56 + o.eng * 2 ^ 53 + count % 2 ^ 48), some o.scope,
      o.key⟩] ∧
    (∀ t, o.fill = some t → tileState ((u.core c).tile t) = (if status = 0 then 2 else 0) ∧
      tileZero ((u.core c).tile t) = (status == 0 && zero) ∧ (u.core c).owned t = false) ∧
    ∀ t, o.src = some t → tileState ((u.core c).tile t) = (if o.pop.isSome then 0 else 2) ∧ (u.core c).owned t = false

end Sys2Proof.Claims

/-- R74, R75, R132, R226, R329, R335, R337, R339, R351 to R353: an operation begins when its tiles let it; an MMA takes a step on its head
tiles, which are DRAINING under owner marks until it ends, when the accumulator takes their product and they are popped, or with NS set and a
zero A tile a product of zeros (that a step begins and ends apart is the model's choice, log 51); a collective of one participant takes its
source as the result (a group begins when as many as it names have come, log 73, DEDUCED); and an operation whose units are done sends its
completion word and leaves the queue and the peg table, where it is known by the low eight bits of its tag (log 53, DEDUCED). -/
def Obligations.EngineOperationsRun : Prop :=
  (∀ (s : State) (c : Nat) (o : EngOp), (s.core c).ops = [o] → o.eng = 0 → o.cmd = 0x12 → o.st = .queued → o.cancel = none → o.res = none →
    o.comb = none →
    let k := s.core c
    let t := o.gb.toNat % 64
    1024 ≤ tileSize (k.tile t) → tileState (k.tile t) = 2 → k.owned t = false →
    ∃ u, exec (.engineOpBegin c 0) s = .next u ∧ sameBytes s u ∧ (u.core c).ops = [{ o with
        st := .begun, src := some t, pop := none, fill := none, zero := true }] ∧
      tileState ((u.core c).tile t) = 3 ∧ (u.core c).owned t = true) ∧
  (∀ (s : State) (c : Nat) (o : EngOp), mmaAt s c o →
    let k := s.core c
    let popped (u : State) (r : Nat) : Prop := tileState ((u.core c).tile (k.headTile r)) = 0 ∧ (u.core c).owned (k.headTile r) = false
    (o.takes = [] → o.cancel = none → o.step < o.mmaSteps → k.headReady o.ra = true → (∀ r ∈ mmaTakes k o, k.headReady r = true) →
      (∀ r ∈ mmaTakes k o, (if r = o.ra ∨ r = o.rb then 1024 else 64) ≤ tileSize (k.tile (k.headTile r))) →
      ∃ u, exec (.mmaStep c) s = .next u ∧ sameBytes s u ∧ (u.core c).ops = [{ o with takes := mmaTakes k o }] ∧
        ∀ r ∈ mmaTakes k o, tileState ((u.core c).tile (k.headTile r)) = 3 ∧ (u.core c).owned (k.headTile r) = true) ∧
    (∀ ta tb sa sb : List Byte, o.rb ∈ o.takes → s.upToDate c = true →
      let reads (r n : Nat) (bs : List Byte) : Prop := s.homeRead (s.tileAddr c (k.headTile r) 0) n = some bs
      reads o.ra 1024 ta → reads o.rb 1024 tb → (if (pairScaled o.cmd).1 then reads o.sra 64 sa else sa = []) →
      (if (pairScaled o.cmd).2 then reads o.srb 64 sb else sb = []) →
      ∃ u, exec (.mmaStep c) s = .next u ∧ sameBytes s u ∧ (u.core c).acc = mmaAcc o k.acc ta tb sa sb ∧
        (u.core c).ops = [{ o with takes := [], step := o.step + 1 }] ∧ ∀ r ∈ o.mmaRings, popped u r) ∧
    (o.takes ≠ [] → o.takes.Nodup → o.rb ∉ o.takes →
      ∃ u q, exec (.mmaStep c) s = .next u ∧ sameBytes s u ∧ (u.core c).acc = zeroAcc o k.acc ∧
        (u.core c).ops = [q] ∧ q.step = o.step + 1 ∧ q.takes = [] ∧ ∀ r ∈ o.takes, popped u r)) ∧
  (∀ (s : State) (c : Nat) (o : EngOp), (s.core c).ops = [o] → o.eng = 1 → o.st = .begun → o.res = none → o.cancel = none → o.step = o.units →
    o.fill = none → o.claim = none → o.src = none → o.part = [] → o.joins = [] → o.fwd = none → o.dest ≠ 0 → (s.core c).ringWd = [] →
    (o.scope = 5 → s.cores.all (fun k => s.upToDate k.1) = true ∧ s.homeDirty = [] ∧ s.mscDirty = []) →
    ∃ u, exec (.engineOpComplete c o.tag) s = .next u ∧ sameBytes s u ∧ opEnds s u c o 0 o.step true) ∧
  ∀ (s : State) (c : Nat) (o : EngOp) (bs : List Byte), s.cores = [(c, s.core c)] → (s.core c).ops = [o] → o.eng = 3 → o.st = .queued →
    o.res = none → o.cancel = none → o.comb = none → o.colNdev = 1 → o.colPpd = 1 →
    engSees s c o (fun _ => true) none o.colList (natLe s.devid.toNat 2) →
    let w := elemBytes o.colFmt
    bs.length = w * o.colCount → engSees s c o (fun _ => true) none o.ga.toNat bs →
    ∃ t q, exec (.collectiveCombine o.colTag []) s = .next t ∧ (t.core c).ops = [q] ∧ q.st = .begun ∧
      q.res = some ⟨0, o.colCount, ((List.range o.colCount).map fun i => colElem o (leNat ((bs.drop (w * i)).take w))).zipIdx.map
        fun x => (o.gb.toNat + w * x.2, natLe x.1 w), 1, [s.devid.toNat], []⟩

namespace Sys2Proof.Claims

/-- What the last of some writes that covers a byte leaves there. -/
def lastPut (ws : List (Nat × List Byte)) (a : Nat) : Option Byte :=
  ws.reverse.findSome? fun w => if w.1 ≤ a then w.2[a - w.1]? else none

/-- Memory after some writes, made one after the other. -/
def afterPuts (s u : State) (ws : List (Nat × List Byte)) : Prop := ∀ a, byteAt u a = (lastPut ws a).getD (byteAt s a)

/-- Some writes are those of `bs` at `va`, in the pieces in which it reaches its homes. -/
def cutInto (s : State) (c : Nat) (o : EngOp) (va : Nat) (bs : List Byte) (ws : List (Nat × List Byte)) : Prop :=
  let ps := chunks (bs.length / 8 + 2) va bs.length
  ws.length = ps.length ∧ ∀ (k : Nat) (p : Nat × Nat) (w : Nat × List Byte), ps[k]? = some p → ws[k]? = some w →
    engLands s c o none p.1 .engineWrite w.1 ∧ w.2 = (bs.drop (p.1 - va)).take p.2

/-- The place of an operation's tile, or memory. -/
def placed (kind : Nat) (t : Option Nat) : Option Nat := if kind = 0 then none else some (t.getD 0)

/-- Element `n` of an operation, which is element `j` of its run, is written as `x n`; of two 4-bit elements in a byte the second keeps the first
(R333, R341). -/
def elemPut (code : Nat) (x : Nat → Nat) (n j : Nat) : List Byte :=
  if codeWidth code = 4 ∧ j % 2 = 1 then [BitVec.ofNat 8 (x (n - 1) % 16 + x n % 16 * 16)] else natLe (x n) (elemBytes code)

/-- A selection record's entries and sums (R347, R348): the first K of the ranked entries, the rest empty. -/
def recordPut (s : State) (c : Nat) (o : EngOp) (va : Nat) (ranked : List (Nat × Nat)) (sumOut : Nat) (ws : List (Nat × List Byte)) : Prop :=
  let kept := ranked.take o.slK
  let full := kept ++ List.replicate (o.slK - kept.length) (o.slF.nan, 0xFFFFFFFF)
  ∃ w1 w2 w3, ws = w1 ++ w2 ++ w3 ∧ cutInto s c o va (full.flatMap fun e => natLe e.1 (elemBytes o.slFmt)) w1 ∧
    cutInto s c o (va + 256) (full.flatMap fun e => natLe e.2 4) w2 ∧
    cutInto s c o (va + 512) (natLe (sum32 o.slF (kept.map Prod.fst)) 4 ++ natLe sumOut 4 ++ List.replicate 8 0) w3

/-- What unit `i` of an operation reads and writes: an element of COPY (R341) or FILLT (R343), a row of GATHER or SCATTER (R344), a row of TOPK
(R348), the merged record of MERGEL (R349), an output of MMV (R338), the tile of MST (R339). `x n` is element n as it is written. -/
def unitDoes (s : State) (c : Nat) (o : EngOp) (R : Nat → Bool) (x : Nat → Nat) (i : Nat) (ws : List (Nat × List Byte)) : Prop :=
  let idx (j : Nat) : Nat := i / ((List.range j).map o.ext).prod % o.ext j
  let off (str : Nat → Int) : Int := (((List.range o.ndim).drop 1).map fun j => (idx j : Int) * str j).sum
  let loads (base : Int) (j v : Nat) : Prop := ∃ bs : List Byte, bs.length = elemBytes o.sfmt ∧
    engSees s c o R (placed o.skind o.src) (addr64 base + elemOff o.sfmt j) bs ∧ v = o.conv (elemOf o.sfmt j bs)
  let puts (base : Int) (j n : Nat) (w : Nat × List Byte) : Prop :=
    engLands s c o (placed o.dkind o.fill) (addr64 base + elemOff o.dfmt j) .engineWrite w.1 ∧ w.2 = elemPut o.dfmt x n j
  match o.eng, o.cmd with
  | 1, 0 => loads (o.ga.toNat + off o.sstr) (idx 0) (x i) ∧ ∃ w, ws = [w] ∧ puts (o.gb.toNat + off o.dstr) (idx 0) i w
  | 1, 1 => x i = o.ga.toNat % 2 ^ codeWidth o.dfmt ∧ ∃ w, ws = [w] ∧ puts (o.gb.toNat + off o.dstr) (idx 0) i w
  | 1, _ => ∃ bs : List Byte, bs.length = 4 ∧ engSees s c o R none ((o.reg 26).toNat % 2 ^ 57 + 4 * i) bs ∧
      let n := leNat bs
      let rows : Nat × Nat := if o.cmd = 2 then (n, i) else (i, n)
      if n = 0xFFFFFFFF ∧ o.cmd = 3 then ws = []
      else ws.length = o.ext 0 ∧ ∀ j, j < o.ext 0 →
        (if n = 0xFFFFFFFF then x (i * o.ext 0 + j) = 0 else loads (o.ga.toNat + rows.1 * o.sstr 1) j (x (i * o.ext 0 + j))) ∧
        ∀ w, ws[j]? = some w → puts (o.gb.toNat + rows.2 * o.dstr 1) j (i * o.ext 0 + j) w
  | 2, 0 => ∃ bs : List Byte, bs.length = o.slLen * elemBytes o.slFmt ∧
      engSees s c o R none (addr64 (o.ga.toNat + (i : Int) * (o.reg 1).toInt)) bs ∧
      let es := (List.range o.slLen).map fun k => (leNat ((bs.drop (k * elemBytes o.slFmt)).take (elemBytes o.slFmt)), k)
      let ranked := entrySort o.slF (es.filter fun e => !(o.slF.decode e.1).isNan)
      recordPut s c o (addr64 (o.gb.toNat + (i : Int) * (o.reg 2).toInt)) ranked (sum32 o.slF ((ranked.drop o.slK).map Prod.fst)) ws
  | 2, _ => ∃ vs is outs : Nat → List Byte,
      (∀ l, l < o.slRows → (vs l).length = o.slK * elemBytes o.slFmt ∧ (is l).length = o.slK * 4 ∧ (outs l).length = 4 ∧
        let at_ := addr64 (o.ga.toNat + (l : Int) * (o.reg 1).toInt)
        engSees s c o R none at_ (vs l) ∧ engSees s c o R none (at_ + 256) (is l) ∧ engSees s c o R none (at_ + 516) (outs l)) ∧
      let list (l : Nat) : List (Nat × Nat) := (List.range o.slK).map fun k =>
        (leNat (((vs l).drop (k * elemBytes o.slFmt)).take (elemBytes o.slFmt)), leNat (((is l).drop (k * 4)).take 4))
      let ranked := entrySort o.slF (entryDedup o.slF ((List.range o.slRows).flatMap list))
      let sums := ((List.range o.slRows).map fun l => fmtS.decode (leNat (outs l))) ++ (ranked.drop o.slK).map fun e => o.slF.decode e.1
      recordPut s c o o.gb.toNat ranked (fmtS.rne (sumVal sums).1) ws
  | 0, 0x10 => ∃ w v sw sv : List Byte,
      let p := o.mvPair
      let kc := pairKc p
      let row := i % o.mvN
      let vec := i / o.mvN
      w.length = runBytes (pairCodes p).1 o.mvK ∧ v.length = runBytes (pairCodes p).2 o.mvK ∧
      engSees s c o R none (o.ga + BitVec.ofNat 64 (row * ((o.reg 3).toNat % 2 ^ 32))).toNat w ∧
      engSees s c o R (some (o.src.getD 0)) (vec * o.mvRow) v ∧
      (if (pairScaled p).1 then sw.length = o.mvBlocks ∧ engSees s c o R none (o.gb + BitVec.ofNat 64 (row * o.mvBlocks)).toNat sw else sw = []) ∧
      (if (pairScaled p).2 then sv.length = o.mvBlocks ∧
        engSees s c o R (some (o.src.getD 0)) (o.mvV * o.mvRow + vec * o.mvBlocks) sv else sv = []) ∧
      let y := (List.range ((o.mvK + kc - 1) / kc)).foldl (fun acc t =>
        let ks := (List.range (min kc (o.mvK - t * kc))).map fun q => t * kc + q
        dotStep p o.efmt acc (ks.map (elemAt (pairCodes p).1 w)) (ks.map (elemAt (pairCodes p).2 v))
          (fun q => (sw.getD ((t * kc + q) / 32) 0).toNat) fun q => (sv.getD ((t * kc + q) / 32) 0).toNat) 0
      ws = [(s.tileAddr c (o.fill.getD 0) (4 * i), natLe y 4)]
  | 0, 0x13 => ws = [(s.tileAddr c (o.fill.getD 0) 0, mstBytes o (s.core c).acc)]
  | _, _ => False

/-- An operation that has begun and done nothing, alone on its core, its word meant for a register, its tiles apart; nothing of memory that it
meets is uncorrectable. -/
def begunAt (s : State) (c : Nat) (o : EngOp) : Prop :=
  (s.core c).ops = [o] ∧ o.st = .begun ∧ o.step = 0 ∧ o.part = [] ∧ o.zero = true ∧ o.cancel = none ∧ o.joins = [] ∧ o.fwd = none ∧ o.dest ≠ 0 ∧
    o.scope ≠ 5 ∧ (s.core c).ringWd = [] ∧ s.canonical = true ∧ s.upToDate c = true ∧ s.badSectors = [] ∧ s.badWords = [] ∧
    (∀ t t', o.fill = some t → o.src = some t' → t % 64 ≠ t' % 64) ∧ ∀ r, o.pop = some r → o.src = some ((s.core c).headTile r)

end Sys2Proof.Claims

/-- R331, R338, R339, R341 to R349: an operation that has begun performs its units in order and completes OK. COPY, FILLT, GATHER, SCATTER, TOPK,
MERGEL, MMV and MST leave in memory, or in the tile that they fill, what their units write, the last write of a byte standing, and every other
byte as it was; MLD and MCLR leave their accumulators loaded or zero and the others as they were.

R353, R363, R367, R374: a collective or a pond command that has its result performs the writes of that result, with the tile of a TJGET, drops the
holds that it took, and completes with the result's STATUS and COUNT.

That every write to memory is made in the step that completes the operation, and the last write of a byte stands where writes overlap, is the
model's choice for all but SCATTER, which R344 orders (logs 29, DESIGN CHOICE, and 54, DEDUCED: R131 and R341 give no order); that a peg is known by
the low eight bits of its handle's tag is log 53 (DEDUCED). -/
def Obligations.EngineUnitsLeaveTheirResults : Prop :=
  (∀ (s : State) (c : Nat) (o : EngOp) (R : Nat → Bool) (x : Nat → Nat) (W : Nat → List (Nat × List Byte)), begunAt s c o → o.res = none →
    (∀ i, i < o.units → unitDoes s c o R x i (W i)) →
    let ws := (List.range o.units).flatMap W
    (∀ w ∈ ws, inMemory s w.1 w.2.length) → (∀ a, R a = true → lastPut ws a = none) → (o.eng = 1 ∨ o.eng = 2 ∨ o.cmd = 0x10 ∨ o.cmd = 0x13) →
    o.eng ≤ 2 → (o.fill ≠ none → o.eng = 0 ∨ o.eng = 1 ∧ o.dkind ≠ 0) → ∃ u, exec (.engineOpComplete c o.tag) s = .next u ∧ afterPuts s u ws ∧
      opEnds s u c o 0 o.units (ws.all fun w => w.2.all (· == 0))) ∧
  (∀ (s : State) (c : Nat) (o : EngOp), begunAt s c o → o.res = none → o.eng = 0 → Memory.wf (s.core c).acc = true →
    (∀ (t : Nat) (bs : List Byte), o.cmd = 0x12 → o.src = some t → bs.length = 1024 → s.homeRead (s.tileAddr c t 0) 1024 = some bs →
      ∃ u, exec (.engineOpComplete c o.tag) s = .next u ∧ sameBytes s u ∧ opEnds s u c o 0 1 true ∧
        ∀ a, mget (u.core c).acc a = if a / 1024 = o.ga.toNat then bs.getD (a % 1024) 0 else mget (s.core c).acc a) ∧
    (o.cmd = 0x11 → ∃ u, exec (.engineOpComplete c o.tag) s = .next u ∧ sameBytes s u ∧
      opEnds s u c o 0 ((List.range 8).countP fun j => o.ga.getLsbD j) true ∧
      ∀ a, a < 8192 → mget (u.core c).acc a = if o.ga.getLsbD (a / 1024) then 0 else mget (s.core c).acc a)) ∧
  ∀ (s : State) (c : Nat) (o : EngOp) (r : OpResult) (W : Nat → List (Nat × List Byte)), begunAt s c o → o.res = some r →
    o.eng = 3 ∨ o.eng = 4 → (∀ k ∈ r.holds, k < 2 ^ 30) → (∀ i w, r.writes[i]? = some w → cutInto s c o w.1 w.2 (W i)) →
    let ws := (List.range r.writes.length).flatMap W ++ (o.fill.map fun t => (s.tileAddr c t 0, r.tile)).toList
    (∀ w ∈ ws, inMemory s w.1 w.2.length) →
    ∃ u, exec (.engineOpComplete c o.tag) s = .next u ∧ afterPuts s u ws ∧ opEnds s u c o r.status r.count (r.tile.all (· == 0)) ∧
      ∀ d t p, d < 4 → t < 16 → s.pond d t = some p → ∃ q, u.pond d t = some q ∧ ∀ i, i < 2 ^ 24 →
        let n := if o.eng = 4 then r.holds.count (d * 2 ^ 28 + t * 2 ^ 24 + i) else 0
        q.slot i = { p.slot i with
          holds := (p.slot i).holds - n
          st := if 0 < n ∧ (p.slot i).holds ≤ n ∧ (p.slot i).st = .held then .free else (p.slot i).st }

namespace Sys2Proof.Claims

/-- How many slots of a store are in a state, and the sum of the tree values below a slot (R356, R360, R362). -/
def slotsIn (p : Pond) (st : PondSt) : Nat := (List.range (2 ^ p.lcap)).countP fun i => (p.slot i).st == st
def sumBelow (p : Pond) (i : Nat) : Nat := ((List.range i).map fun k => if (p.slot k).st = .closed then (p.slot k).p else 0).sum

/-- Whether a handle names a slot's present trajectory (R359). -/
def liveSlot (p : Pond) (h : Word) : Bool :=
  let x := p.slot (h.toNat / 2 ^ 8 % 2 ^ 24)
  decide (h.toNat / 2 ^ 8 % 2 ^ 24 < 2 ^ p.lcap) && x.gen.toNat == h.toNat % 2 ^ 8 && (x.st == .open_ || x.st == .closed)

/-- A pond command at the head of its engine, all of whose reads of the store's region succeed, and the store it goes to as it stands. -/
def pondAt (s : State) (c : Nat) (o : EngOp) (d t : Nat) : Prop :=
  (s.core c).ops = [o] ∧ o.eng = 4 ∧ o.st = .queued ∧ o.cancel = none ∧ d < 4 ∧ t < 16 ∧ s.badSectors = [] ∧ s.badWords = [] ∧ s.failed = 0 ∧
    s.devid.toNat < 1536 ∧ s.canonical = true

/-- A store that a command of the context may use, its slots in order and within its capacity. -/
def pondHas (s : State) (o : EngOp) (d t : Nat) (p : Pond) : Prop :=
  s.pond d t = some p ∧ p.ctx = o.ctx ∧ p.dying = none ∧ p.lcap ≤ 24 ∧ Tab.sorted p.slots = true ∧ ∀ q ∈ p.slots, q.1 < 2 ^ p.lcap

/-- A command has taken its turn: it has its result, and its store is `p` (the record of what was there before the store apart). -/
def turnTaken (u : State) (c : Nat) (o : EngOp) (d t : Nat) (r : OpResult) (p : Pond) : Prop :=
  (u.core c).ops = [{ o with st := .begun, res := some r }] ∧ ∃ q, u.pond d t = some q ∧ { q with stale := p.stale } = p

/-- A result without writes (R367). -/
def plainly (status count : Nat) : OpResult := ⟨status, count, [], 1, [], []⟩

/-- The turns of the commands that read nothing before them: TJINS, TJCLS, TJPRI, TJEVI, TJVER, TJSTAT (R368, R370, R375 to R378). -/
def turnGives (o : EngOp) (d t : Nat) (p : Pond) (r : OpResult) (p' : Pond) : Prop :=
  let i := o.ga.toNat / 2 ^ 8 % 2 ^ 24
  let x := p.slot i
  let as (status count : Nat) (q : Pond) : Prop := r = plainly status count ∧ p' = q
  let alive (q : Prop) : Prop := if liveSlot p o.ga then q else as 5 0 { p with gones := p.gones + 1 }
  match o.cmd with
  | 0 => ((∀ j, j < 2 ^ p.lcap → (p.slot j).st ≠ .free) ∧ as 8 0 p) ∨
      ∃ j, j < 2 ^ p.lcap ∧ (p.slot j).st = .free ∧ (∀ k, k < j → (p.slot k).st ≠ .free) ∧
        as 0 (d * 2 ^ 40 + t * 2 ^ 36 + j * 2 ^ 8 + (p.slot j).gen.toNat) ({ p with inserts := p.inserts + 1 }.setSlot j
          { p.slot j with st := .open_, p := 0, steps := 0, minver := 0xFFFFFFFF })
  | 2 => alive (if x.st ≠ .open_ ∨ x.steps = 0 then as 9 0 p
      else as 0 1 (p.setSlot i { x with st := .closed, p := o.gb.toNat % 2 ^ 32 }))
  | 5 => alive (if x.st = .open_ then as 9 0 p else as 0 1 (p.setSlot i { x with p := o.gb.toNat % 2 ^ 32 }))
  | 6 => alive (as 0 1 (p.setSlot i { x with st := if x.holds = 0 then .free else .held, gen := x.gen + 1, p := 0 }))
  | 7 => as 0 p.version { p with version := o.ga.toNat % 2 ^ 32, lag := o.gb.toNat % 2 ^ 32 }
  | 8 => p' = p ∧ r = ⟨0, 1, [(o.gb.toNat, natLe (sumBelow p (2 ^ p.lcap)) 8 ++ natLe (slotsIn p .closed) 4 ++ natLe (slotsIn p .open_) 4
      ++ natLe (slotsIn p .held) 4 ++ natLe (slotsIn p .free) 4 ++ natLe p.version 4 ++ natLe p.lag 4 ++ natLe p.smpseq.toNat 8
      ++ natLe p.inserts.toNat 8 ++ natLe p.draws.toNat 8 ++ natLe p.gones.toNat 8)], 1, [], []⟩
  | _ => False

/-- Step `n` of a trajectory as TJAPP writes it from its source (R361, R369). -/
def stepPut (z : Nat) (bs : List Byte) (n : Nat) : List Byte := (List.range z).map fun k =>
  if 4 ≤ k ∧ k < 8 then (natLe n 4).getD (k - 4) 0 else if k = 24 then bs.getD 24 0 &&& 3 else if 25 ≤ k ∧ k < 64 then 0 else bs.getD k 0

/-- Where step `n` of a slot stands (R357). -/
def stepPlace (p : Pond) (i n : Nat) : Nat :=
  p.base + (2 ^ p.lcap * 16 + 65535) / 65536 * 65536 + (i * p.maxsteps + n) * (64 + p.obs)

end Sys2Proof.Claims

/-- R356, R359 to R378: a pond command in its turn. With no store of its context it completes NOSTORE. TJINS takes the lowest FREE slot into OPEN,
TJAPP writes its steps, TJCLS closes, TJSMP draws by the sum tree and forms its records, TJGET takes its holds and gathers its windows, TJPRI,
TJEVI and TJVER change what they name, TJSTAT takes its snapshot; a stale handle completes GONE and counts in GONES, and a wrong state, a full
store, an empty one or an overlong append completes with its STATUS and no effect. A slot named whose leaf lies in a failed stack ends the command
with ERROR (that a command reads the leaves it names is the model's choice, log 68).

That the turn is taken in the step that begins the command is log 50 (DESIGN CHOICE), that TJINS, TJCLS, TJPRI and TJEVI write no byte of the leaf
area is log 30 (DESIGN CHOICE), and that a peg is known by the low eight bits of its handle's tag is log 53 (DEDUCED). -/
def Obligations.PondCommandsTakeTheirTurns : Prop :=
  (∀ (s : State) (c : Nat) (o : EngOp) (d t : Nat), pondAt s c o d t → o.store = (d, t) → o.cmd ∈ [0, 2, 5, 6, 7, 8] →
    (∀ p r p', pondHas s o d t p → turnGives o d t p r p' →
      ∃ u, exec (.engineOpBegin c 4) s = .next u ∧ sameBytes s u ∧ turnTaken u c o d t r p') ∧
    ((∀ p, s.pond d t = some p → p.ctx ≠ o.ctx ∨ p.dying ≠ none) → ∃ u, exec (.engineOpBegin c 4) s = .next u ∧ sameBytes s u ∧
      (u.core c).ops = [{ o with st := .begun, res := some (plainly 0xB 0) }] ∧ u.dies = s.dies)) ∧
  (∀ (s : State) (c : Nat) (o : EngOp) (d t : Nat) (p : Pond) (rec : Nat → List Byte), pondAt s c o d t → o.cmd = 1 → o.store = (d, t) →
    pondHas s o d t p →
    (∀ n, n < o.pNapp → (rec n).length = max 64 o.z ∧ engSees s c o (fun _ => true) none (o.gb.toNat + max 64 o.z * n) (rec n)) →
    let i := o.ga.toNat / 2 ^ 8 % 2 ^ 24
    let x := p.slot i
    let ws := (List.range o.pNapp).map fun n => (stepPlace p i (x.steps + n), stepPut o.z (rec n) (x.steps + n))
    let ends (status : Nat) (q : Pond) : Prop := ∃ u, exec (.engineOpBegin c 4) s = .next u ∧ sameBytes s u ∧
      turnTaken u c o d t (plainly status 0) q
    if o.z ≠ 64 + p.obs then ends 0xB p
    else if liveSlot p o.ga = false then ends 5 { p with gones := p.gones + 1 }
    else if x.st ≠ .open_ then ends 9 p
    else if p.maxsteps < x.steps + o.pNapp then ends 0xA p
    else (∀ w ∈ ws, inMemory s w.1 w.2.length) → ∃ u, exec (.engineOpBegin c 4) s = .next u ∧ afterPuts s u ws ∧
      turnTaken u c o d t (plainly 0 o.pNapp) (p.setSlot i { x with
        steps := x.steps + o.pNapp
        minver := (List.range o.pNapp).foldl (fun m n => min m (leNat ((rec n).take 4))) x.minver })) ∧
  (∀ (s : State) (c : Nat) (o : EngOp) (d t : Nat) (p : Pond) (draw pick : Nat → Nat), pondAt s c o d t → o.cmd = 3 → o.store = (d, t) →
    pondHas s o d t p →
    (∀ j, j < o.pK → if o.pSup then engSees s c o (fun _ => true) none (o.gb.toNat + 8 * j) (natLe (draw j) 8) ∧ draw j < 2 ^ 64
      else draw j = (mix64x3 (o.reg 2) p.smpseq (BitVec.ofNat 64 j)).toNat) →
    let total := sumBelow p (2 ^ p.lcap)
    (total = 0 → ∃ u, exec (.engineOpBegin c 4) s = .next u ∧ sameBytes s u ∧ turnTaken u c o d t (plainly 7 0) p) ∧
    (0 < total → (∀ j, j < o.pK → let lo := j * total / o.pK
        let hi := (j + 1) * total / o.pK
        let u := if lo < hi then lo + draw j % (hi - lo) else lo
        sumBelow p (pick j) ≤ u ∧ u < sumBelow p (pick j + 1)) →
      let ws := weights (slotsIn p .closed) total o.pBeta ((List.range o.pK).map fun j => (p.slot (pick j)).p)
      let record (j : Nat) : List Byte :=
        let x := p.slot (pick j)
        let stale := p.lag < (2 ^ 32 + p.version - x.minver) % 2 ^ 32
        let dup := ∃ k, k < j ∧ pick k = pick j
        natLe (d * 2 ^ 40 + t * 2 ^ 36 + pick j * 2 ^ 8 + x.gen.toNat) 8 ++ natLe x.steps 4 ++ natLe (ws.getD j 0) 4 ++ natLe x.p 4
          ++ natLe x.minver 4 ++ [BitVec.ofNat 8 ((if stale then 1 else 0) + if dup then 2 else 0)] ++ List.replicate 7 0
      ∃ u, exec (.engineOpBegin c 4) s = .next u ∧ sameBytes s u ∧ turnTaken u c o d t
        ⟨0, o.pK, (List.range o.pK).map fun j => (o.ga.toNat + 32 * j, record j), 1, [], []⟩
        { p with smpseq := p.smpseq + 1, draws := p.draws + BitVec.ofNat 64 o.pK })) ∧
  (∀ (s : State) (c : Nat) (o : EngOp) (d t : Nat) (p : Pond) (h : Nat → Word) (start : Nat → Nat) (img : Nat → Nat → List Byte),
    pondAt s c o d t → o.cmd = 4 → pondHas s o d t p → 0 < o.gb.toNat →
    (∀ r, r < o.gb.toNat → (h r).toNat < 2 ^ 42 ∧ (h r).toNat / 2 ^ 36 = d * 16 + t ∧ (h r).toNat / 2 ^ 32 % 16 = 0 ∧ start r < 2 ^ 32 ∧
      engSees s c o (fun _ => true) none (o.ga.toNat + 32 * r) (natLe (h r).toNat 8) ∧
      engSees s c o (fun _ => true) none (o.ga.toNat + 32 * r + 28) (natLe (start r) 4)) →
    let k := s.core c
    let tile := match o.claim with | some q => ringTile (k.ring q.1) q.2 | none => o.pTile
    let i (r : Nat) : Nat := (h r).toNat / 2 ^ 8 % 2 ^ 24
    tileState (k.tile tile) = 0 → k.owned tile = false → 0 < tileSize (k.tile tile) → o.gb.toNat * o.pWin * (64 + p.obs) ≤ tileSize (k.tile tile) →
    (∀ r, r < o.gb.toNat → (∀ q, q < r → liveSlot p (h q) = true) → liveSlot p (h r) = false →
      ∃ u, exec (.engineOpBegin c 4) s = .next u ∧ sameBytes s u ∧ turnTaken u c o d t (plainly 5 r) { p with gones := p.gones + 1 }) ∧
    ((∀ r, r < o.gb.toNat → liveSlot p (h r) = true ∧ ∀ w, w < o.pWin → if (p.slot (i r)).steps ≤ start r + w
          then img r w = List.replicate (64 + p.obs) 0
          else inMemory s (stepPlace p (i r) (start r + w)) (64 + p.obs) ∧
            s.homeRead (stepPlace p (i r) (start r + w)) (64 + p.obs) = some (img r w)) →
      ∃ u q, exec (.engineOpBegin c 4) s = .next u ∧ sameBytes s u ∧ (u.core c).ops = [{ o with
          st := .begun, fill := some tile, zero := true
          res := some ⟨0, o.gb.toNat, [], 1, (List.range o.gb.toNat).map fun r => d * 2 ^ 28 + t * 2 ^ 24 + i r,
            (List.range o.gb.toNat).flatMap fun r => (List.range o.pWin).flatMap (img r)⟩ }] ∧
        tileState ((u.core c).tile tile) = 1 ∧ (u.core c).owned tile = true ∧ u.pond d t = some q ∧ { q with slots := p.slots } = p ∧
        ∀ j, q.slot j = { p.slot j with holds := (p.slot j).holds + (List.range o.gb.toNat).countP fun r => i r == j })) ∧
  ∀ (s : State) (c : Nat) (o : EngOp) (d t : Nat) (p : Pond), (s.core c).ops = [o] → o.eng = 4 → o.st = .queued → o.cancel = none →
    o.fill = none → o.claim = none → o.src = none → o.joins = [] → o.fwd = none → o.dest ≠ 0 → o.scope ≠ 5 → o.step = 0 → (s.core c).ringWd = [] →
    o.cmd ∈ [2, 5, 6] → o.store = (d, t) → s.pond d t = some p → p.ctx = o.ctx → p.dying = none → s.failed ≠ 0 →
    let i := o.ga.toNat / 2 ^ 8 % 2 ^ 24
    i < 2 ^ p.lcap → s.refused ((p.base + 16 * i) / 64 * 64) true = true →
    ∃ u, exec (.engineOpBegin c 4) s = .next u ∧ sameBytes s u ∧ opEnds s u c o 1 0 true ∧ u.pond d t = some p

/-! Steps of the device -/

namespace Sys2Proof.Claims

/-- A word that a walk, or the device itself, reads at its home at once: nothing there is due, and the read is answered. -/
def plainWord (s : State) (pa : Nat) (w : Word) : Prop :=
  s.refused pa = false ∧ s.gone pa = false ∧ (regionOf (localOf pa)).isControl = false ∧ namesRegister pa = false ∧
    s.current (s.placeOf pa false) = true ∧ s.current (s.placeOf pa true) = true ∧ s.homeRead pa 8 = some (natLe w.toNat 8)

/-- How a walk ends at its entry of a table at level `n`, `down` saying how it ends below (R20 to R23). -/
def entryEnds (s : State) (va : Nat) (r : WalkEnd) (n table : Nat) (down : Nat → Prop) : Prop :=
  let pa := table + 8 * (if n = 0 then va / 2 ^ 16 % 32 else va / 2 ^ (12 + 9 * n) % 512)
  ((s.refused pa || s.gone pa) = true ∧ r = .fault 3 n) ∨ ∃ x, plainWord s pa x ∧ match entryOf x n with
    | .invalid => r = .fault 0 n
    | .malformed => r = .fault 2 n
    | .leaf => r = .leaf x pa n
    | .pointer next => down next

/-- How a walk from a table at a level ends. -/
def walkEnds (s : State) (va : Nat) (r : WalkEnd) : Nat → Nat → Prop
  | 0, table => entryEnds s va r 0 table fun _ => False
  | n + 1, table => entryEnds s va r (n + 1) table (walkEnds s va r n)

/-- A strand that trap entry has taken to its handler (R396). -/
def entered (x : Strand) (cause : BitVec 8) (info : Word) : Strand :=
  { x with
    epc := x.pc, cause := zext64 cause, einfo := info, bm := true, pc := x.tvec, st := .ready, hold := none, acq := []
    hpm := vset x.hpm 4 (vget x.hpm 4 + 1) }

/-- A strand that has given back what its instruction had reserved and popped (R89, R168, R396). -/
def freed (s : State) (c l : Nat) : Strand :=
  { s.strand c l with going := none, popped := if ((s.core c).pipeOf l).isSome then [] else (s.strand c l).popped }

/-- No far store is on its way, no die's remote-data cache holds a line, nothing is due at a core, and no byte of the CXL window is dirty: the
release before a record finds nothing to do. -/
def quietMemory (s : State) : Prop :=
  (∀ p ∈ s.posted, p.isStore = false) ∧ (∀ d, (s.die d).rdc = []) ∧ (∀ c, s.upToDate c = true) ∧ s.dirtyLines s.isCxlLine = []

/-- The host-side address of a completion record (R410). -/
def recordAt (s : State) (q i : Nat) : Word := (s.queue q).comp + BitVec.ofNat 64 (32 * (i % 2 ^ ((s.queue q).cfg.toNat % 32)))

/-- The completion record of packet `i` of a queue stands in host memory (R410, R411). -/
def noted (s u : State) (q i status code lid gen nabort : Nat) (rest : List Word) : Prop :=
  (recordAt s q i).getLsbD 63 = true → Memory.wf s.hostMem = true → mread u.hostMem ((recordAt s q i).toNat % 2 ^ 57) 32 =
    natLe (status + code * 2 ^ 8 + lid * 2 ^ 16 + gen * 2 ^ 32 + nabort % 2 ^ 24 * 2 ^ 40) 8
      ++ (List.range 3).flatMap fun k => natLe (rest.getD k 0).toNat 8

/-- A packet is taken and complete: its record stands, and its queue goes on (R410). -/
def answered (s u : State) (q i status code lid gen : Nat) : Prop :=
  noted s u q i status code lid gen 0 [] ∧ (u.queue q).busy = none ∧ (u.queue q).head = ((s.queue q).head + 1) % 2 ^ 17

/-- An aligned doubleword of this device's DRAM, not refused, whose home has nothing left to apply. -/
def openDram (s : State) (a : Nat) : Prop :=
  devOf a = s.devid.toNat ∧ a % 8 = 0 ∧ a < 2 ^ 57 ∧ s.refused a = false ∧ s.gone a = false ∧
    (∃ d o, regionOf (localOf a) = .dram d o) ∧ s.current (s.placeOf a false) = true ∧ s.current (s.placeOf a true) = true

end Sys2Proof.Claims

/-- R20 to R32: a walk that reaches a leaf with the rights of its access sets A, and D for a write, in the leaf's entry, and in memory nothing else;
it caches the leaf and wakes its strand. It starts at the root of the context's entry whatever V and the must-be-zero bits say (log 40, DEDUCED). A
walk that does not posts a record with its reason and level, on which the strand parks; an entry in withdrawn or never-backed CXL capacity is a
TABLEERR (log 81, the model's choice). A walk that comes to another device's entry while routes are recomputed waits (R415). A fault that waited is
posted when an entry is free, and FQTAIL moves only within what was posted, bits [63:11] of the value ignored (log 61, the model's choice). -/
def Obligations.WalksFillOrFault : Prop :=
  (∀ (s : State) (d : Nat) (q : WalkReq), (s.die d).walks = [q] → q.op = none → q.slot < 16 →
    (s.strand q.core q.slot).st = .parked (.walk q.va q.kind q.ras q.upd) → s.walkHeld q.ctx q.va = false →
    let x := s.strand q.core q.slot
    (∀ w pa level, walkEnds s q.va (.leaf w pa level) 4 (s.rootOf q.ctx) → leafAllows w q.kind q.user = true → pa % 8 = 0 →
      devOf pa = s.devid.toNat → (∃ b o, regionOf (localOf pa) = .dram b o) →
      let w' := leafUsed w q.kind
      let size := if level = 0 then 2 ^ 16 else if level = 1 then 2 ^ 21 else 2 ^ 30
      ∃ u, exec (.tableWalk d) s = .next u ∧ (u.die d).walks = [] ∧ u.strand q.core q.slot = { x with st := .ready } ∧
        u.homeRead pa 8 = some (natLe w'.toNat 8) ∧ (∀ a, a < pa ∨ pa + 8 ≤ a → u.homeByte a = s.homeByte a) ∧
        u.tlbFind q.core q.ctx q.va = some ⟨q.ctx, q.va / size * size, level, w'⟩) ∧
    ∀ reason level, (walkEnds s q.va (.fault reason level) 4 (s.rootOf q.ctx) ∨
        (reason = 1 ∧ ∃ w pa, walkEnds s q.va (.leaf w pa level) 4 (s.rootOf q.ctx) ∧ leafAllows w q.kind q.user = false)) →
      let y := s.die (dieOf q.core)
      y.fq.all (fun p => !p.2.open_) = true → y.fqWait = [] → (y.fqHead - y.fqTail).toNat < 1024 →
      ∃ u r, exec (.tableWalk d) s = .next u ∧ sameBytes s u ∧
        u.strand q.core q.slot = { x with st := .parked (.fault (dieOf q.core) (y.fqHead.toNat % 1024) q.va q.kind q.ras) } ∧
        tget (u.die (dieOf q.core)).fq (y.fqHead.toNat % 1024) = some r ∧ (u.die (dieOf q.core)).fqHead = y.fqHead + 1 ∧
        r.vpage = q.va / 2 ^ 16 ∧ r.ctx = s.ctxOf x.launch ∧ r.kind = (if q.upd then Kind.store else q.kind).code ∧ r.reason = reason ∧
          r.level = level ∧ r.waiters = 1 ∧
        r.seq = y.fqSeq ∧ r.open_ = true) ∧
  (∀ (s : State) (d : Nat) (q : WalkReq), (s.die d).walks = [q] → s.walkHeld q.ctx q.va = true → exec (.tableWalk d) s = .next s) ∧
  (∀ (s : State) (d : Nat) (w : FqWait) (ws : List FqWait),
    let y := s.die d
    let i := y.fqHead.toNat % 1024
    y.fqWait = w :: ws → (y.fqHead - y.fqTail).toNat < 1024 → (∀ r, tget y.fq i = some r → r.open_ = false) →
    ∃ u, exec (.faultPostDeferred d) s = .next u ∧ sameBytes s u ∧
      u.die d = { y with
        fq := tset y.fq i { w.r with seq := y.fqSeq, open_ := true }, fqHead := y.fqHead + 1, fqSeq := y.fqSeq + 1, fqWait := ws } ∧
      ∀ c l va k r n ras, (s.strand c l).st = .parked (.faultWait d va k r n ras) → va / 2 ^ 16 = w.r.vpage →
        s.ctxOf (s.strand c l).launch = w.r.ctx → u.strand c l = { s.strand c l with st := .parked (.fault d i va k ras) }) ∧
  ∀ (s : State) (d : Nat) (v : Word),
    let t := BitVec.ofNat 11 v.toNat
    exec (.fqTail d v) s = .next (if (t - (s.die d).fqTail).toNat ≤ ((s.die d).fqHead - (s.die d).fqTail).toNat
      then s.modDie d (fun x => { x with fqTail := t }) else s)

/-- R34, R35: resolving an outstanding record closes it and wakes every strand that waits on it. REPLAY drops the TLB entries of its page and
makes them READY at the faulting instruction; FAIL, DENY and GONE make them take XLATE_FATAL, PROT and EXTENT_GONE, or RAS_SPILL_FAULT for a spill
or refill of the return-address store; a waiting engine operation resumes, or is to end with an error. Naming a closed record does nothing. -/
def Obligations.FaultsAreResolved : Prop :=
  ∀ (s : State) (d : Nat) (e : BitVec 10) (r : FqRec), tget (s.die d).fq e.toNat = some r →
    let closed (u : State) (ok : Bool) : Prop := sameBytes s u ∧
      tget (u.die d).fq e.toNat = some { r with open_ := false, waiters := 0 } ∧
      ∀ c, (u.core c).ops = (s.core c).ops.map fun o => if o.st = .fault d e.toNat then { o with st := .ready ok } else o
    let stale (t : TlbEnt) : Prop := t.covers r.ctx (r.vpage * 2 ^ 16) = true
    (r.open_ = false → ∀ i ∈ [Instr.fqReplayReplay d e, .fqReplayFail d e, .fqReplayDeny d e, .fqReplayGone d e], exec i s = .next s) ∧
    (r.open_ = true →
      (∃ u, exec (.fqReplayReplay d e) s = .next u ∧ closed u true ∧
        ((∀ t ∈ (u.die d).tlb, ¬ stale t) ∧ (∀ c, dieOf c = d → ∀ t ∈ (u.core c).tlb, ¬ stale t) ∧
          (∀ y, y % 4 ≠ d % 4 → (u.die y).tlb = (s.die y).tlb) ∧ ∀ c, dieOf c ≠ d → (u.core c).tlb = (s.core c).tlb) ∧
        ∀ c l va k ras, l < 16 → (s.strand c l).st = .parked (.fault d e.toNat va k ras) → u.strand c l = { s.strand c l with st := .ready }) ∧
      ((∀ c l va k ras, (s.strand c l).st = .parked (.fault d e.toNat va k ras) → (s.strand c l).tvec ≠ 0 ∧
          (k = .fetch → (s.strand c l).bm = true → (s.strand c l).pc ≠ (s.strand c l).tvec)) →
        ∀ i cause, (i, cause) ∈ [(Instr.fqReplayFail d e, 5#8), (.fqReplayDeny d e, 6), (.fqReplayGone d e, 0x11)] →
          ∃ u, exec i s = .next u ∧ closed u false ∧ ∀ c l va k ras, l < 16 → (s.strand c l).st = .parked (.fault d e.toNat va k ras) →
            u.strand c l = entered (freed s c l) (if ras then 0x0B else cause) (BitVec.ofNat 64 va)))

/-- R51 to R53, R56, R57, R60 to R63, R65: an access on its way to a controller is performed with the LC that it carries: it updates the row-buffer
counter of the remembered row and remembers its own, lets a switch of the bus code take effect, is counted at the costs of the bytes that it moves,
leaves the near directories as they are (a write has set DIRTY when memory was written, log 34), and with LC 10 uses the candidate table (of equal
times the first entry goes, log 63); promotion, refresh, the end of a full window (one under PIN counts for no switch, and to the code that is
active or armed none is scheduled, log 65), CHCODE and the darning map act on their channel or stack; a scrub reads the far row under a near copy
too and counts each error (and leaves the remembered row, log 66, by which CHCE counts nowhere else). None of them changes a byte of memory. -/
def Obligations.ChannelsKeepTheirTables : Prop :=
  (∀ (s : State) (pa : Nat) (wr : Bool) (lc : BitVec 2) (r : RowAt) (bs : List Byte), devOf pa = s.devid.toNat → rowOf pa = some r →
    let c := s.chan r.ch
    let b := c.bank r.bank
    let q : DramReq := ⟨pa / 64 * 64, lc, wr, bs⟩
    c.beats < 2 ^ 20 → s.dram.find? (fun p => p.pa == q.pa && p.lc == lc && p.wr == wr) = some q →
    ∃ u, exec (.dramAccess pa wr lc) s = .next u ∧ sameBytes s u ∧
      let c' := u.chan r.ch
      u.dram = s.dram.erase q ∧ c'.near = c.near ∧
      c'.shadow = (List.range 4).map (fun k => c.shadow.getD k 0 + burstCost k ((List.range 4).map fun i => leNat ((bs.drop (16 * i)).take 16))) ∧
      c'.beats = c.beats + 4 ∧ c'.cur = c.armed.getD c.cur ∧ c'.armed = none ∧ (c'.bank r.bank).mem = some (r.m, decide (2 ≤ c'.counter r.bank r.m)) ∧
      (∀ m o, b.mem = some (m, o) → c'.counter r.bank m = if m = r.m then min 3 (c.counter r.bank m + 1) else c.counter r.bank m - 1) ∧
      (b.mem = none → c'.pred = c.pred) ∧
      let b' := c'.bank r.bank
      ((((c.sub r).find r.frow).isSome = true ∨ lc ≠ 2 ∨ b.mem = some (r.m, true)) → b'.cands = b.cands ∧ b'.pend = b.pend) ∧
      ((c.sub r).find r.frow = none → lc = 2 → b.mem ≠ some (r.m, true) →
        let now := s.atime (r.ch / 64)
        let open_ : Bool := decide (2 ≤ c.counter r.bank r.m)
        (∀ t, b.cands.find? (fun p => p.1 == r.m) = some (r.m, t) →
          if open_ then b'.cands = b.cands.filter (fun p => p.1 != r.m) ∧ b'.pend = b.pend
          else if now ≤ t + 2000 then b'.cands = b.cands.filter (fun p => p.1 != r.m) ∧ b'.pend = if r.m ∈ b.pend then b.pend else b.pend ++ [r.m]
          else b'.cands = b.cands.map (fun p => if p.1 = r.m then (r.m, now) else p) ∧ b'.pend = b.pend) ∧
        (b.cands.find? (fun p => p.1 == r.m) = none → b'.pend = b.pend ∧
          if open_ then b'.cands = b.cands
          else if b.cands.length < 4 then b'.cands = b.cands ++ [(r.m, now)]
          else ∃ o ∈ b.cands, (∀ p ∈ b.cands, o.2 ≤ p.2) ∧ b'.cands = b.cands.erase o ++ [(r.m, now)]))) ∧
  (∀ (s : State) (ch bank m : Nat) (ms : List Nat), ((s.chan ch).bank bank).pend = m :: ms →
    let c := s.chan ch
    let r : RowAt := ⟨ch, bank, m / 2 ^ 9 % 2 ^ 7, m % 2 ^ 9, m⟩
    (c.sub r).find r.frow = none → (c.sub r).next < 2 ^ 32 → (∃ k, k < 32 ∧ tget (c.sub r).rows k = none) →
    ∃ u k, exec (.autoPromotion ch bank) s = .next u ∧ sameBytes s u ∧ ((u.chan ch).bank bank).pend = ms ∧
      ((u.chan ch).bank bank).mem = none ∧ (u.chan ch).prom = c.prom + 1 ∧
      ((u.chan ch).sub r).find r.frow = some (k, ⟨r.frow, false, false, false, (c.sub r).next⟩)) ∧
  (∀ (s : State) (ch bank : Nat), ∃ u, exec (.refresh ch bank) s = .next u ∧ sameBytes s u ∧
    let c := s.chan ch
    let c' := u.chan ch
    c'.cur = c.cur ∧ c'.armed = c.pend.or c.armed ∧ c'.pend = none ∧ (c'.bank bank).mem = none ∧ (c'.bank bank).cands = (c.bank bank).cands ∧
      c'.near = c.near ∧
      c'.pred = c.pred) ∧
  (∀ (s : State) (ch b : Nat), 2 ^ 20 ≤ (s.chan ch).beats → b < 4 →
    let c := s.chan ch
    let n (k : Nat) : Nat := c.shadow.getD k 0
    (∀ k, k < 4 → n b ≤ n k) → (∀ k, k < b → n b < n k) →
    let good := !c.pin && decide (n b ≤ n c.cur.toNat - n c.cur.toNat / 16)
    ∃ u, exec (.busCodeWindowEnd ch) s = .next u ∧ sameBytes s u ∧ u.chan ch = { c with
      cnt := c.shadow, shadow := [0, 0, 0, 0], beats := 0, streak := if good then some (BitVec.ofNat 2 b) else none
      pend := if good && c.streak == some (BitVec.ofNat 2 b) && BitVec.ofNat 2 b != c.cur then some (BitVec.ofNat 2 b) else c.pend }) ∧
  (∀ (s : State) (ch row n i : Nat), ch < 256 → row < 0x180000 → i < 32 →
    let a := s.devid.toNat * 2 ^ 46 + ch / 64 * 0x3000000000 + row * 2 ^ 17 + ch % 64 * 2 ^ 11 + 64 * i
    let c := s.chan ch
    let found (bad : List Nat) : Prop := ∃ u, exec (.patrolScrub ch row n bad) s = .next u ∧ sameBytes s u ∧ a ∈ u.badSectors ∧
      u.chan ch = { c with ce := c.ce + BitVec.ofNat 64 n, ue := c.ue + 1, ueAddr := BitVec.ofNat 64 a }
    ((∀ x ∈ s.badSectors ++ s.badFar, x / 2048 ≠ a / 2048) → found [i]) ∧ (s.badSectors = [a] → s.badFar = [] → found [] ∧ found [i]) ∧
    let k := rowAt ch row
    ((c.sub k).find k.frow).isSome = true → s.badSectors = [] → s.badFar = [] →
      ∃ u, exec (.patrolScrub ch row n [i, 32 + i]) s = .next u ∧ sameBytes s u ∧ u.badSectors = [a] ∧ u.badFar = [a] ∧
        u.chan ch = { c with ce := c.ce + BitVec.ofNat 64 n, ue := c.ue + 2, ueAddr := BitVec.ofNat 64 a }) ∧
  ∀ (s : State) (ch : Nat) (code : BitVec 2) (stk ent : Nat),
    exec (.chcodePin ch code) s = .next (s.modChan ch fun c => { c with
      pin := true, pcode := code, pend := if c.armed.getD c.cur = code then none else some code }) ∧
    exec (.chcodeUnpin ch) s = .next (s.modChan ch fun c => { c with pin := false }) ∧
    exec (.darningMapEntry stk ent) s = .next { s with darnFlash := tset s.darnFlash stk ((tget s.darnFlash stk).getD [] ++ [ent]) }

/-- R95, R101, R114, R119, R415: a far store is performed at its destination and its share of the exit count released; one that no path reaches is
discarded, counted as a link error, and its share released too. A probe with nothing left to wait for clears its s.tbm bit, and none does while a
SPAWNQ of the strand waits for room at the core that it was sent to. A write-back merges
a line's dirty bytes at its home; they stay clean, or the line goes; a word with an uncorrectable error is left out and counted. -/
def Obligations.PathsAndCachesEmpty : Prop :=
  (∀ (s : State) (p : Posted) (e : FifoEntry) (ps : List Posted), s.posted = p :: ps → p.op = .store e →
    let x := s.strand p.core p.slot
    x.gen = p.gen → x.launch = p.key → p.slot < 16 →
    (∀ y, e.acc.place = .core y → s.upToDate y = true → s.canonical = true → inMemory s e.acc.pa e.data.length →
      s.refused e.acc.pa = false → s.gone e.acc.pa = false → ∃ u, exec (.farStoreAck 0) s = .next u ∧ u.posted = ps ∧ stored s u e.acc.pa e.data ∧
        u.strand p.core p.slot = { x with exits := x.exits - 1 }) ∧
    ∀ y h, e.acc.place = .device y h → y ∉ s.reach → ∃ u, exec (.farStoreAck 0) s = .next u ∧ u.posted = ps ∧ sameBytes s u ∧
      u.linkErr = s.linkErr + 1 ∧ u.strand p.core p.slot = { x with exits := x.exits - 1 }) ∧
  (∀ (s : State) (c l sc g : Nat), (s.strand c l).st = .parked (.release sc) ∨ (s.strand c l).st = .parked (.relKept sc) →
    (s.strand c l).fifo = [] → g < 64 →
    (2 ≤ sc ∨ (sc = 1 ∧ g = groupOf c)) → s.posted.all (fun p => !p.by c l (s.strand c l).gen) = true →
    (∀ q ∈ s.pushes, q.src ≠ some (c, l, (s.strand c l).gen)) → (g = 63 → (s.strand c l).exits = 0) →
    exec (.probeEcho c l g) s = .next (s.setStrand c l { s.strand c l with tbm := (s.strand c l).tbm &&& ~~~(1#64 <<< g) })) ∧
  (∀ (s : State) (c l : Nat) (q : Push), q ∈ s.pushes → q.src = some (c, l, (s.strand c l).gen) →
    exec (.probeEcho c l (if dieOf q.dst = dieOf c then groupOf q.dst else 63)) s = .next s) ∧
  ∀ (s : State) (d n : Nat) (l : RdcLine), tget (s.die d).rdc n = some l → Tab.sorted (s.die d).rdc = true → Tab.sorted l.dirty = true →
    (∀ p ∈ l.dirty, p.1 < 256) → (∀ o, o < 256 → devOf (n * 256 + o) = s.devid.toNat ∧ (regionOf (localOf (n * 256 + o))).cached = true ∧
      s.refused (n * 256 + o) = false ∧ s.gone (n * 256 + o) = false) →
    s.upToDate l.home = true → ∀ evict, ∃ u, exec (.rdcWriteback d n evict) s = .next u ∧
      let bad (o : Nat) : Bool := s.badWord (some d) (n * 256 + o) && (tget l.dirty o).isSome
      (∀ a, u.homeByte a = if a / 256 = n ∧ bad (a % 256) = false then (tget l.dirty (a % 256)).getD (s.homeByte a) else s.homeByte a) ∧
      (u.die d).srue = (s.die d).srue + (if l.dirty.any (fun p => bad p.1) then 1 else 0) ∧
      (evict = true → tget (u.die d).rdc n = none) ∧
      (evict = false → ∃ l', tget (u.die d).rdc n = some l' ∧ l'.dirty = [] ∧ l'.writers = 0 ∧
        ∀ o, l'.get o = if bad o then tget l.clean o else l.get o)

/-- R159, R163, R399, R410 to R412: a LAUNCH packet that passes its checks is taken up and waits for its cores under its id's next generation; one
that fails them completes with status 2 and its code. A launch that may take its cores runs on them, with a strand at the entry in every masked slot
and its packet taken. Bits [1:0] of the entry and of the trap vector are cleared (log 25, DEDUCED). A launch with nothing left gives its cores up and
its record is written, with the first abort when it was aborted. -/
def Obligations.LaunchesStartAndEnd : Prop :=
  (∀ (s : State) (q i : Nat) (ws : List Word), s.packet q = some (i, ws) → s.linksDown = false → (pword ws 0).toNat % 256 = 1 →
    launchBad ws = false →
    let lid := (pword ws 0).toNat / 2 ^ 32 % 2 ^ 16
    let gen := (tget s.gens lid).getD 0
    let l := launchOf q i s.taken ((s.queue q).cfg.toNat / 2 ^ 8 % 4) (s.queue q).level (gen + 1) ws
    (l.st = .waiting ∧ l.abort = none ∧ l.gen = gen + 1 ∧ l.lid.toNat = lid ∧ l.slots.toNat = (pword ws 0).toNat / 2 ^ 48 ∧
      l.ctx = (pword ws 0).toNat / 2 ^ 16 % 2 ^ 16 ∧ l.first = (pword ws 1).toNat % 2 ^ 11 ∧ l.logn = (pword ws 1).toNat / 2 ^ 11 % 16 ∧
      l.entry = pword ws 2 &&& ~~~3#64 ∧ l.gp = pword ws 3 ∧ l.stack = (pword ws 4).toNat % 2 ^ 57 ∧ l.ssz = (pword ws 4).toNat / 2 ^ 57 ∧
      l.tvec = pword ws 5 &&& ~~~3#64 ∧ l.seed = pword ws 6 ∧ l.save = (pword ws 7).toNat) ∧
    (s.launchCode l = none → ∃ u, exec (.launch q) s = .next u ∧ sameBytes s u ∧ tget u.launches l.key.toNat = some l ∧
      tget u.gens lid = some (gen + 1) ∧ (u.queue q).busy = some i ∧ (u.queue q).head = (s.queue q).head) ∧
    ∀ code, s.launchCode l = some code → ∃ u, exec (.launch q) s = .next u ∧ u.launches = s.launches ∧ answered s u q i 2 code lid gen.toNat) ∧
  (∀ (s : State) (q : Launch), tget s.launches q.key.toNat = some q → q.st = .waiting →
    (s.canTake q = true → ∃ u, exec (.launchStart q.key.toNat) s = .next u ∧ sameBytes s u ∧
      tget u.launches q.key.toNat = some { q with st := .running } ∧ (u.queue q.q).head = ((s.queue q.q).head + 1) % 2 ^ 17 ∧
      (u.queue q.q).open_ = (s.queue q.q).open_ ++ [q.pkt] ∧ ∀ c, q.first ≤ c → c < q.first + 2 ^ q.logn →
        (u.core c).launch = some q.key ∧ (u.core c).cyc = 0 ∧ (u.core c).fetchBuf = [] ∧ (∀ n, vget (u.core c).k n = 0) ∧ ∀ l, l < 16 →
          u.strand c l = if q.slots.getLsbD l then q.startState (s.strand c l) (q.lane c l) q.entry [] else s.strand c l) ∧
    (s.canTake q = false → exec (.launchStart q.key.toNat) s = .next s)) ∧
  ∀ (s : State) (q : Launch), tget s.launches q.key.toNat = some q → Tab.sorted s.launches = true →
    (∀ p ∈ s.cores, ∀ o ∈ p.2.ops, o.key ≠ q.key) → s.mayRecord q.q = true →
    ((∃ j ∈ s.joins, j.key = q.key ∧ j.await_ = false) → exec (.launchEnd q.key.toNat) s = .next s) ∧
    ((∀ j ∈ s.joins, j.key = q.key → j.await_ = true) →
    let gone (u : State) : Prop := tget u.launches q.key.toNat = none ∧ (u.queue q.q).open_ = (s.queue q.q).open_.filter (· != q.pkt) ∧
      (∀ c, (u.core c).launch ≠ some q.key) ∧ ∀ d, (∀ w ∈ (u.die d).wps, w.2.owner ≠ q.key) ∧ ∀ b ∈ (u.die d).bars, b.2.owner ≠ q.key
    (q.abort = none → q.st = .running → (∀ c, q.first ≤ c → c < q.first + 2 ^ q.logn → (s.core c).quiet = true) → s.posted = [] →
      s.pushes = [] → (∀ p ∈ s.cores, p.2.oab = [] ∧ p.2.oaBlocks = []) → ∃ u, exec (.launchEnd q.key.toNat) s = .next u ∧ gone u ∧
        noted s u q.q q.pkt (if q.err then 3 else 0) 0 q.lid.toNat q.gen.toNat 0 []) ∧
    ∀ cause epc info sid, q.abort = some (cause, epc, info, sid) → ∃ u, exec (.launchEnd q.key.toNat) s = .next u ∧ gone u ∧
      noted s u q.q q.pkt 1 (cause.toNat % 256) q.lid.toNat q.gen.toNat q.nabort [epc, info, sid])

namespace Sys2Proof.Claims

/-- A launch's save area lies in the DRAM of the device, and nothing is due at a core (R402). -/
def inArea (s : State) (q : Launch) : Prop :=
  (∀ y, s.upToDate y = true) ∧ devOf q.save = s.devid.toNat ∧ localOf q.save + 2 ^ q.logn * 0xA0000 ≤ 0xC000000000

end Sys2Proof.Claims

/-- R169, R400 to R405: pre-emption stops a launch's strands, parked ones at their instruction, save that a timed load already performed is
delivered first; a core is saved when the launch's strands have stopped, its
scratchpad at the head of its block, and left vacant with its generations; and at resume the launch has its cores again, its strands, which were
READY or parked, READY at their saved PC with s.tbm clear and every latch bit set, one that waited in a BAR with that wait alone left (R276). -/
def Obligations.LaunchesArePreempted : Prop :=
  (∀ (s : State) (q : Launch), tget s.launches q.key.toNat = some q → q.st = .running → q.abort = none → s.preempted q = true →
    ∃ u, exec (.preempt q.key.toNat) s = .next u ∧ sameBytes s u ∧ tget u.launches q.key.toNat = some { q with st := .saving } ∧
      ∀ c, q.first ≤ c → c < q.first + 2 ^ q.logn → (u.core c).saving = true ∧ ∀ l, l < 16 → (u.strand c l).pc = (s.strand c l).pc ∧
        (∀ p, (s.strand c l).st = .parked p → p.stops = true → (u.strand c l).st = .parked (if s.loadGot c l then p else .stopped)) ∧
        ((s.strand c l).st = .ready → (u.strand c l).st = .ready)) ∧
  (∀ (s : State) (q : Launch) (c : Nat), tget s.launches q.key.toNat = some q → (s.core c).launch = some q.key → q.first ≤ c →
    c < q.first + 2 ^ q.logn → q.st = .saving → q.abort = none → (s.core c).saving = true → s.saveReady q c = true → inArea s q →
    s.comps.all (fun r => r.core != c) = true → (s.core c).held = [] →
    (s.core c).msgs.all (fun m => match m with | .msg _ _ => true | .fill _ _ _ _ _ _ _ => false) = true →
    (∀ n, n < 0x80000 → s.refused (q.block c + n) = false) →
    ∃ u, exec (.saveComplete c) s = .next u ∧ (u.core c).launch = none ∧
      (∀ l, l < 16 → u.strand c l = { Strand.reset with gen := (s.strand c l).gen }) ∧
      (∀ n, n < 0x80000 → u.homeByte (q.block c + n) = mget s.mem (s.devid.toNat * 2 ^ 46 + 0x100000000000 + c * 2 ^ 20 + n)) ∧
      ((∀ y, q.first ≤ y → y < q.first + 2 ^ q.logn → y ≠ c → (s.core y).launch ≠ some q.key) →
        ∃ q', tget u.launches q.key.toNat = some q' ∧ q'.st = .saved)) ∧
  ∀ (s : State) (q : Launch), tget s.launches q.key.toNat = some q → q.st = .saved → s.canTake q = true →
    ∃ u, exec (.resume q.key.toNat) s = .next u ∧ tget u.launches q.key.toNat = some { q with st := .running, cores := [] } ∧
      ∀ c kept, q.first ≤ c → c < q.first + 2 ^ q.logn → tget q.cores c = some kept → (u.core c).launch = some q.key ∧ ∀ l, l < 16 →
        let x := vget kept.slots l
        let slot := q.block c + 0x90000 + 0x1000 * l
        (u.strand c l).tbm = 0 ∧ (u.strand c l).latch = 31 ∧ (q.logn = 0 → inArea s q → plainWord s slot (slotWord x) →
          (x.st = .free → (u.strand c l).st = .free) ∧
          ((x.st = .ready ∨ ∃ p, x.st = .parked p) → (u.strand c l).st = .ready ∧ ∀ w : Word, plainWord s (slot + 8) w → (u.strand c l).pc = w) ∧
          ∀ n p, x.st = .parked (.barArrived n p) → (u.strand c l).barAt = some (n, p))

/-- R160, R164 to R166: a working core with a free slot and no message pops its bottom record: one of its launch without a producer starts in the
lowest free slot, one of another launch is discarded. A push from elsewhere arrives at the bottom. An idle core asks the next core of its domain,
which gives its top record; the thief starts it, or at the end of the ring waits 64 cycles. That a strand started from a record flashes the clean
bytes of its die's remote-data cache, an acquire at package scope where R125 asks for the scope of creator and strand, and that the steal of a
consumer's record first writes back what its producers had written, is log 11's choice. -/
def Obligations.WorkIsDispatchedAndStolen : Prop :=
  (∀ (s : State) (c l : Nat) (r : TaskRec) (ds : List TaskRec) (q : Launch), (s.core c).works = true → (s.core c).freeSlot = some l →
    (s.core c).hasMsg = false → (s.core c).deque = r :: ds → (s.core c).hamper = 0 → s.launchOf c = some q →
    (r.prod = false ∨ (s.core c).launch ≠ some r.key) → s.pushes.all (fun p => !p.here) = true → ∃ u, exec (.dispatchPop c) s = .next u ∧
      sameBytes s u ∧ (u.core c).deque = ds ∧
      ((s.core c).launch = some r.key → u.strand c l = q.startState (s.strand c l) (q.lane c l) r.pc r.a ∧
        flashed u (dieOf c)) ∧
      ((s.core c).launch ≠ some r.key → ∀ m, u.strand c m = s.strand c m)) ∧
  (∀ (s : State) (p : Push) (ps : List Push), s.pushes = p :: ps → s.pushes.all (fun p => !p.here) = true → runsOn s p.dst p.r.key →
    (s.core p.dst).deque.length < 112 →
    ∃ u, exec (.remotePush 0) s = .next u ∧ sameBytes s u ∧ u.pushes = ps ∧ (u.core p.dst).deque = p.r :: (s.core p.dst).deque ∧
      ∀ l, (u.strand p.dst l).latch = (s.strand p.dst l).latch ||| 2) ∧
  (∀ (s : State) (c v : Nat) (vs : List Nat) (r : TaskRec) (ds : List TaskRec), (s.core c).thief = .idle → s.idle c = true →
    s.victims c = v :: vs → v ≠ c → (s.core v).deque = ds ++ [r] → (s.core v).hamper = 0 → s.pushes.all (fun p => !p.here) = true →
    (r.cons = false ∨ s.posted = []) →
    ∃ u, exec (.stealRequest c) s = .next u ∧ (dieOf c = dieOf v ∨ r.cons = false → sameBytes s u) ∧ (u.core c).thief = .got v (some r) ∧
      (u.core v).deque = ds) ∧
  (∀ (s : State) (c v : Nat), (s.core c).thief = .got v none → s.idle c = true → (s.victims c).getLast? = some v → (s.victims c).Nodup →
    exec (.stealReply c) s = .next (s.setCore c { s.core c with thief := .waiting (s.core c).cyc })) ∧
  (∀ (s : State) (c l v : Nat) (r : TaskRec) (q : Launch), (s.core c).thief = .got v (some r) → (s.core c).works = true →
    (s.core c).freeSlot = some l → (s.core c).hasMsg = false → (s.core c).launch = some r.key → r.prod = false → s.launchOf c = some q →
    ∃ u, exec (.stealReply c) s = .next u ∧ sameBytes s u ∧ (u.core c).thief = .idle ∧
      u.strand c l = q.startState (s.strand c l) (q.lane c l) r.pc r.a) ∧
  ∀ (s : State) (c n : Nat), (s.core c).thief = .waiting n → exec (.stealRetry c) s =
    .next (if n + 64 ≤ (s.core c).cyc then s.setCore c { s.core c with thief := .idle } else s)

/-- R356, R406, R410, R411, R413, R414: each packet that is well-formed and may act has its effect and completes with its record, its queue
going on: SETLEVEL, QFENCE once the queue's launches are complete, SIGNAL with its store, WAITVAL once its value passes, PONDCFG, its destroy
once the store is gone, and RESYNC with its summary (its fields' order is log 22's). That QHEAD goes to the successor modulo 2^17 is the model's
choice (log 74). -/
def Obligations.PacketsAreAnswered : Prop :=
  (∀ (s : State) (q i : Nat) (ws : List Word), s.typed q 2 = some (i, ws) → (pword ws 0).toNat / 2 ^ 12 = 0 →
    (pword ws 0).toNat / 2 ^ 8 % 4 = 0 → (pword ws 0).toNat / 2 ^ 10 % 4 ≠ 3 → zeroFrom ws 1 = true →
    ∃ u, exec (.setlevel q) s = .next u ∧ answered s u q i 0 0 0 0 ∧ (u.queue q).level = (pword ws 0).toNat / 2 ^ 10 % 4) ∧
  (∀ (s : State) (q i : Nat) (ws : List Word), s.typed q 3 = some (i, ws) → (pword ws 0).toNat / 2 ^ 8 = 0 → zeroFrom ws 1 = true →
    ((s.queue q).open_ = [] → ∃ u, exec (.qfence q) s = .next u ∧ answered s u q i 0 0 0 0) ∧
    ((s.queue q).open_ ≠ [] → exec (.qfence q) s = .next s)) ∧
  (∀ (s : State) (q i : Nat) (ws : List Word), s.typed q 4 = some (i, ws) → (pword ws 0).toNat / 2 ^ 32 = 0 →
    (pword ws 0).toNat / 2 ^ 9 % 2 ^ 7 = 0 → zeroFrom ws 3 = true → openDram s (pword ws 1).toNat → quietMemory s →
    (recordAt s q i).getLsbD 63 = true →
    ∃ u, exec (.signal q) s = .next u ∧ answered s u q i 0 0 0 0 ∧ u.homeRead (pword ws 1).toNat 8 = some (natLe (pword ws 2).toNat 8) ∧
      u.msix = s.msix ++ if (pword ws 0).getLsbD 8 then [(pword ws 0).toNat / 2 ^ 16 % 2 ^ 16] else []) ∧
  (∀ (s : State) (q i : Nat) (ws : List Word), s.typed q 5 = some (i, ws) → waitvalBad ws = false → s.refused (pword ws 1).toNat = false →
    s.gone (pword ws 1).toNat = false → exec (.waitval q) s = .next (s.modQueue q fun x => { x with busy := some i })) ∧
  (∀ (s : State) (q i : Nat) (ws : List Word) (m : Word), (s.queue q).busy = some i →
    (s.modQueue q fun x => { x with busy := none }).typed q 5 = some (i, ws) → openDram s (pword ws 1).toNat →
    s.homeRead (pword ws 1).toNat 8 = some (natLe m.toNat 8) →
    let x := m &&& pword ws 3
    let n := (pword ws 0).toNat / 2 ^ 8 % 4
    let pass := if n = 0 then x = pword ws 2 else if n = 1 then x ≠ pword ws 2 else (pword ws 2).toNat ≤ x.toNat
    (pass → ∃ u, exec (.waitvalSatisfied q) s = .next u ∧ answered s u q i 0 0 0 0) ∧
    (¬ pass → exec (.waitvalSatisfied q) s = .next (s.homeFill (s.placeOf (pword ws 1).toNat false) (pword ws 1).toNat 8))) ∧
  (∀ (s : State) (q i : Nat) (ws : List Word) (d t : Nat) (p : Pond) (ok : Bool), s.typed q 6 = some (i, ws) → pondBad ws = false →
    pondOf ws = (d, t, p, ok) →
    ((pword ws 0).getLsbD 8 = false → ok = true → s.pond d t = none → s.pondFits d p = true →
      ∃ u p', exec (.pondcfg q) s = .next u ∧ answered s u q i 0 0 0 0 ∧ u.pond d t = some p' ∧ { p' with stale := [] } = p ∧
        (s.homeDirty = [] → s.mscDirty = [] → (∀ c, s.upToDate c = true) → p' = p)) ∧
    ((pword ws 0).getLsbD 8 = false → (s.pond d t).isSome = true → ∃ u, exec (.pondcfg q) s = .next u ∧ answered s u q i 2 6 0 0) ∧
    ((pword ws 0).getLsbD 8 = true → (s.pond d t = none → ∃ u, exec (.pondcfgDestroy q) s = .next u ∧ answered s u q i 2 7 0 0) ∧
      ∀ p', s.pond d t = some p' → p'.dying = none → ∃ u, exec (.pondcfgDestroy q) s = .next u ∧ sameBytes s u ∧
        u.pond d t = some { p' with dying := some q } ∧ (u.queue q).busy = some i)) ∧
  (∀ (s : State) (d t q i : Nat) (p : Pond), s.pond d t = some p → p.dying = some q → (s.queue q).busy = some i → s.mayRecord q = true →
    Tab.sorted (s.die d).ponds = true → ∃ u, exec (.pondDestroy d t) s = .next u ∧ answered s u q i 0 0 0 0 ∧ u.pond d t = none) ∧
  ∀ (s : State) (q i : Nat) (ws : List Word), s.typed q 7 = some (i, ws) → (pword ws 0).toNat / 2 ^ 8 = 0 → zeroFrom ws 2 = true →
    let a := (pword ws 1).toNat % 2 ^ 57
    let r := (recordAt s q i).toNat % 2 ^ 57
    (pword ws 1).getLsbD 63 = true → (pword ws 1).toNat / 2 ^ 57 % 2 ^ 6 = 0 → a % 64 = 0 → Memory.wf s.hostMem = true →
    (recordAt s q i).getLsbD 63 = true → (r + 32 ≤ a ∨ a + 256 ≤ r) →
    ∃ u, exec (.resync q) s = .next u ∧ answered s u q i 0 0 0 0 ∧ mread u.hostMem a s.summary.length = s.summary ∧ s.summary.length = 256 ∧
      ∀ k, k < 18 → (leNat ((s.summary.drop 8).take 8)).testBit (16 + k) = s.links.getLsbD k

/-- R17, R19, R136, R138 to R143, R409, R410, R418: the registers that the host and the service cores write keep what may be written; a host access
is performed at its home, and a read answered; time passes forward, slewed by at most one part in 10,000; exchanges lock, free and hold over a time
unit, and set what it slews towards; a device joins a domain once, by a forward step or by holding. What QTAIL, QBASE, QCOMP and QCFG keep of
undefined bits, and of a size above 16, is log 74's choice, and that TCAP moves a step only when it is faster than the cap is log 36's (DEDUCED). In
the operand of HOST_ACCESS the queue registers stand at 2^57 and BAR0's offset, by the choice of log 72; the exchange of the service die with the
grandmaster as TIME_EXCHANGE of die 4, its bound of 100 ns among it, is log 69's, and which sign OFFS has, and that the eight successes may begin
before FREE, log 23's. -/
def Obligations.RegistersAndTimeAreSet : Prop :=
  (∀ (s : State) (q : Nat) (v : Word), q < 256 →
    exec (.qtail q v) s = .next (s.modQueue q fun x => { x with tail := v.toNat % 2 ^ 17 }) ∧
    ((s.queue q).cfg.getLsbD 16 = false → v.toNat % 32 ≤ 16 → exec (.qcfg q v) s = .next (s.modQueue q fun x => { x with cfg := v &&& 0x1031F })) ∧
    ((s.queue q).cfg.getLsbD 16 = true → exec (.qcfg q v) s = .next (s.modQueue q fun x => { x with
      cfg := if v.getLsbD 16 then x.cfg else x.cfg &&& 0x31F })) ∧
    exec (.registerWrite (0x10000 + 64 * q) v) s = .next (s.modQueue q fun x => { x with base := v &&& 0x81FFFFFFFFFFFFC0 }) ∧
    exec (.registerWrite (0x10000 + 64 * q + 16) v) s = .next (s.modQueue q fun x => { x with comp := v &&& 0x81FFFFFFFFFFFFE0 })) ∧
  (∀ (s : State) (i : Nat) (v : Word), i < 65536 → Tab.sorted s.ctxTab = true →
    ∃ u, exec (.registerWrite (s.devid.toNat * 2 ^ 46 + 0x2F0000010000 + 8 * i) v) s = .next u ∧ sameBytes s u ∧
      ∀ j, (tget u.ctxTab j).getD 0 = if j = i then v else (tget s.ctxTab j).getD 0) ∧
  (∀ (s : State) (d : Nat) (v : Word) (n : BitVec 2),
    let x := s.die d
    let cap := BitVec.ofNat 2 v.toNat
    exec (.tcap d v) s = .next (s.modDie d fun y => { y with tcap := cap, tstep := if x.tstep.toNat < cap.toNat then cap else x.tstep }) ∧
    exec (.throttleStepChange d n) s = .next (s.modDie d fun y => if x.tcap.toNat ≤ n.toNat then { y with tstep := n } else y)) ∧
  (∀ (s : State) (pa : Nat) (bs : List Byte), (∀ c, s.upToDate c = true) → s.canonical = true →
    inMemory s pa bs.length → (∀ i, i < bs.length → s.refused (pa + i) = false ∧ s.gone (pa + i) = false) → bs ≠ [] →
    (s.badSectors = [] → s.badWords = [] → ∃ u, exec (.hostAccess false pa bs) s = .next u ∧ sameBytes s u ∧
      u.hostReads = s.hostReads ++ [(pa, some ((List.range bs.length).map fun i => byteAt s (pa + i)))]) ∧
    ∃ u, exec (.hostAccess true pa bs) s = .next u ∧ stored s u pa bs) ∧
  (∀ (s : State) (q : Nat) (x : Word) (bs : List Byte), q < 256 → bs.length = 8 →
    (∀ o ∈ [(0x00, (s.queue q).base), (0x08, (s.queue q).cfg), (0x10, (s.queue q).comp), (0x18, w64 (s.queue q).head),
        (0x20, w64 (s.queue q).tail), (0x28, w64 (s.queue q).level)],
      let pa := 2 ^ 57 + 0x10000 + 64 * q + o.1
      exec (.hostAccess false pa bs) s = .next { s with hostReads := s.hostReads ++ [(pa, some (natLe o.2.toNat 8))] }) ∧
    exec (.hostAccess true (2 ^ 57 + 0x10020 + 64 * q) (natLe x.toNat 8)) s = exec (.qtail q x) s ∧
    exec (.hostAccess true (2 ^ 57 + 0x10008 + 64 * q) (natLe x.toNat 8)) s = exec (.qcfg q x) s ∧
    exec (.hostAccess true (2 ^ 57 + 0x10018 + 64 * q) (natLe x.toNat 8)) s = .next (s.modQueue q fun y => y)) ∧
  (∀ (x : Die) (ref adv : Nat) (slew : Int), x.rem < 10000 →
    let y := x.advance ref adv slew
    x.tu ≤ y.tu ∧ ((y.tu : Int) - (x.tu + adv : Nat)).natAbs * 10000 ≤ x.rem + adv ∧ y.rem < 10000) ∧
  (∀ (s : State) (d : Nat) (off : Int), d < 4 →
    let x := s.die d
    ∃ u v, exec (.timeExchange d off false) s = .next u ∧ exec (.timeExchange d off true) s = .next v ∧ sameBytes s u ∧ sameBytes s v ∧
      (x.lock = .locked → 3 ≤ x.bad → (u.die d).lock = .holdover ∧ (u.die d).holdAt = x.tu ∧ (u.die d).dom = false) ∧
      (x.lock = .locked → x.bad < 3 → (u.die d).lock = .locked) ∧
      (off < -10 ∨ 10 < off → (v.die d).lock = .free) ∧
      (7 ≤ x.good → (if s.inDom then -10 ≤ off ∧ off ≤ 10 else -2 ≤ off ∧ off ≤ 2) → ((x.tu : Int) - s.ref).natAbs ≤ 20000 →
        x.lock ≠ .locked → s.anchored = true → (v.die d).lock = .locked ∧ (v.die d).dom = s.inDom) ∧
      (s.anchored = false → x.lock ≠ .locked → (v.die d).lock ≠ .locked) ∧
      (u.die d).tu = x.tu ∧ (v.die d).tu = x.tu ∧ (v.die d).aim = -off * 10000) ∧
  (∀ (s : State) (off : Int), s.inDom = true → s.gm = false →
    (7 ≤ s.gmGood → off.natAbs ≤ 18 → s.gmTaken = true → s.held = 0 →
      ∃ u, exec (.timeExchange 4 off true) s = .next u ∧ sameBytes s u ∧ u.gmLock = true ∧ u.dies = s.dies) ∧
    (∃ u, exec (.timeExchange 4 off true) s = .next u ∧ u.refAim = -off * 10000 ∧ u.ref = s.ref ∧
      (100 < off.natAbs → u.gmLock = false ∧ ∀ d, (u.die d).lock ≠ .locked)) ∧
    (3 ≤ s.gmBad → s.gmLock = true → ∃ u, exec (.timeExchange 4 off false) s = .next u ∧ sameBytes s u ∧ u.gmLock = false ∧
      ∀ d, (s.die d).lock = .locked → (u.die d).lock = .holdover)) ∧
  ∀ (s : State) (g : Nat), s.running = false → s.inDom = true → s.gm = false →
    (s.gmTaken = false → s.ref ≤ g * 10000 → ∃ u, exec (.domainJoin g) s = .next u ∧ sameBytes s u ∧ u.ref = g * 10000 ∧ u.held = 0 ∧
      u.gmTaken = true ∧ u.gmLock = true ∧ ∀ d, (u.die d).tu = (s.die d).tu + (g * 10000 - s.ref)) ∧
    (s.gmTaken = false → g * 10000 < s.ref → exec (.domainJoin g) s = .next { s with
      held := s.ref - g * 10000, gmTaken := true, gmLock := true, refAim := 0 }) ∧
    (s.gmTaken = true → exec (.domainJoin g) s = .next s)

/-- R37 to R39, R65, R68, R69, R72, R139, R154, R155, R358, R414 to R417: capacity is unmapped and flushed before its release is acknowledged, and
goes when it is forced as soon as no store translated before is left (R28); links fail and routes return; the device is numbered; an alarm and an
attestation act as their rules say (that the record begins with the nonce is log 21's choice); and each reset leaves what its rules say (that cold
reset keeps host memory is log 27's, that warm reset keeps a hold while the lock to the grandmaster goes log 69's). -/
def Obligations.ServiceStepsAct : Prop :=
  (∀ (s : State) (base size : Nat), (base, size) ∈ s.extents →
    let lo := s.devid.toNat * 2 ^ 46 + 0x300000000000 + base
    let run (a : Nat) : Prop := lo ≤ a ∧ a < lo + size
    let clear (u : State) : Prop := (∀ a, run a → u.masked a = false) ∧ (∀ d, ∀ p ∈ (u.die d).rdc, ¬ (p.1 * 256 < lo + size ∧ lo < p.1 * 256 + 256))
    let unmapped (u : State) : Prop := ∀ d, ∀ e ∈ (u.die d).tlb, runsMeet (leafSpan e.leaf e.level) (lo, size) = false
    let rel (forced : Bool) : CxlRel := ⟨base, size, forced⟩
    (rel false ∉ s.cxlRels → rel true ∉ s.cxlRels → (∀ d, Tab.sorted (s.die d).rdc = true) → ∃ u, exec (.cxlRelease base size) s = .next u ∧
      clear u ∧ unmapped u ∧ u.cxlRels = s.cxlRels ++ [rel false] ∧ u.extents = s.extents) ∧
    (rel false ∈ s.cxlRels → (∀ d, Tab.sorted (s.die d).rdc = true) →
      (s.pendingIn (lo, size) = false → ∃ u, exec (.cxlReleaseAck base size) s = .next u ∧ clear u ∧ rel false ∉ u.cxlRels ∧
        (base, size) ∉ u.extents) ∧
      (s.pendingIn (lo, size) = true → exec (.cxlReleaseAck base size) s = .next s)) ∧
    (rel true ∉ s.cxlRels → ∃ u, exec (.cxlForcedRelease base size) s = .next u ∧ unmapped u ∧
      ((clear u ∧ (base, size) ∉ u.extents ∧ rel true ∉ u.cxlRels) ∨ (u.extents = s.extents ∧ rel true ∈ u.cxlRels))) ∧
    (rel true ∈ s.cxlRels →
      (s.pendingIn (lo, size) = false → ∃ u, exec (.cxlForcedRelease base size) s = .next u ∧ clear u ∧ (base, size) ∉ u.extents ∧
        rel true ∉ u.cxlRels) ∧
      (s.pendingIn (lo, size) = true → exec (.cxlForcedRelease base size) s = .next s))) ∧
  (∀ (s : State) (link : Nat) (lost : List Nat), (s.links.getLsbD link = false → exec (.linkFailure (link, lost)) s = .next s) ∧
    (s.links.getLsbD link = true → ∃ u, exec (.linkFailure (link, lost)) s = .next u ∧ sameBytes s u ∧
    (∀ k, k < 18 → u.links.getLsbD k = (s.links.getLsbD k && k != link)) ∧ u.reroute = true ∧ u.reach = s.reach.filter (fun d => !lost.contains d) ∧
    (∀ p ∈ u.posted, ∀ e d h, p.op = .store e → e.acc.place = .device d h → d ∉ lost) ∧
    u.linkErr.toNat = (s.linkErr.toNat + (s.posted.length - u.posted.length)) % 2 ^ 64)) ∧
  (∀ s : State, exec .rerouteComplete s = .next { s with reroute := false }) ∧
  (∀ (s : State) (dev : BitVec 11) (reach : List Nat) (gm : Bool), dev.toNat < 1536 → s.launches = [] → s.posted = [] →
    (∀ d, (s.die d).ponds = []) → (∀ p ∈ s.cores, p.2.cal = [] ∧ p.2.calWait = [] ∧ p.2.loads = []) →
    ∃ u, exec (.domainBringup dev reach gm) s = .next u ∧ u.devid = dev ∧ u.inDom = true ∧ u.gm = gm ∧ u.reach = reach ∧
      ∀ d, (u.die d).tlb = [] ∧ (gm = false → (u.die d).lock = .free)) ∧
  (∀ s : State, ∃ u, exec .securityAlarm s = .next u ∧ u.alarm = true ∧ u.keys = false ∧ u.debugLocked = true ∧ sameBytes s u ∧
    (s.haltPolicy = true → s.alarm = false → u.linksDown = true ∧ u.links = 0 ∧ (Tab.sorted s.launches = true →
      (∀ p ∈ s.launches, p.1 = p.2.key.toNat) →
      ∀ p ∈ u.launches, p.2.abort.isSome = true)) ∧
    (s.haltPolicy = false ∨ s.alarm = true → u.linksDown = s.linksDown ∧ u.launches = s.launches ∧ u.queues = s.queues)) ∧
  (∀ (s : State) (nonce : List Byte), nonce.length = 32 → s.linksDown = false → ∃ bs, bs.take 32 = nonce ∧
    exec (.attestationRequest nonce) s = .next { s with attest := s.attest ++ [(bs, s.keys && !s.alarm)] }) ∧
  (∀ s : State, ∃ u, exec .coldReset s = .next u ∧ u.cores = [] ∧ u.chans = [] ∧ u.queues = [] ∧ u.launches = [] ∧
    u.dies = State.reset.dies ∧ u.devid = 0 ∧ u.homeDirty = [] ∧ u.mscDirty = [] ∧ u.hostMem = s.hostMem ∧ u.darns = s.darnFlash ∧
    (∀ a, a < 0x300000000000 → mget u.mem a = 0)) ∧
  ∀ s : State, ∃ u, exec .warmReset s = .next u ∧ u.launches = [] ∧ u.posted = [] ∧ u.held = s.held ∧ u.gmTaken = s.gmTaken ∧ u.gmLock = false ∧
    (∀ c n, c < 2048 → n < 0x80000 → mget u.mem (s.devid.toNat * 2 ^ 46 + 0x100000000000 + c * 2 ^ 20 + n) = 0) ∧
    (∀ c l, (u.strand c l).st = .free ∧ (u.strand c l).gen = (s.strand c l).gen) ∧
    ∀ d, (u.die d).lock = .free ∧ (u.die d).bars = [] ∧ (u.die d).wps = [] ∧ (u.die d).ponds = [] ∧ (u.die d).rdc = []

/-- R150, R176, R390, R397, R420: a pending late report is taken before a withdrawal report, each at a boundary with BM clear, also in a park that
R420 lists, as a trap with its cause and value; neither an AWAIT, whose mask names no source, nor the release of a form that R420 does not list
is such a park. And a word that is no instruction takes ILLOP with the word. -/
def Obligations.ReportsAreTakenAtBoundaries : Prop :=
  ∀ s : State, s.self.tvec ≠ 0 →
    let x := freed s s.cur.1 s.cur.2
    (∀ t, s.self.report = some t → s.abandons s.cur.1 s.cur.2 = true → ∃ u, exec .deadline s = .next u ∧ sameBytes s u ∧
      u.self = { entered x 0x08 t with report := none }) ∧
    (s.self.wdRep = true → s.abandons s.cur.1 s.cur.2 = true →
      (s.self.report = none → ∃ u, exec .withdrawn s = .next u ∧ sameBytes s u ∧ u.self = { entered x 0x0C s.self.wd with wdRep := false }) ∧
      (s.self.report ≠ none → exec .withdrawn s = .next s)) ∧
    (∀ p, s.self.st = .parked p → (∃ m, p = .await m) ∨ (∃ n, p = .relKept n) → exec .deadline s = .next s ∧ exec .withdrawn s = .next s) ∧
    ∀ w : BitVec 32, exec (.illop w) s = .next (s.traps 0x01 (BitVec.ofNat 64 w.toNat))
end

