-- ==== Sys2Proof/Laws/Tables.lean ====
section
/-! SUPPORT. Tables, memories, byte strings and fixed files: a read after a write, and what each operation keeps. -/

namespace Sys2Proof.Machine

/-! Tables -/

@[simp] theorem tget_nil {α : Type} (n : Nat) : tget ([] : Tab α) n = none := rfl

@[simp] theorem tget_tset_same {α : Type} (t : Tab α) (n : Nat) (x : α) : tget (tset t n x) n = some x := by
  induction t with
  | nil => simp [tset, tget]
  | cons p t ih =>
    obtain ⟨k, v⟩ := p
    by_cases h : n < k
    · simp [tset, tget, h]
    · by_cases h' : n = k
      · simp [tset, tget, h']
      · simp [tset, tget, h, h', ih]

theorem tget_tset_ne {α : Type} (t : Tab α) {n m : Nat} (x : α) (h : m ≠ n) : tget (tset t n x) m = tget t m := by
  induction t with
  | nil => simp [tset, tget, h]
  | cons p t ih =>
    obtain ⟨k, v⟩ := p
    by_cases h1 : n < k
    · by_cases h2 : m < n
      · have h3 : m ≠ k := by omega
        have h4 : m < k := by omega
        simp [tset, tget, h1, h2, h3, h4, h]
      · simp [tset, tget, h1, h, h2]
    · by_cases h2 : n = k
      · subst h2
        simp [tset, tget, h]
      · simp [tset, tget, h1, h2, ih]

/-- A second write of one number replaces the first. -/
@[simp] theorem tset_tset {α : Type} (t : Tab α) (n : Nat) (x y : α) : tset (tset t n x) n y = tset t n y := by
  induction t with
  | nil => simp [tset]
  | cons p t ih =>
    obtain ⟨k, v⟩ := p
    by_cases h : n < k
    · simp [tset, h]
    · by_cases h' : n = k
      · simp [tset, h']
      · simp [tset, h, h', ih]

theorem tget_tdel_ne {α : Type} (t : Tab α) {n m : Nat} (h : m ≠ n) (hs : Tab.sorted t = true) :
    tget (tdel t n) m = tget t m := by
  induction t with
  | nil => rfl
  | cons p t ih =>
    obtain ⟨k, v⟩ := p
    have ht : Tab.sorted t = true := by
      cases t with
      | nil => rfl
      | cons q t => obtain ⟨b, y⟩ := q; simp [Tab.sorted] at hs; exact hs.2
    by_cases h1 : n < k
    · simp [tdel, h1]
    · by_cases h2 : n = k
      · subst h2
        simp only [tdel, if_true, tget, h, if_false]
        by_cases h3 : m < n
        · simp [h3]
          cases t with
          | nil => rfl
          | cons q t =>
            obtain ⟨b, y⟩ := q
            simp [Tab.sorted] at hs
            have : m ≠ b := by omega
            have : m < b := by omega
            simp [tget, *]
        · simp [h3]
      · simp [tdel, h1, h2, tget, ih ht]

/-- The head of a sorted table lies below the rest. -/
theorem Tab.sorted_cons {α : Type} {k : Nat} {v : α} {t : Tab α} :
    Tab.sorted ((k, v) :: t) = true ↔ Tab.sorted t = true ∧ ∀ p ∈ t, k < p.1 := by
  induction t generalizing k v with
  | nil => simp [Tab.sorted]
  | cons q t ih =>
    obtain ⟨b, y⟩ := q
    simp only [Tab.sorted, Bool.and_eq_true, decide_eq_true_eq, List.mem_cons, forall_eq_or_imp]
    constructor
    · intro ⟨h1, h2⟩
      exact ⟨h2, h1, fun p hp => Nat.lt_trans h1 ((ih.mp h2).2 p hp)⟩
    · intro ⟨h1, h2, _⟩
      exact ⟨h2, h1⟩

/-- The numbers of a table after a write: the old ones, and the one written. -/
theorem mem_tset {α : Type} {t : Tab α} {n : Nat} {x : α} {p : Nat × α} (h : p ∈ tset t n x) : p ∈ t ∨ p = (n, x) := by
  induction t with
  | nil => simp [tset] at h; exact .inr h
  | cons q t ih =>
    obtain ⟨k, v⟩ := q
    simp only [tset] at h
    split at h
    · simp at h ⊢; tauto
    · split at h
      · simp at h ⊢; tauto
      · simp at h ⊢
        rcases h with h | h
        · tauto
        · rcases ih h with h | h <;> tauto

theorem mem_tdel {α : Type} {t : Tab α} {n : Nat} {p : Nat × α} (h : p ∈ tdel t n) : p ∈ t := by
  induction t with
  | nil => simp [tdel] at h
  | cons q t ih =>
    obtain ⟨k, v⟩ := q
    simp only [tdel] at h
    split at h
    · exact h
    · split at h
      · exact List.mem_cons_of_mem _ h
      · simp at h ⊢
        rcases h with h | h
        · exact .inl h
        · exact .inr (ih h)

theorem sorted_tset {α : Type} {t : Tab α} (n : Nat) (x : α) (h : Tab.sorted t = true) : Tab.sorted (tset t n x) = true := by
  induction t with
  | nil => rfl
  | cons q t ih =>
    obtain ⟨k, v⟩ := q
    have h' := Tab.sorted_cons.mp h
    simp only [tset]
    split
    · rename_i hk
      refine Tab.sorted_cons.mpr ⟨h, ?_⟩
      intro p hp
      rcases List.mem_cons.mp hp with rfl | hp
      · exact hk
      · exact Nat.lt_trans hk (h'.2 p hp)
    · split
      · rename_i hk
        subst hk
        exact Tab.sorted_cons.mpr h'
      · refine Tab.sorted_cons.mpr ⟨ih h'.1, ?_⟩
        intro p hp
        rcases mem_tset hp with hp | rfl
        · exact h'.2 p hp
        · simp; omega

theorem sorted_tdel {α : Type} {t : Tab α} (n : Nat) (h : Tab.sorted t = true) : Tab.sorted (tdel t n) = true := by
  induction t with
  | nil => rfl
  | cons q t ih =>
    obtain ⟨k, v⟩ := q
    have h' := Tab.sorted_cons.mp h
    simp only [tdel]
    split
    · exact h
    · split
      · exact h'.1
      · exact Tab.sorted_cons.mpr ⟨ih h'.1, fun p hp => h'.2 p (mem_tdel hp)⟩

/-- A number below every listed one is not listed. -/
theorem tget_below {α : Type} {t : Tab α} {n : Nat} (h : ∀ p ∈ t, n < p.1) : tget t n = none := by
  cases t with
  | nil => rfl
  | cons q t =>
    obtain ⟨k, v⟩ := q
    have := h (k, v) (by simp)
    simp only [tget]
    have h1 : n ≠ k := by simp at this; omega
    have h2 : n < k := by simpa using this
    simp [h1, h2]

theorem tget_tdel_same {α : Type} {t : Tab α} (n : Nat) (h : Tab.sorted t = true) : tget (tdel t n) n = none := by
  induction t with
  | nil => rfl
  | cons q t ih =>
    obtain ⟨k, v⟩ := q
    have h' := Tab.sorted_cons.mp h
    simp only [tdel]
    split
    · rename_i hk
      have : n ≠ k := by omega
      simp [tget, this, hk]
    · split
      · rename_i hk
        subst hk
        exact tget_below h'.2
      · rename_i h1 h2
        simp [tget, h1, h2, ih h'.1]

/-! Memories -/

/-- The empty memory is in canonical form. -/
theorem Memory.wf_nil : Memory.wf [] = true := rfl

/-- Writing a byte keeps the canonical form. -/
theorem Memory.wf_mput {m : Memory} (a : Nat) (b : Byte) (h : m.wf = true) : (mput m a b).wf = true := by
  simp only [Memory.wf, Bool.and_eq_true, List.all_eq_true] at h ⊢
  unfold mput
  split
  · exact ⟨sorted_tdel a h.1, fun p hp => h.2 p (mem_tdel hp)⟩
  · rename_i hb
    refine ⟨sorted_tset a b h.1, fun p hp => ?_⟩
    rcases mem_tset hp with hp | rfl
    · exact h.2 p hp
    · simpa using hb

/-- Writing bytes keeps the canonical form. -/
theorem Memory.wf_mwrite (bs : List Byte) : ∀ {m : Memory} (a : Nat), m.wf = true → (mwrite m a bs).wf = true := by
  induction bs with
  | nil => exact fun _ h => h
  | cons b bs ih => exact fun a h => ih (a + 1) (Memory.wf_mput a b h)

/-- Keeping only some cells of a memory keeps the canonical form. -/
theorem Memory.wf_filter {m : Memory} (p : Host.Cell → Bool) (h : m.wf = true) : Memory.wf (m.filter p) = true := by
  simp only [Memory.wf, Bool.and_eq_true, List.all_eq_true] at h ⊢
  refine ⟨?_, fun q hq => h.2 q (List.mem_filter.mp hq).1⟩
  have hs := h.1
  clear h
  induction m with
  | nil => rfl
  | cons q t ih =>
    obtain ⟨k, v⟩ := q
    have h' := Tab.sorted_cons.mp hs
    by_cases hp : p (k, v)
    · rw [List.filter_cons_of_pos hp]
      exact Tab.sorted_cons.mpr ⟨ih h'.1, fun r hr => h'.2 r (List.mem_filter.mp hr).1⟩
    · rw [List.filter_cons_of_neg hp]
      exact ih h'.1

/-- A byte reads as what was last written there. -/
theorem mget_mput_same {m : Memory} (a : Nat) (b : Byte) (h : m.wf = true) : mget (mput m a b) a = b := by
  simp only [Memory.wf, Bool.and_eq_true] at h
  unfold mget mput
  split
  · rename_i hb
    simp [tget_tdel_same a h.1, hb]
  · simp

/-- A write leaves every other byte alone. -/
theorem mget_mput_ne {m : Memory} {a c : Nat} (b : Byte) (h : m.wf = true) (hc : c ≠ a) : mget (mput m a b) c = mget m c := by
  simp only [Memory.wf, Bool.and_eq_true] at h
  unfold mget mput
  split
  · rw [tget_tdel_ne _ hc h.1]
  · rw [tget_tset_ne _ _ hc]

/-! Bytes -/

@[simp] theorem natLe_length (x n : Nat) : (natLe x n).length = n := by
  induction n generalizing x with
  | zero => rfl
  | succ n ih => simp [natLe, ih]

/-- The little-endian value of a number's bytes (R255). -/
theorem leNat_natLe (x n : Nat) : leNat (natLe x n) = x % 256 ^ n := by
  induction n generalizing x with
  | zero => simp [natLe, leNat, Nat.mod_one]
  | succ n ih =>
    simp only [natLe, leNat, ih, BitVec.toNat_ofNat]
    rw [show (256 : Nat) ^ (n + 1) = 256 * 256 ^ n by ring, Nat.mod_mul]

/-! Fixed files -/

theorem vget_eq {α : Type} {n : Nat} (v : Vector α (n + 1)) (i : Nat) :
    vget v i = v[i % (n + 1)]'(Nat.mod_lt _ (Nat.succ_pos n)) := rfl

@[simp] theorem vget_vset_same {α : Type} {n : Nat} (v : Vector α (n + 1)) (i : Nat) (x : α) : vget (vset v i x) i = x := by
  simp [vget_eq, vset]

theorem vget_vset_ne {α : Type} {n : Nat} (v : Vector α (n + 1)) {i j : Nat} (x : α) (h : j % (n + 1) ≠ i % (n + 1)) :
    vget (vset v i x) j = vget v j := by
  simp [vget_eq, vset, Ne.symm h]

@[simp] theorem vset_vset {α : Type} {n : Nat} (v : Vector α (n + 1)) (i : Nat) (x y : α) : vset (vset v i x) i y = vset v i y := by
  simp [vset]

@[simp] theorem vset_vget {α : Type} {n : Nat} (v : Vector α (n + 1)) (i : Nat) : vset v i (vget v i) = v := by
  apply Vector.ext
  intro j hj
  simp only [vset, vget, Vector.get, Fin.ofNat, Vector.getElem_set]
  split
  · subst_vars; rfl
  · rfl

end Sys2Proof.Machine
end

