-- ==== Sys2Proof/Laws/State.lean ====
section
/-! SUPPORT. What each update of the state leaves alone: one lemma for each field and update, and reads after writes of cores, strands,
dies and channels. -/

namespace Sys2Proof.Machine

@[simp] theorem State.setCore_cur (s : State) (c : Nat) (k : Core) : (s.setCore c k).cur = s.cur := rfl
@[simp] theorem State.setCore_agenda (s : State) (c : Nat) (k : Core) : (s.setCore c k).agenda = s.agenda := rfl
@[simp] theorem State.setCore_tick (s : State) (c : Nat) (k : Core) : (s.setCore c k).tick = s.tick := rfl
@[simp] theorem State.setCore_mem (s : State) (c : Nat) (k : Core) : (s.setCore c k).mem = s.mem := rfl
@[simp] theorem State.setCore_farOld (s : State) (c : Nat) (k : Core) : (s.setCore c k).farOld = s.farOld := rfl
@[simp] theorem State.setCore_homeDirty (s : State) (c : Nat) (k : Core) : (s.setCore c k).homeDirty = s.homeDirty := rfl
@[simp] theorem State.setCore_mscDirty (s : State) (c : Nat) (k : Core) : (s.setCore c k).mscDirty = s.mscDirty := rfl
@[simp] theorem State.setCore_clean (s : State) (c : Nat) (k : Core) : (s.setCore c k).clean = s.clean := rfl
@[simp] theorem State.setCore_badSectors (s : State) (c : Nat) (k : Core) : (s.setCore c k).badSectors = s.badSectors := rfl
@[simp] theorem State.setCore_badFar (s : State) (c : Nat) (k : Core) : (s.setCore c k).badFar = s.badFar := rfl
@[simp] theorem State.setCore_badWords (s : State) (c : Nat) (k : Core) : (s.setCore c k).badWords = s.badWords := rfl
@[simp] theorem State.setCore_hostMem (s : State) (c : Nat) (k : Core) : (s.setCore c k).hostMem = s.hostMem := rfl
@[simp] theorem State.setCore_hostReads (s : State) (c : Nat) (k : Core) : (s.setCore c k).hostReads = s.hostReads := rfl
@[simp] theorem State.setCore_ctxTab (s : State) (c : Nat) (k : Core) : (s.setCore c k).ctxTab = s.ctxTab := rfl
@[simp] theorem State.setCore_devid (s : State) (c : Nat) (k : Core) : (s.setCore c k).devid = s.devid := rfl
@[simp] theorem State.setCore_inDom (s : State) (c : Nat) (k : Core) : (s.setCore c k).inDom = s.inDom := rfl
@[simp] theorem State.setCore_gm (s : State) (c : Nat) (k : Core) : (s.setCore c k).gm = s.gm := rfl
@[simp] theorem State.setCore_reach (s : State) (c : Nat) (k : Core) : (s.setCore c k).reach = s.reach := rfl
@[simp] theorem State.setCore_reroute (s : State) (c : Nat) (k : Core) : (s.setCore c k).reroute = s.reroute := rfl
@[simp] theorem State.setCore_linkErr (s : State) (c : Nat) (k : Core) : (s.setCore c k).linkErr = s.linkErr := rfl
@[simp] theorem State.setCore_links (s : State) (c : Nat) (k : Core) : (s.setCore c k).links = s.links := rfl
@[simp] theorem State.setCore_failed (s : State) (c : Nat) (k : Core) : (s.setCore c k).failed = s.failed := rfl
@[simp] theorem State.setCore_extents (s : State) (c : Nat) (k : Core) : (s.setCore c k).extents = s.extents := rfl
@[simp] theorem State.setCore_cxlRels (s : State) (c : Nat) (k : Core) : (s.setCore c k).cxlRels = s.cxlRels := rfl
@[simp] theorem State.setCore_darns (s : State) (c : Nat) (k : Core) : (s.setCore c k).darns = s.darns := rfl
@[simp] theorem State.setCore_darnFlash (s : State) (c : Nat) (k : Core) : (s.setCore c k).darnFlash = s.darnFlash := rfl
@[simp] theorem State.setCore_alarm (s : State) (c : Nat) (k : Core) : (s.setCore c k).alarm = s.alarm := rfl
@[simp] theorem State.setCore_keys (s : State) (c : Nat) (k : Core) : (s.setCore c k).keys = s.keys := rfl
@[simp] theorem State.setCore_debugLocked (s : State) (c : Nat) (k : Core) : (s.setCore c k).debugLocked = s.debugLocked := rfl
@[simp] theorem State.setCore_haltPolicy (s : State) (c : Nat) (k : Core) : (s.setCore c k).haltPolicy = s.haltPolicy := rfl
@[simp] theorem State.setCore_linksDown (s : State) (c : Nat) (k : Core) : (s.setCore c k).linksDown = s.linksDown := rfl
@[simp] theorem State.setCore_attest (s : State) (c : Nat) (k : Core) : (s.setCore c k).attest = s.attest := rfl
@[simp] theorem State.setCore_msix (s : State) (c : Nat) (k : Core) : (s.setCore c k).msix = s.msix := rfl
@[simp] theorem State.setCore_ref (s : State) (c : Nat) (k : Core) : (s.setCore c k).ref = s.ref := rfl
@[simp] theorem State.setCore_ready (s : State) (c : Nat) (k : Core) : (s.setCore c k).ready = s.ready := rfl
@[simp] theorem State.setCore_held (s : State) (c : Nat) (k : Core) : (s.setCore c k).held = s.held := rfl
@[simp] theorem State.setCore_gmTaken (s : State) (c : Nat) (k : Core) : (s.setCore c k).gmTaken = s.gmTaken := rfl
@[simp] theorem State.setCore_gmLock (s : State) (c : Nat) (k : Core) : (s.setCore c k).gmLock = s.gmLock := rfl
@[simp] theorem State.setCore_gmGood (s : State) (c : Nat) (k : Core) : (s.setCore c k).gmGood = s.gmGood := rfl
@[simp] theorem State.setCore_gmBad (s : State) (c : Nat) (k : Core) : (s.setCore c k).gmBad = s.gmBad := rfl
@[simp] theorem State.setCore_refAim (s : State) (c : Nat) (k : Core) : (s.setCore c k).refAim = s.refAim := rfl
@[simp] theorem State.setCore_refRem (s : State) (c : Nat) (k : Core) : (s.setCore c k).refRem = s.refRem := rfl
@[simp] theorem State.setCore_gens (s : State) (c : Nat) (k : Core) : (s.setCore c k).gens = s.gens := rfl
@[simp] theorem State.setCore_taken (s : State) (c : Nat) (k : Core) : (s.setCore c k).taken = s.taken := rfl
@[simp] theorem State.setCore_launches (s : State) (c : Nat) (k : Core) : (s.setCore c k).launches = s.launches := rfl
@[simp] theorem State.setCore_queues (s : State) (c : Nat) (k : Core) : (s.setCore c k).queues = s.queues := rfl
@[simp] theorem State.setCore_dies (s : State) (c : Nat) (k : Core) : (s.setCore c k).dies = s.dies := rfl
@[simp] theorem State.setCore_chans (s : State) (c : Nat) (k : Core) : (s.setCore c k).chans = s.chans := rfl
@[simp] theorem State.setCore_dram (s : State) (c : Nat) (k : Core) : (s.setCore c k).dram = s.dram := rfl
@[simp] theorem State.setCore_fars (s : State) (c : Nat) (k : Core) : (s.setCore c k).fars = s.fars := rfl
@[simp] theorem State.setCore_posted (s : State) (c : Nat) (k : Core) : (s.setCore c k).posted = s.posted := rfl
@[simp] theorem State.setCore_pushes (s : State) (c : Nat) (k : Core) : (s.setCore c k).pushes = s.pushes := rfl
@[simp] theorem State.setCore_comps (s : State) (c : Nat) (k : Core) : (s.setCore c k).comps = s.comps := rfl
@[simp] theorem State.setCore_joins (s : State) (c : Nat) (k : Core) : (s.setCore c k).joins = s.joins := rfl
@[simp] theorem State.setCore_spawns (s : State) (c : Nat) (k : Core) : (s.setCore c k).spawns = s.spawns := rfl
@[simp] theorem State.setCore_notices (s : State) (c : Nat) (k : Core) : (s.setCore c k).notices = s.notices := rfl
@[simp] theorem State.setCore_leaps (s : State) (c : Nat) (k : Core) : (s.setCore c k).leaps = s.leaps := rfl

@[simp] theorem State.modCore_cur (s : State) (c : Nat) (f : Core → Core) : (s.modCore c f).cur = s.cur := rfl
@[simp] theorem State.modCore_agenda (s : State) (c : Nat) (f : Core → Core) : (s.modCore c f).agenda = s.agenda := rfl
@[simp] theorem State.modCore_tick (s : State) (c : Nat) (f : Core → Core) : (s.modCore c f).tick = s.tick := rfl
@[simp] theorem State.modCore_mem (s : State) (c : Nat) (f : Core → Core) : (s.modCore c f).mem = s.mem := rfl
@[simp] theorem State.modCore_farOld (s : State) (c : Nat) (f : Core → Core) : (s.modCore c f).farOld = s.farOld := rfl
@[simp] theorem State.modCore_homeDirty (s : State) (c : Nat) (f : Core → Core) : (s.modCore c f).homeDirty = s.homeDirty := rfl
@[simp] theorem State.modCore_mscDirty (s : State) (c : Nat) (f : Core → Core) : (s.modCore c f).mscDirty = s.mscDirty := rfl
@[simp] theorem State.modCore_clean (s : State) (c : Nat) (f : Core → Core) : (s.modCore c f).clean = s.clean := rfl
@[simp] theorem State.modCore_badSectors (s : State) (c : Nat) (f : Core → Core) : (s.modCore c f).badSectors = s.badSectors := rfl
@[simp] theorem State.modCore_badFar (s : State) (c : Nat) (f : Core → Core) : (s.modCore c f).badFar = s.badFar := rfl
@[simp] theorem State.modCore_badWords (s : State) (c : Nat) (f : Core → Core) : (s.modCore c f).badWords = s.badWords := rfl
@[simp] theorem State.modCore_hostMem (s : State) (c : Nat) (f : Core → Core) : (s.modCore c f).hostMem = s.hostMem := rfl
@[simp] theorem State.modCore_hostReads (s : State) (c : Nat) (f : Core → Core) : (s.modCore c f).hostReads = s.hostReads := rfl
@[simp] theorem State.modCore_ctxTab (s : State) (c : Nat) (f : Core → Core) : (s.modCore c f).ctxTab = s.ctxTab := rfl
@[simp] theorem State.modCore_devid (s : State) (c : Nat) (f : Core → Core) : (s.modCore c f).devid = s.devid := rfl
@[simp] theorem State.modCore_inDom (s : State) (c : Nat) (f : Core → Core) : (s.modCore c f).inDom = s.inDom := rfl
@[simp] theorem State.modCore_gm (s : State) (c : Nat) (f : Core → Core) : (s.modCore c f).gm = s.gm := rfl
@[simp] theorem State.modCore_reach (s : State) (c : Nat) (f : Core → Core) : (s.modCore c f).reach = s.reach := rfl
@[simp] theorem State.modCore_reroute (s : State) (c : Nat) (f : Core → Core) : (s.modCore c f).reroute = s.reroute := rfl
@[simp] theorem State.modCore_linkErr (s : State) (c : Nat) (f : Core → Core) : (s.modCore c f).linkErr = s.linkErr := rfl
@[simp] theorem State.modCore_links (s : State) (c : Nat) (f : Core → Core) : (s.modCore c f).links = s.links := rfl
@[simp] theorem State.modCore_failed (s : State) (c : Nat) (f : Core → Core) : (s.modCore c f).failed = s.failed := rfl
@[simp] theorem State.modCore_extents (s : State) (c : Nat) (f : Core → Core) : (s.modCore c f).extents = s.extents := rfl
@[simp] theorem State.modCore_cxlRels (s : State) (c : Nat) (f : Core → Core) : (s.modCore c f).cxlRels = s.cxlRels := rfl
@[simp] theorem State.modCore_darns (s : State) (c : Nat) (f : Core → Core) : (s.modCore c f).darns = s.darns := rfl
@[simp] theorem State.modCore_darnFlash (s : State) (c : Nat) (f : Core → Core) : (s.modCore c f).darnFlash = s.darnFlash := rfl
@[simp] theorem State.modCore_alarm (s : State) (c : Nat) (f : Core → Core) : (s.modCore c f).alarm = s.alarm := rfl
@[simp] theorem State.modCore_keys (s : State) (c : Nat) (f : Core → Core) : (s.modCore c f).keys = s.keys := rfl
@[simp] theorem State.modCore_debugLocked (s : State) (c : Nat) (f : Core → Core) : (s.modCore c f).debugLocked = s.debugLocked := rfl
@[simp] theorem State.modCore_haltPolicy (s : State) (c : Nat) (f : Core → Core) : (s.modCore c f).haltPolicy = s.haltPolicy := rfl
@[simp] theorem State.modCore_linksDown (s : State) (c : Nat) (f : Core → Core) : (s.modCore c f).linksDown = s.linksDown := rfl
@[simp] theorem State.modCore_attest (s : State) (c : Nat) (f : Core → Core) : (s.modCore c f).attest = s.attest := rfl
@[simp] theorem State.modCore_msix (s : State) (c : Nat) (f : Core → Core) : (s.modCore c f).msix = s.msix := rfl
@[simp] theorem State.modCore_ref (s : State) (c : Nat) (f : Core → Core) : (s.modCore c f).ref = s.ref := rfl
@[simp] theorem State.modCore_ready (s : State) (c : Nat) (f : Core → Core) : (s.modCore c f).ready = s.ready := rfl
@[simp] theorem State.modCore_held (s : State) (c : Nat) (f : Core → Core) : (s.modCore c f).held = s.held := rfl
@[simp] theorem State.modCore_gmTaken (s : State) (c : Nat) (f : Core → Core) : (s.modCore c f).gmTaken = s.gmTaken := rfl
@[simp] theorem State.modCore_gmLock (s : State) (c : Nat) (f : Core → Core) : (s.modCore c f).gmLock = s.gmLock := rfl
@[simp] theorem State.modCore_gmGood (s : State) (c : Nat) (f : Core → Core) : (s.modCore c f).gmGood = s.gmGood := rfl
@[simp] theorem State.modCore_gmBad (s : State) (c : Nat) (f : Core → Core) : (s.modCore c f).gmBad = s.gmBad := rfl
@[simp] theorem State.modCore_refAim (s : State) (c : Nat) (f : Core → Core) : (s.modCore c f).refAim = s.refAim := rfl
@[simp] theorem State.modCore_refRem (s : State) (c : Nat) (f : Core → Core) : (s.modCore c f).refRem = s.refRem := rfl
@[simp] theorem State.modCore_gens (s : State) (c : Nat) (f : Core → Core) : (s.modCore c f).gens = s.gens := rfl
@[simp] theorem State.modCore_taken (s : State) (c : Nat) (f : Core → Core) : (s.modCore c f).taken = s.taken := rfl
@[simp] theorem State.modCore_launches (s : State) (c : Nat) (f : Core → Core) : (s.modCore c f).launches = s.launches := rfl
@[simp] theorem State.modCore_queues (s : State) (c : Nat) (f : Core → Core) : (s.modCore c f).queues = s.queues := rfl
@[simp] theorem State.modCore_dies (s : State) (c : Nat) (f : Core → Core) : (s.modCore c f).dies = s.dies := rfl
@[simp] theorem State.modCore_chans (s : State) (c : Nat) (f : Core → Core) : (s.modCore c f).chans = s.chans := rfl
@[simp] theorem State.modCore_dram (s : State) (c : Nat) (f : Core → Core) : (s.modCore c f).dram = s.dram := rfl
@[simp] theorem State.modCore_fars (s : State) (c : Nat) (f : Core → Core) : (s.modCore c f).fars = s.fars := rfl
@[simp] theorem State.modCore_posted (s : State) (c : Nat) (f : Core → Core) : (s.modCore c f).posted = s.posted := rfl
@[simp] theorem State.modCore_pushes (s : State) (c : Nat) (f : Core → Core) : (s.modCore c f).pushes = s.pushes := rfl
@[simp] theorem State.modCore_comps (s : State) (c : Nat) (f : Core → Core) : (s.modCore c f).comps = s.comps := rfl
@[simp] theorem State.modCore_joins (s : State) (c : Nat) (f : Core → Core) : (s.modCore c f).joins = s.joins := rfl
@[simp] theorem State.modCore_spawns (s : State) (c : Nat) (f : Core → Core) : (s.modCore c f).spawns = s.spawns := rfl
@[simp] theorem State.modCore_notices (s : State) (c : Nat) (f : Core → Core) : (s.modCore c f).notices = s.notices := rfl
@[simp] theorem State.modCore_leaps (s : State) (c : Nat) (f : Core → Core) : (s.modCore c f).leaps = s.leaps := rfl

@[simp] theorem State.setStrand_cur (s : State) (c l : Nat) (x : Strand) : (s.setStrand c l x).cur = s.cur := rfl
@[simp] theorem State.setStrand_agenda (s : State) (c l : Nat) (x : Strand) : (s.setStrand c l x).agenda = s.agenda := rfl
@[simp] theorem State.setStrand_tick (s : State) (c l : Nat) (x : Strand) : (s.setStrand c l x).tick = s.tick := rfl
@[simp] theorem State.setStrand_mem (s : State) (c l : Nat) (x : Strand) : (s.setStrand c l x).mem = s.mem := rfl
@[simp] theorem State.setStrand_farOld (s : State) (c l : Nat) (x : Strand) : (s.setStrand c l x).farOld = s.farOld := rfl
@[simp] theorem State.setStrand_homeDirty (s : State) (c l : Nat) (x : Strand) : (s.setStrand c l x).homeDirty = s.homeDirty := rfl
@[simp] theorem State.setStrand_mscDirty (s : State) (c l : Nat) (x : Strand) : (s.setStrand c l x).mscDirty = s.mscDirty := rfl
@[simp] theorem State.setStrand_clean (s : State) (c l : Nat) (x : Strand) : (s.setStrand c l x).clean = s.clean := rfl
@[simp] theorem State.setStrand_badSectors (s : State) (c l : Nat) (x : Strand) : (s.setStrand c l x).badSectors = s.badSectors := rfl
@[simp] theorem State.setStrand_badFar (s : State) (c l : Nat) (x : Strand) : (s.setStrand c l x).badFar = s.badFar := rfl
@[simp] theorem State.setStrand_badWords (s : State) (c l : Nat) (x : Strand) : (s.setStrand c l x).badWords = s.badWords := rfl
@[simp] theorem State.setStrand_hostMem (s : State) (c l : Nat) (x : Strand) : (s.setStrand c l x).hostMem = s.hostMem := rfl
@[simp] theorem State.setStrand_hostReads (s : State) (c l : Nat) (x : Strand) : (s.setStrand c l x).hostReads = s.hostReads := rfl
@[simp] theorem State.setStrand_ctxTab (s : State) (c l : Nat) (x : Strand) : (s.setStrand c l x).ctxTab = s.ctxTab := rfl
@[simp] theorem State.setStrand_devid (s : State) (c l : Nat) (x : Strand) : (s.setStrand c l x).devid = s.devid := rfl
@[simp] theorem State.setStrand_inDom (s : State) (c l : Nat) (x : Strand) : (s.setStrand c l x).inDom = s.inDom := rfl
@[simp] theorem State.setStrand_gm (s : State) (c l : Nat) (x : Strand) : (s.setStrand c l x).gm = s.gm := rfl
@[simp] theorem State.setStrand_reach (s : State) (c l : Nat) (x : Strand) : (s.setStrand c l x).reach = s.reach := rfl
@[simp] theorem State.setStrand_reroute (s : State) (c l : Nat) (x : Strand) : (s.setStrand c l x).reroute = s.reroute := rfl
@[simp] theorem State.setStrand_linkErr (s : State) (c l : Nat) (x : Strand) : (s.setStrand c l x).linkErr = s.linkErr := rfl
@[simp] theorem State.setStrand_links (s : State) (c l : Nat) (x : Strand) : (s.setStrand c l x).links = s.links := rfl
@[simp] theorem State.setStrand_failed (s : State) (c l : Nat) (x : Strand) : (s.setStrand c l x).failed = s.failed := rfl
@[simp] theorem State.setStrand_extents (s : State) (c l : Nat) (x : Strand) : (s.setStrand c l x).extents = s.extents := rfl
@[simp] theorem State.setStrand_cxlRels (s : State) (c l : Nat) (x : Strand) : (s.setStrand c l x).cxlRels = s.cxlRels := rfl
@[simp] theorem State.setStrand_darns (s : State) (c l : Nat) (x : Strand) : (s.setStrand c l x).darns = s.darns := rfl
@[simp] theorem State.setStrand_darnFlash (s : State) (c l : Nat) (x : Strand) : (s.setStrand c l x).darnFlash = s.darnFlash := rfl
@[simp] theorem State.setStrand_alarm (s : State) (c l : Nat) (x : Strand) : (s.setStrand c l x).alarm = s.alarm := rfl
@[simp] theorem State.setStrand_keys (s : State) (c l : Nat) (x : Strand) : (s.setStrand c l x).keys = s.keys := rfl
@[simp] theorem State.setStrand_debugLocked (s : State) (c l : Nat) (x : Strand) : (s.setStrand c l x).debugLocked = s.debugLocked := rfl
@[simp] theorem State.setStrand_haltPolicy (s : State) (c l : Nat) (x : Strand) : (s.setStrand c l x).haltPolicy = s.haltPolicy := rfl
@[simp] theorem State.setStrand_linksDown (s : State) (c l : Nat) (x : Strand) : (s.setStrand c l x).linksDown = s.linksDown := rfl
@[simp] theorem State.setStrand_attest (s : State) (c l : Nat) (x : Strand) : (s.setStrand c l x).attest = s.attest := rfl
@[simp] theorem State.setStrand_msix (s : State) (c l : Nat) (x : Strand) : (s.setStrand c l x).msix = s.msix := rfl
@[simp] theorem State.setStrand_ref (s : State) (c l : Nat) (x : Strand) : (s.setStrand c l x).ref = s.ref := rfl
@[simp] theorem State.setStrand_ready (s : State) (c l : Nat) (x : Strand) : (s.setStrand c l x).ready = s.ready := rfl
@[simp] theorem State.setStrand_held (s : State) (c l : Nat) (x : Strand) : (s.setStrand c l x).held = s.held := rfl
@[simp] theorem State.setStrand_gmTaken (s : State) (c l : Nat) (x : Strand) : (s.setStrand c l x).gmTaken = s.gmTaken := rfl
@[simp] theorem State.setStrand_gmLock (s : State) (c l : Nat) (x : Strand) : (s.setStrand c l x).gmLock = s.gmLock := rfl
@[simp] theorem State.setStrand_gmGood (s : State) (c l : Nat) (x : Strand) : (s.setStrand c l x).gmGood = s.gmGood := rfl
@[simp] theorem State.setStrand_gmBad (s : State) (c l : Nat) (x : Strand) : (s.setStrand c l x).gmBad = s.gmBad := rfl
@[simp] theorem State.setStrand_refAim (s : State) (c l : Nat) (x : Strand) : (s.setStrand c l x).refAim = s.refAim := rfl
@[simp] theorem State.setStrand_refRem (s : State) (c l : Nat) (x : Strand) : (s.setStrand c l x).refRem = s.refRem := rfl
@[simp] theorem State.setStrand_gens (s : State) (c l : Nat) (x : Strand) : (s.setStrand c l x).gens = s.gens := rfl
@[simp] theorem State.setStrand_taken (s : State) (c l : Nat) (x : Strand) : (s.setStrand c l x).taken = s.taken := rfl
@[simp] theorem State.setStrand_launches (s : State) (c l : Nat) (x : Strand) : (s.setStrand c l x).launches = s.launches := rfl
@[simp] theorem State.setStrand_queues (s : State) (c l : Nat) (x : Strand) : (s.setStrand c l x).queues = s.queues := rfl
@[simp] theorem State.setStrand_dies (s : State) (c l : Nat) (x : Strand) : (s.setStrand c l x).dies = s.dies := rfl
@[simp] theorem State.setStrand_chans (s : State) (c l : Nat) (x : Strand) : (s.setStrand c l x).chans = s.chans := rfl
@[simp] theorem State.setStrand_dram (s : State) (c l : Nat) (x : Strand) : (s.setStrand c l x).dram = s.dram := rfl
@[simp] theorem State.setStrand_fars (s : State) (c l : Nat) (x : Strand) : (s.setStrand c l x).fars = s.fars := rfl
@[simp] theorem State.setStrand_posted (s : State) (c l : Nat) (x : Strand) : (s.setStrand c l x).posted = s.posted := rfl
@[simp] theorem State.setStrand_pushes (s : State) (c l : Nat) (x : Strand) : (s.setStrand c l x).pushes = s.pushes := rfl
@[simp] theorem State.setStrand_comps (s : State) (c l : Nat) (x : Strand) : (s.setStrand c l x).comps = s.comps := rfl
@[simp] theorem State.setStrand_joins (s : State) (c l : Nat) (x : Strand) : (s.setStrand c l x).joins = s.joins := rfl
@[simp] theorem State.setStrand_spawns (s : State) (c l : Nat) (x : Strand) : (s.setStrand c l x).spawns = s.spawns := rfl
@[simp] theorem State.setStrand_notices (s : State) (c l : Nat) (x : Strand) : (s.setStrand c l x).notices = s.notices := rfl
@[simp] theorem State.setStrand_leaps (s : State) (c l : Nat) (x : Strand) : (s.setStrand c l x).leaps = s.leaps := rfl

@[simp] theorem State.modStrand_cur (s : State) (c l : Nat) (f : Strand → Strand) : (s.modStrand c l f).cur = s.cur := rfl
@[simp] theorem State.modStrand_agenda (s : State) (c l : Nat) (f : Strand → Strand) : (s.modStrand c l f).agenda = s.agenda := rfl
@[simp] theorem State.modStrand_tick (s : State) (c l : Nat) (f : Strand → Strand) : (s.modStrand c l f).tick = s.tick := rfl
@[simp] theorem State.modStrand_mem (s : State) (c l : Nat) (f : Strand → Strand) : (s.modStrand c l f).mem = s.mem := rfl
@[simp] theorem State.modStrand_farOld (s : State) (c l : Nat) (f : Strand → Strand) : (s.modStrand c l f).farOld = s.farOld := rfl
@[simp] theorem State.modStrand_homeDirty (s : State) (c l : Nat) (f : Strand → Strand) : (s.modStrand c l f).homeDirty = s.homeDirty := rfl
@[simp] theorem State.modStrand_mscDirty (s : State) (c l : Nat) (f : Strand → Strand) : (s.modStrand c l f).mscDirty = s.mscDirty := rfl
@[simp] theorem State.modStrand_clean (s : State) (c l : Nat) (f : Strand → Strand) : (s.modStrand c l f).clean = s.clean := rfl
@[simp] theorem State.modStrand_badSectors (s : State) (c l : Nat) (f : Strand → Strand) : (s.modStrand c l f).badSectors = s.badSectors := rfl
@[simp] theorem State.modStrand_badFar (s : State) (c l : Nat) (f : Strand → Strand) : (s.modStrand c l f).badFar = s.badFar := rfl
@[simp] theorem State.modStrand_badWords (s : State) (c l : Nat) (f : Strand → Strand) : (s.modStrand c l f).badWords = s.badWords := rfl
@[simp] theorem State.modStrand_hostMem (s : State) (c l : Nat) (f : Strand → Strand) : (s.modStrand c l f).hostMem = s.hostMem := rfl
@[simp] theorem State.modStrand_hostReads (s : State) (c l : Nat) (f : Strand → Strand) : (s.modStrand c l f).hostReads = s.hostReads := rfl
@[simp] theorem State.modStrand_ctxTab (s : State) (c l : Nat) (f : Strand → Strand) : (s.modStrand c l f).ctxTab = s.ctxTab := rfl
@[simp] theorem State.modStrand_devid (s : State) (c l : Nat) (f : Strand → Strand) : (s.modStrand c l f).devid = s.devid := rfl
@[simp] theorem State.modStrand_inDom (s : State) (c l : Nat) (f : Strand → Strand) : (s.modStrand c l f).inDom = s.inDom := rfl
@[simp] theorem State.modStrand_gm (s : State) (c l : Nat) (f : Strand → Strand) : (s.modStrand c l f).gm = s.gm := rfl
@[simp] theorem State.modStrand_reach (s : State) (c l : Nat) (f : Strand → Strand) : (s.modStrand c l f).reach = s.reach := rfl
@[simp] theorem State.modStrand_reroute (s : State) (c l : Nat) (f : Strand → Strand) : (s.modStrand c l f).reroute = s.reroute := rfl
@[simp] theorem State.modStrand_linkErr (s : State) (c l : Nat) (f : Strand → Strand) : (s.modStrand c l f).linkErr = s.linkErr := rfl
@[simp] theorem State.modStrand_links (s : State) (c l : Nat) (f : Strand → Strand) : (s.modStrand c l f).links = s.links := rfl
@[simp] theorem State.modStrand_failed (s : State) (c l : Nat) (f : Strand → Strand) : (s.modStrand c l f).failed = s.failed := rfl
@[simp] theorem State.modStrand_extents (s : State) (c l : Nat) (f : Strand → Strand) : (s.modStrand c l f).extents = s.extents := rfl
@[simp] theorem State.modStrand_cxlRels (s : State) (c l : Nat) (f : Strand → Strand) : (s.modStrand c l f).cxlRels = s.cxlRels := rfl
@[simp] theorem State.modStrand_darns (s : State) (c l : Nat) (f : Strand → Strand) : (s.modStrand c l f).darns = s.darns := rfl
@[simp] theorem State.modStrand_darnFlash (s : State) (c l : Nat) (f : Strand → Strand) : (s.modStrand c l f).darnFlash = s.darnFlash := rfl
@[simp] theorem State.modStrand_alarm (s : State) (c l : Nat) (f : Strand → Strand) : (s.modStrand c l f).alarm = s.alarm := rfl
@[simp] theorem State.modStrand_keys (s : State) (c l : Nat) (f : Strand → Strand) : (s.modStrand c l f).keys = s.keys := rfl
@[simp] theorem State.modStrand_debugLocked (s : State) (c l : Nat) (f : Strand → Strand) : (s.modStrand c l f).debugLocked = s.debugLocked := rfl
@[simp] theorem State.modStrand_haltPolicy (s : State) (c l : Nat) (f : Strand → Strand) : (s.modStrand c l f).haltPolicy = s.haltPolicy := rfl
@[simp] theorem State.modStrand_linksDown (s : State) (c l : Nat) (f : Strand → Strand) : (s.modStrand c l f).linksDown = s.linksDown := rfl
@[simp] theorem State.modStrand_attest (s : State) (c l : Nat) (f : Strand → Strand) : (s.modStrand c l f).attest = s.attest := rfl
@[simp] theorem State.modStrand_msix (s : State) (c l : Nat) (f : Strand → Strand) : (s.modStrand c l f).msix = s.msix := rfl
@[simp] theorem State.modStrand_ref (s : State) (c l : Nat) (f : Strand → Strand) : (s.modStrand c l f).ref = s.ref := rfl
@[simp] theorem State.modStrand_ready (s : State) (c l : Nat) (f : Strand → Strand) : (s.modStrand c l f).ready = s.ready := rfl
@[simp] theorem State.modStrand_held (s : State) (c l : Nat) (f : Strand → Strand) : (s.modStrand c l f).held = s.held := rfl
@[simp] theorem State.modStrand_gmTaken (s : State) (c l : Nat) (f : Strand → Strand) : (s.modStrand c l f).gmTaken = s.gmTaken := rfl
@[simp] theorem State.modStrand_gmLock (s : State) (c l : Nat) (f : Strand → Strand) : (s.modStrand c l f).gmLock = s.gmLock := rfl
@[simp] theorem State.modStrand_gmGood (s : State) (c l : Nat) (f : Strand → Strand) : (s.modStrand c l f).gmGood = s.gmGood := rfl
@[simp] theorem State.modStrand_gmBad (s : State) (c l : Nat) (f : Strand → Strand) : (s.modStrand c l f).gmBad = s.gmBad := rfl
@[simp] theorem State.modStrand_refAim (s : State) (c l : Nat) (f : Strand → Strand) : (s.modStrand c l f).refAim = s.refAim := rfl
@[simp] theorem State.modStrand_refRem (s : State) (c l : Nat) (f : Strand → Strand) : (s.modStrand c l f).refRem = s.refRem := rfl
@[simp] theorem State.modStrand_gens (s : State) (c l : Nat) (f : Strand → Strand) : (s.modStrand c l f).gens = s.gens := rfl
@[simp] theorem State.modStrand_taken (s : State) (c l : Nat) (f : Strand → Strand) : (s.modStrand c l f).taken = s.taken := rfl
@[simp] theorem State.modStrand_launches (s : State) (c l : Nat) (f : Strand → Strand) : (s.modStrand c l f).launches = s.launches := rfl
@[simp] theorem State.modStrand_queues (s : State) (c l : Nat) (f : Strand → Strand) : (s.modStrand c l f).queues = s.queues := rfl
@[simp] theorem State.modStrand_dies (s : State) (c l : Nat) (f : Strand → Strand) : (s.modStrand c l f).dies = s.dies := rfl
@[simp] theorem State.modStrand_chans (s : State) (c l : Nat) (f : Strand → Strand) : (s.modStrand c l f).chans = s.chans := rfl
@[simp] theorem State.modStrand_dram (s : State) (c l : Nat) (f : Strand → Strand) : (s.modStrand c l f).dram = s.dram := rfl
@[simp] theorem State.modStrand_fars (s : State) (c l : Nat) (f : Strand → Strand) : (s.modStrand c l f).fars = s.fars := rfl
@[simp] theorem State.modStrand_posted (s : State) (c l : Nat) (f : Strand → Strand) : (s.modStrand c l f).posted = s.posted := rfl
@[simp] theorem State.modStrand_pushes (s : State) (c l : Nat) (f : Strand → Strand) : (s.modStrand c l f).pushes = s.pushes := rfl
@[simp] theorem State.modStrand_comps (s : State) (c l : Nat) (f : Strand → Strand) : (s.modStrand c l f).comps = s.comps := rfl
@[simp] theorem State.modStrand_joins (s : State) (c l : Nat) (f : Strand → Strand) : (s.modStrand c l f).joins = s.joins := rfl
@[simp] theorem State.modStrand_spawns (s : State) (c l : Nat) (f : Strand → Strand) : (s.modStrand c l f).spawns = s.spawns := rfl
@[simp] theorem State.modStrand_notices (s : State) (c l : Nat) (f : Strand → Strand) : (s.modStrand c l f).notices = s.notices := rfl
@[simp] theorem State.modStrand_leaps (s : State) (c l : Nat) (f : Strand → Strand) : (s.modStrand c l f).leaps = s.leaps := rfl

@[simp] theorem State.retireNext_cur (s : State) (c l : Nat) : (s.retireNext c l).cur = s.cur := rfl
@[simp] theorem State.retireNext_agenda (s : State) (c l : Nat) : (s.retireNext c l).agenda = s.agenda := rfl
@[simp] theorem State.retireNext_tick (s : State) (c l : Nat) : (s.retireNext c l).tick = s.tick := rfl
@[simp] theorem State.retireNext_mem (s : State) (c l : Nat) : (s.retireNext c l).mem = s.mem := rfl
@[simp] theorem State.retireNext_farOld (s : State) (c l : Nat) : (s.retireNext c l).farOld = s.farOld := rfl
@[simp] theorem State.retireNext_homeDirty (s : State) (c l : Nat) : (s.retireNext c l).homeDirty = s.homeDirty := rfl
@[simp] theorem State.retireNext_mscDirty (s : State) (c l : Nat) : (s.retireNext c l).mscDirty = s.mscDirty := rfl
@[simp] theorem State.retireNext_clean (s : State) (c l : Nat) : (s.retireNext c l).clean = s.clean := rfl
@[simp] theorem State.retireNext_badSectors (s : State) (c l : Nat) : (s.retireNext c l).badSectors = s.badSectors := rfl
@[simp] theorem State.retireNext_badFar (s : State) (c l : Nat) : (s.retireNext c l).badFar = s.badFar := rfl
@[simp] theorem State.retireNext_badWords (s : State) (c l : Nat) : (s.retireNext c l).badWords = s.badWords := rfl
@[simp] theorem State.retireNext_hostMem (s : State) (c l : Nat) : (s.retireNext c l).hostMem = s.hostMem := rfl
@[simp] theorem State.retireNext_hostReads (s : State) (c l : Nat) : (s.retireNext c l).hostReads = s.hostReads := rfl
@[simp] theorem State.retireNext_ctxTab (s : State) (c l : Nat) : (s.retireNext c l).ctxTab = s.ctxTab := rfl
@[simp] theorem State.retireNext_devid (s : State) (c l : Nat) : (s.retireNext c l).devid = s.devid := rfl
@[simp] theorem State.retireNext_inDom (s : State) (c l : Nat) : (s.retireNext c l).inDom = s.inDom := rfl
@[simp] theorem State.retireNext_gm (s : State) (c l : Nat) : (s.retireNext c l).gm = s.gm := rfl
@[simp] theorem State.retireNext_reach (s : State) (c l : Nat) : (s.retireNext c l).reach = s.reach := rfl
@[simp] theorem State.retireNext_reroute (s : State) (c l : Nat) : (s.retireNext c l).reroute = s.reroute := rfl
@[simp] theorem State.retireNext_linkErr (s : State) (c l : Nat) : (s.retireNext c l).linkErr = s.linkErr := rfl
@[simp] theorem State.retireNext_links (s : State) (c l : Nat) : (s.retireNext c l).links = s.links := rfl
@[simp] theorem State.retireNext_failed (s : State) (c l : Nat) : (s.retireNext c l).failed = s.failed := rfl
@[simp] theorem State.retireNext_extents (s : State) (c l : Nat) : (s.retireNext c l).extents = s.extents := rfl
@[simp] theorem State.retireNext_cxlRels (s : State) (c l : Nat) : (s.retireNext c l).cxlRels = s.cxlRels := rfl
@[simp] theorem State.retireNext_darns (s : State) (c l : Nat) : (s.retireNext c l).darns = s.darns := rfl
@[simp] theorem State.retireNext_darnFlash (s : State) (c l : Nat) : (s.retireNext c l).darnFlash = s.darnFlash := rfl
@[simp] theorem State.retireNext_alarm (s : State) (c l : Nat) : (s.retireNext c l).alarm = s.alarm := rfl
@[simp] theorem State.retireNext_keys (s : State) (c l : Nat) : (s.retireNext c l).keys = s.keys := rfl
@[simp] theorem State.retireNext_debugLocked (s : State) (c l : Nat) : (s.retireNext c l).debugLocked = s.debugLocked := rfl
@[simp] theorem State.retireNext_haltPolicy (s : State) (c l : Nat) : (s.retireNext c l).haltPolicy = s.haltPolicy := rfl
@[simp] theorem State.retireNext_linksDown (s : State) (c l : Nat) : (s.retireNext c l).linksDown = s.linksDown := rfl
@[simp] theorem State.retireNext_attest (s : State) (c l : Nat) : (s.retireNext c l).attest = s.attest := rfl
@[simp] theorem State.retireNext_msix (s : State) (c l : Nat) : (s.retireNext c l).msix = s.msix := rfl
@[simp] theorem State.retireNext_ref (s : State) (c l : Nat) : (s.retireNext c l).ref = s.ref := rfl
@[simp] theorem State.retireNext_ready (s : State) (c l : Nat) : (s.retireNext c l).ready = s.ready := rfl
@[simp] theorem State.retireNext_held (s : State) (c l : Nat) : (s.retireNext c l).held = s.held := rfl
@[simp] theorem State.retireNext_gmTaken (s : State) (c l : Nat) : (s.retireNext c l).gmTaken = s.gmTaken := rfl
@[simp] theorem State.retireNext_gmLock (s : State) (c l : Nat) : (s.retireNext c l).gmLock = s.gmLock := rfl
@[simp] theorem State.retireNext_gmGood (s : State) (c l : Nat) : (s.retireNext c l).gmGood = s.gmGood := rfl
@[simp] theorem State.retireNext_gmBad (s : State) (c l : Nat) : (s.retireNext c l).gmBad = s.gmBad := rfl
@[simp] theorem State.retireNext_refAim (s : State) (c l : Nat) : (s.retireNext c l).refAim = s.refAim := rfl
@[simp] theorem State.retireNext_refRem (s : State) (c l : Nat) : (s.retireNext c l).refRem = s.refRem := rfl
@[simp] theorem State.retireNext_gens (s : State) (c l : Nat) : (s.retireNext c l).gens = s.gens := rfl
@[simp] theorem State.retireNext_taken (s : State) (c l : Nat) : (s.retireNext c l).taken = s.taken := rfl
@[simp] theorem State.retireNext_launches (s : State) (c l : Nat) : (s.retireNext c l).launches = s.launches := rfl
@[simp] theorem State.retireNext_queues (s : State) (c l : Nat) : (s.retireNext c l).queues = s.queues := rfl
@[simp] theorem State.retireNext_dies (s : State) (c l : Nat) : (s.retireNext c l).dies = s.dies := rfl
@[simp] theorem State.retireNext_chans (s : State) (c l : Nat) : (s.retireNext c l).chans = s.chans := rfl
@[simp] theorem State.retireNext_dram (s : State) (c l : Nat) : (s.retireNext c l).dram = s.dram := rfl
@[simp] theorem State.retireNext_fars (s : State) (c l : Nat) : (s.retireNext c l).fars = s.fars := rfl
@[simp] theorem State.retireNext_posted (s : State) (c l : Nat) : (s.retireNext c l).posted = s.posted := rfl
@[simp] theorem State.retireNext_pushes (s : State) (c l : Nat) : (s.retireNext c l).pushes = s.pushes := rfl
@[simp] theorem State.retireNext_comps (s : State) (c l : Nat) : (s.retireNext c l).comps = s.comps := rfl
@[simp] theorem State.retireNext_joins (s : State) (c l : Nat) : (s.retireNext c l).joins = s.joins := rfl
@[simp] theorem State.retireNext_spawns (s : State) (c l : Nat) : (s.retireNext c l).spawns = s.spawns := rfl
@[simp] theorem State.retireNext_notices (s : State) (c l : Nat) : (s.retireNext c l).notices = s.notices := rfl
@[simp] theorem State.retireNext_leaps (s : State) (c l : Nat) : (s.retireNext c l).leaps = s.leaps := rfl

@[simp] theorem State.parkStrand_cur (s : State) (c l : Nat) (p : Park) : (s.parkStrand c l p).cur = s.cur := rfl
@[simp] theorem State.parkStrand_agenda (s : State) (c l : Nat) (p : Park) : (s.parkStrand c l p).agenda = s.agenda := rfl
@[simp] theorem State.parkStrand_tick (s : State) (c l : Nat) (p : Park) : (s.parkStrand c l p).tick = s.tick := rfl
@[simp] theorem State.parkStrand_mem (s : State) (c l : Nat) (p : Park) : (s.parkStrand c l p).mem = s.mem := rfl
@[simp] theorem State.parkStrand_farOld (s : State) (c l : Nat) (p : Park) : (s.parkStrand c l p).farOld = s.farOld := rfl
@[simp] theorem State.parkStrand_homeDirty (s : State) (c l : Nat) (p : Park) : (s.parkStrand c l p).homeDirty = s.homeDirty := rfl
@[simp] theorem State.parkStrand_mscDirty (s : State) (c l : Nat) (p : Park) : (s.parkStrand c l p).mscDirty = s.mscDirty := rfl
@[simp] theorem State.parkStrand_clean (s : State) (c l : Nat) (p : Park) : (s.parkStrand c l p).clean = s.clean := rfl
@[simp] theorem State.parkStrand_badSectors (s : State) (c l : Nat) (p : Park) : (s.parkStrand c l p).badSectors = s.badSectors := rfl
@[simp] theorem State.parkStrand_badFar (s : State) (c l : Nat) (p : Park) : (s.parkStrand c l p).badFar = s.badFar := rfl
@[simp] theorem State.parkStrand_badWords (s : State) (c l : Nat) (p : Park) : (s.parkStrand c l p).badWords = s.badWords := rfl
@[simp] theorem State.parkStrand_hostMem (s : State) (c l : Nat) (p : Park) : (s.parkStrand c l p).hostMem = s.hostMem := rfl
@[simp] theorem State.parkStrand_hostReads (s : State) (c l : Nat) (p : Park) : (s.parkStrand c l p).hostReads = s.hostReads := rfl
@[simp] theorem State.parkStrand_ctxTab (s : State) (c l : Nat) (p : Park) : (s.parkStrand c l p).ctxTab = s.ctxTab := rfl
@[simp] theorem State.parkStrand_devid (s : State) (c l : Nat) (p : Park) : (s.parkStrand c l p).devid = s.devid := rfl
@[simp] theorem State.parkStrand_inDom (s : State) (c l : Nat) (p : Park) : (s.parkStrand c l p).inDom = s.inDom := rfl
@[simp] theorem State.parkStrand_gm (s : State) (c l : Nat) (p : Park) : (s.parkStrand c l p).gm = s.gm := rfl
@[simp] theorem State.parkStrand_reach (s : State) (c l : Nat) (p : Park) : (s.parkStrand c l p).reach = s.reach := rfl
@[simp] theorem State.parkStrand_reroute (s : State) (c l : Nat) (p : Park) : (s.parkStrand c l p).reroute = s.reroute := rfl
@[simp] theorem State.parkStrand_linkErr (s : State) (c l : Nat) (p : Park) : (s.parkStrand c l p).linkErr = s.linkErr := rfl
@[simp] theorem State.parkStrand_links (s : State) (c l : Nat) (p : Park) : (s.parkStrand c l p).links = s.links := rfl
@[simp] theorem State.parkStrand_failed (s : State) (c l : Nat) (p : Park) : (s.parkStrand c l p).failed = s.failed := rfl
@[simp] theorem State.parkStrand_extents (s : State) (c l : Nat) (p : Park) : (s.parkStrand c l p).extents = s.extents := rfl
@[simp] theorem State.parkStrand_cxlRels (s : State) (c l : Nat) (p : Park) : (s.parkStrand c l p).cxlRels = s.cxlRels := rfl
@[simp] theorem State.parkStrand_darns (s : State) (c l : Nat) (p : Park) : (s.parkStrand c l p).darns = s.darns := rfl
@[simp] theorem State.parkStrand_darnFlash (s : State) (c l : Nat) (p : Park) : (s.parkStrand c l p).darnFlash = s.darnFlash := rfl
@[simp] theorem State.parkStrand_alarm (s : State) (c l : Nat) (p : Park) : (s.parkStrand c l p).alarm = s.alarm := rfl
@[simp] theorem State.parkStrand_keys (s : State) (c l : Nat) (p : Park) : (s.parkStrand c l p).keys = s.keys := rfl
@[simp] theorem State.parkStrand_debugLocked (s : State) (c l : Nat) (p : Park) : (s.parkStrand c l p).debugLocked = s.debugLocked := rfl
@[simp] theorem State.parkStrand_haltPolicy (s : State) (c l : Nat) (p : Park) : (s.parkStrand c l p).haltPolicy = s.haltPolicy := rfl
@[simp] theorem State.parkStrand_linksDown (s : State) (c l : Nat) (p : Park) : (s.parkStrand c l p).linksDown = s.linksDown := rfl
@[simp] theorem State.parkStrand_attest (s : State) (c l : Nat) (p : Park) : (s.parkStrand c l p).attest = s.attest := rfl
@[simp] theorem State.parkStrand_msix (s : State) (c l : Nat) (p : Park) : (s.parkStrand c l p).msix = s.msix := rfl
@[simp] theorem State.parkStrand_ref (s : State) (c l : Nat) (p : Park) : (s.parkStrand c l p).ref = s.ref := rfl
@[simp] theorem State.parkStrand_ready (s : State) (c l : Nat) (p : Park) : (s.parkStrand c l p).ready = s.ready := rfl
@[simp] theorem State.parkStrand_held (s : State) (c l : Nat) (p : Park) : (s.parkStrand c l p).held = s.held := rfl
@[simp] theorem State.parkStrand_gmTaken (s : State) (c l : Nat) (p : Park) : (s.parkStrand c l p).gmTaken = s.gmTaken := rfl
@[simp] theorem State.parkStrand_gmLock (s : State) (c l : Nat) (p : Park) : (s.parkStrand c l p).gmLock = s.gmLock := rfl
@[simp] theorem State.parkStrand_gmGood (s : State) (c l : Nat) (p : Park) : (s.parkStrand c l p).gmGood = s.gmGood := rfl
@[simp] theorem State.parkStrand_gmBad (s : State) (c l : Nat) (p : Park) : (s.parkStrand c l p).gmBad = s.gmBad := rfl
@[simp] theorem State.parkStrand_refAim (s : State) (c l : Nat) (p : Park) : (s.parkStrand c l p).refAim = s.refAim := rfl
@[simp] theorem State.parkStrand_refRem (s : State) (c l : Nat) (p : Park) : (s.parkStrand c l p).refRem = s.refRem := rfl
@[simp] theorem State.parkStrand_gens (s : State) (c l : Nat) (p : Park) : (s.parkStrand c l p).gens = s.gens := rfl
@[simp] theorem State.parkStrand_taken (s : State) (c l : Nat) (p : Park) : (s.parkStrand c l p).taken = s.taken := rfl
@[simp] theorem State.parkStrand_launches (s : State) (c l : Nat) (p : Park) : (s.parkStrand c l p).launches = s.launches := rfl
@[simp] theorem State.parkStrand_queues (s : State) (c l : Nat) (p : Park) : (s.parkStrand c l p).queues = s.queues := rfl
@[simp] theorem State.parkStrand_dies (s : State) (c l : Nat) (p : Park) : (s.parkStrand c l p).dies = s.dies := rfl
@[simp] theorem State.parkStrand_chans (s : State) (c l : Nat) (p : Park) : (s.parkStrand c l p).chans = s.chans := rfl
@[simp] theorem State.parkStrand_dram (s : State) (c l : Nat) (p : Park) : (s.parkStrand c l p).dram = s.dram := rfl
@[simp] theorem State.parkStrand_fars (s : State) (c l : Nat) (p : Park) : (s.parkStrand c l p).fars = s.fars := rfl
@[simp] theorem State.parkStrand_posted (s : State) (c l : Nat) (p : Park) : (s.parkStrand c l p).posted = s.posted := rfl
@[simp] theorem State.parkStrand_pushes (s : State) (c l : Nat) (p : Park) : (s.parkStrand c l p).pushes = s.pushes := rfl
@[simp] theorem State.parkStrand_comps (s : State) (c l : Nat) (p : Park) : (s.parkStrand c l p).comps = s.comps := rfl
@[simp] theorem State.parkStrand_joins (s : State) (c l : Nat) (p : Park) : (s.parkStrand c l p).joins = s.joins := rfl
@[simp] theorem State.parkStrand_spawns (s : State) (c l : Nat) (p : Park) : (s.parkStrand c l p).spawns = s.spawns := rfl
@[simp] theorem State.parkStrand_notices (s : State) (c l : Nat) (p : Park) : (s.parkStrand c l p).notices = s.notices := rfl
@[simp] theorem State.parkStrand_leaps (s : State) (c l : Nat) (p : Park) : (s.parkStrand c l p).leaps = s.leaps := rfl

@[simp] theorem State.modDie_cur (s : State) (d : Nat) (f : Die → Die) : (s.modDie d f).cur = s.cur := rfl
@[simp] theorem State.modDie_agenda (s : State) (d : Nat) (f : Die → Die) : (s.modDie d f).agenda = s.agenda := rfl
@[simp] theorem State.modDie_tick (s : State) (d : Nat) (f : Die → Die) : (s.modDie d f).tick = s.tick := rfl
@[simp] theorem State.modDie_mem (s : State) (d : Nat) (f : Die → Die) : (s.modDie d f).mem = s.mem := rfl
@[simp] theorem State.modDie_farOld (s : State) (d : Nat) (f : Die → Die) : (s.modDie d f).farOld = s.farOld := rfl
@[simp] theorem State.modDie_homeDirty (s : State) (d : Nat) (f : Die → Die) : (s.modDie d f).homeDirty = s.homeDirty := rfl
@[simp] theorem State.modDie_mscDirty (s : State) (d : Nat) (f : Die → Die) : (s.modDie d f).mscDirty = s.mscDirty := rfl
@[simp] theorem State.modDie_clean (s : State) (d : Nat) (f : Die → Die) : (s.modDie d f).clean = s.clean := rfl
@[simp] theorem State.modDie_badSectors (s : State) (d : Nat) (f : Die → Die) : (s.modDie d f).badSectors = s.badSectors := rfl
@[simp] theorem State.modDie_badFar (s : State) (d : Nat) (f : Die → Die) : (s.modDie d f).badFar = s.badFar := rfl
@[simp] theorem State.modDie_badWords (s : State) (d : Nat) (f : Die → Die) : (s.modDie d f).badWords = s.badWords := rfl
@[simp] theorem State.modDie_hostMem (s : State) (d : Nat) (f : Die → Die) : (s.modDie d f).hostMem = s.hostMem := rfl
@[simp] theorem State.modDie_hostReads (s : State) (d : Nat) (f : Die → Die) : (s.modDie d f).hostReads = s.hostReads := rfl
@[simp] theorem State.modDie_ctxTab (s : State) (d : Nat) (f : Die → Die) : (s.modDie d f).ctxTab = s.ctxTab := rfl
@[simp] theorem State.modDie_devid (s : State) (d : Nat) (f : Die → Die) : (s.modDie d f).devid = s.devid := rfl
@[simp] theorem State.modDie_inDom (s : State) (d : Nat) (f : Die → Die) : (s.modDie d f).inDom = s.inDom := rfl
@[simp] theorem State.modDie_gm (s : State) (d : Nat) (f : Die → Die) : (s.modDie d f).gm = s.gm := rfl
@[simp] theorem State.modDie_reach (s : State) (d : Nat) (f : Die → Die) : (s.modDie d f).reach = s.reach := rfl
@[simp] theorem State.modDie_reroute (s : State) (d : Nat) (f : Die → Die) : (s.modDie d f).reroute = s.reroute := rfl
@[simp] theorem State.modDie_linkErr (s : State) (d : Nat) (f : Die → Die) : (s.modDie d f).linkErr = s.linkErr := rfl
@[simp] theorem State.modDie_links (s : State) (d : Nat) (f : Die → Die) : (s.modDie d f).links = s.links := rfl
@[simp] theorem State.modDie_failed (s : State) (d : Nat) (f : Die → Die) : (s.modDie d f).failed = s.failed := rfl
@[simp] theorem State.modDie_extents (s : State) (d : Nat) (f : Die → Die) : (s.modDie d f).extents = s.extents := rfl
@[simp] theorem State.modDie_cxlRels (s : State) (d : Nat) (f : Die → Die) : (s.modDie d f).cxlRels = s.cxlRels := rfl
@[simp] theorem State.modDie_darns (s : State) (d : Nat) (f : Die → Die) : (s.modDie d f).darns = s.darns := rfl
@[simp] theorem State.modDie_darnFlash (s : State) (d : Nat) (f : Die → Die) : (s.modDie d f).darnFlash = s.darnFlash := rfl
@[simp] theorem State.modDie_alarm (s : State) (d : Nat) (f : Die → Die) : (s.modDie d f).alarm = s.alarm := rfl
@[simp] theorem State.modDie_keys (s : State) (d : Nat) (f : Die → Die) : (s.modDie d f).keys = s.keys := rfl
@[simp] theorem State.modDie_debugLocked (s : State) (d : Nat) (f : Die → Die) : (s.modDie d f).debugLocked = s.debugLocked := rfl
@[simp] theorem State.modDie_haltPolicy (s : State) (d : Nat) (f : Die → Die) : (s.modDie d f).haltPolicy = s.haltPolicy := rfl
@[simp] theorem State.modDie_linksDown (s : State) (d : Nat) (f : Die → Die) : (s.modDie d f).linksDown = s.linksDown := rfl
@[simp] theorem State.modDie_attest (s : State) (d : Nat) (f : Die → Die) : (s.modDie d f).attest = s.attest := rfl
@[simp] theorem State.modDie_msix (s : State) (d : Nat) (f : Die → Die) : (s.modDie d f).msix = s.msix := rfl
@[simp] theorem State.modDie_ref (s : State) (d : Nat) (f : Die → Die) : (s.modDie d f).ref = s.ref := rfl
@[simp] theorem State.modDie_ready (s : State) (d : Nat) (f : Die → Die) : (s.modDie d f).ready = s.ready := rfl
@[simp] theorem State.modDie_held (s : State) (d : Nat) (f : Die → Die) : (s.modDie d f).held = s.held := rfl
@[simp] theorem State.modDie_gmTaken (s : State) (d : Nat) (f : Die → Die) : (s.modDie d f).gmTaken = s.gmTaken := rfl
@[simp] theorem State.modDie_gmLock (s : State) (d : Nat) (f : Die → Die) : (s.modDie d f).gmLock = s.gmLock := rfl
@[simp] theorem State.modDie_gmGood (s : State) (d : Nat) (f : Die → Die) : (s.modDie d f).gmGood = s.gmGood := rfl
@[simp] theorem State.modDie_gmBad (s : State) (d : Nat) (f : Die → Die) : (s.modDie d f).gmBad = s.gmBad := rfl
@[simp] theorem State.modDie_refAim (s : State) (d : Nat) (f : Die → Die) : (s.modDie d f).refAim = s.refAim := rfl
@[simp] theorem State.modDie_refRem (s : State) (d : Nat) (f : Die → Die) : (s.modDie d f).refRem = s.refRem := rfl
@[simp] theorem State.modDie_gens (s : State) (d : Nat) (f : Die → Die) : (s.modDie d f).gens = s.gens := rfl
@[simp] theorem State.modDie_taken (s : State) (d : Nat) (f : Die → Die) : (s.modDie d f).taken = s.taken := rfl
@[simp] theorem State.modDie_launches (s : State) (d : Nat) (f : Die → Die) : (s.modDie d f).launches = s.launches := rfl
@[simp] theorem State.modDie_queues (s : State) (d : Nat) (f : Die → Die) : (s.modDie d f).queues = s.queues := rfl
@[simp] theorem State.modDie_chans (s : State) (d : Nat) (f : Die → Die) : (s.modDie d f).chans = s.chans := rfl
@[simp] theorem State.modDie_dram (s : State) (d : Nat) (f : Die → Die) : (s.modDie d f).dram = s.dram := rfl
@[simp] theorem State.modDie_cores (s : State) (d : Nat) (f : Die → Die) : (s.modDie d f).cores = s.cores := rfl
@[simp] theorem State.modDie_fars (s : State) (d : Nat) (f : Die → Die) : (s.modDie d f).fars = s.fars := rfl
@[simp] theorem State.modDie_posted (s : State) (d : Nat) (f : Die → Die) : (s.modDie d f).posted = s.posted := rfl
@[simp] theorem State.modDie_pushes (s : State) (d : Nat) (f : Die → Die) : (s.modDie d f).pushes = s.pushes := rfl
@[simp] theorem State.modDie_comps (s : State) (d : Nat) (f : Die → Die) : (s.modDie d f).comps = s.comps := rfl
@[simp] theorem State.modDie_joins (s : State) (d : Nat) (f : Die → Die) : (s.modDie d f).joins = s.joins := rfl
@[simp] theorem State.modDie_spawns (s : State) (d : Nat) (f : Die → Die) : (s.modDie d f).spawns = s.spawns := rfl
@[simp] theorem State.modDie_notices (s : State) (d : Nat) (f : Die → Die) : (s.modDie d f).notices = s.notices := rfl
@[simp] theorem State.modDie_leaps (s : State) (d : Nat) (f : Die → Die) : (s.modDie d f).leaps = s.leaps := rfl

@[simp] theorem State.modChan_cur (s : State) (h : Nat) (f : Channel → Channel) : (s.modChan h f).cur = s.cur := rfl
@[simp] theorem State.modChan_agenda (s : State) (h : Nat) (f : Channel → Channel) : (s.modChan h f).agenda = s.agenda := rfl
@[simp] theorem State.modChan_tick (s : State) (h : Nat) (f : Channel → Channel) : (s.modChan h f).tick = s.tick := rfl
@[simp] theorem State.modChan_mem (s : State) (h : Nat) (f : Channel → Channel) : (s.modChan h f).mem = s.mem := rfl
@[simp] theorem State.modChan_farOld (s : State) (h : Nat) (f : Channel → Channel) : (s.modChan h f).farOld = s.farOld := rfl
@[simp] theorem State.modChan_homeDirty (s : State) (h : Nat) (f : Channel → Channel) : (s.modChan h f).homeDirty = s.homeDirty := rfl
@[simp] theorem State.modChan_mscDirty (s : State) (h : Nat) (f : Channel → Channel) : (s.modChan h f).mscDirty = s.mscDirty := rfl
@[simp] theorem State.modChan_clean (s : State) (h : Nat) (f : Channel → Channel) : (s.modChan h f).clean = s.clean := rfl
@[simp] theorem State.modChan_badSectors (s : State) (h : Nat) (f : Channel → Channel) : (s.modChan h f).badSectors = s.badSectors := rfl
@[simp] theorem State.modChan_badFar (s : State) (h : Nat) (f : Channel → Channel) : (s.modChan h f).badFar = s.badFar := rfl
@[simp] theorem State.modChan_badWords (s : State) (h : Nat) (f : Channel → Channel) : (s.modChan h f).badWords = s.badWords := rfl
@[simp] theorem State.modChan_hostMem (s : State) (h : Nat) (f : Channel → Channel) : (s.modChan h f).hostMem = s.hostMem := rfl
@[simp] theorem State.modChan_hostReads (s : State) (h : Nat) (f : Channel → Channel) : (s.modChan h f).hostReads = s.hostReads := rfl
@[simp] theorem State.modChan_ctxTab (s : State) (h : Nat) (f : Channel → Channel) : (s.modChan h f).ctxTab = s.ctxTab := rfl
@[simp] theorem State.modChan_devid (s : State) (h : Nat) (f : Channel → Channel) : (s.modChan h f).devid = s.devid := rfl
@[simp] theorem State.modChan_inDom (s : State) (h : Nat) (f : Channel → Channel) : (s.modChan h f).inDom = s.inDom := rfl
@[simp] theorem State.modChan_gm (s : State) (h : Nat) (f : Channel → Channel) : (s.modChan h f).gm = s.gm := rfl
@[simp] theorem State.modChan_reach (s : State) (h : Nat) (f : Channel → Channel) : (s.modChan h f).reach = s.reach := rfl
@[simp] theorem State.modChan_reroute (s : State) (h : Nat) (f : Channel → Channel) : (s.modChan h f).reroute = s.reroute := rfl
@[simp] theorem State.modChan_linkErr (s : State) (h : Nat) (f : Channel → Channel) : (s.modChan h f).linkErr = s.linkErr := rfl
@[simp] theorem State.modChan_links (s : State) (h : Nat) (f : Channel → Channel) : (s.modChan h f).links = s.links := rfl
@[simp] theorem State.modChan_failed (s : State) (h : Nat) (f : Channel → Channel) : (s.modChan h f).failed = s.failed := rfl
@[simp] theorem State.modChan_extents (s : State) (h : Nat) (f : Channel → Channel) : (s.modChan h f).extents = s.extents := rfl
@[simp] theorem State.modChan_cxlRels (s : State) (h : Nat) (f : Channel → Channel) : (s.modChan h f).cxlRels = s.cxlRels := rfl
@[simp] theorem State.modChan_darns (s : State) (h : Nat) (f : Channel → Channel) : (s.modChan h f).darns = s.darns := rfl
@[simp] theorem State.modChan_darnFlash (s : State) (h : Nat) (f : Channel → Channel) : (s.modChan h f).darnFlash = s.darnFlash := rfl
@[simp] theorem State.modChan_alarm (s : State) (h : Nat) (f : Channel → Channel) : (s.modChan h f).alarm = s.alarm := rfl
@[simp] theorem State.modChan_keys (s : State) (h : Nat) (f : Channel → Channel) : (s.modChan h f).keys = s.keys := rfl
@[simp] theorem State.modChan_debugLocked (s : State) (h : Nat) (f : Channel → Channel) : (s.modChan h f).debugLocked = s.debugLocked := rfl
@[simp] theorem State.modChan_haltPolicy (s : State) (h : Nat) (f : Channel → Channel) : (s.modChan h f).haltPolicy = s.haltPolicy := rfl
@[simp] theorem State.modChan_linksDown (s : State) (h : Nat) (f : Channel → Channel) : (s.modChan h f).linksDown = s.linksDown := rfl
@[simp] theorem State.modChan_attest (s : State) (h : Nat) (f : Channel → Channel) : (s.modChan h f).attest = s.attest := rfl
@[simp] theorem State.modChan_msix (s : State) (h : Nat) (f : Channel → Channel) : (s.modChan h f).msix = s.msix := rfl
@[simp] theorem State.modChan_ref (s : State) (h : Nat) (f : Channel → Channel) : (s.modChan h f).ref = s.ref := rfl
@[simp] theorem State.modChan_ready (s : State) (h : Nat) (f : Channel → Channel) : (s.modChan h f).ready = s.ready := rfl
@[simp] theorem State.modChan_held (s : State) (h : Nat) (f : Channel → Channel) : (s.modChan h f).held = s.held := rfl
@[simp] theorem State.modChan_gmTaken (s : State) (h : Nat) (f : Channel → Channel) : (s.modChan h f).gmTaken = s.gmTaken := rfl
@[simp] theorem State.modChan_gmLock (s : State) (h : Nat) (f : Channel → Channel) : (s.modChan h f).gmLock = s.gmLock := rfl
@[simp] theorem State.modChan_gmGood (s : State) (h : Nat) (f : Channel → Channel) : (s.modChan h f).gmGood = s.gmGood := rfl
@[simp] theorem State.modChan_gmBad (s : State) (h : Nat) (f : Channel → Channel) : (s.modChan h f).gmBad = s.gmBad := rfl
@[simp] theorem State.modChan_refAim (s : State) (h : Nat) (f : Channel → Channel) : (s.modChan h f).refAim = s.refAim := rfl
@[simp] theorem State.modChan_refRem (s : State) (h : Nat) (f : Channel → Channel) : (s.modChan h f).refRem = s.refRem := rfl
@[simp] theorem State.modChan_gens (s : State) (h : Nat) (f : Channel → Channel) : (s.modChan h f).gens = s.gens := rfl
@[simp] theorem State.modChan_taken (s : State) (h : Nat) (f : Channel → Channel) : (s.modChan h f).taken = s.taken := rfl
@[simp] theorem State.modChan_launches (s : State) (h : Nat) (f : Channel → Channel) : (s.modChan h f).launches = s.launches := rfl
@[simp] theorem State.modChan_queues (s : State) (h : Nat) (f : Channel → Channel) : (s.modChan h f).queues = s.queues := rfl
@[simp] theorem State.modChan_dies (s : State) (h : Nat) (f : Channel → Channel) : (s.modChan h f).dies = s.dies := rfl
@[simp] theorem State.modChan_dram (s : State) (h : Nat) (f : Channel → Channel) : (s.modChan h f).dram = s.dram := rfl
@[simp] theorem State.modChan_cores (s : State) (h : Nat) (f : Channel → Channel) : (s.modChan h f).cores = s.cores := rfl
@[simp] theorem State.modChan_fars (s : State) (h : Nat) (f : Channel → Channel) : (s.modChan h f).fars = s.fars := rfl
@[simp] theorem State.modChan_posted (s : State) (h : Nat) (f : Channel → Channel) : (s.modChan h f).posted = s.posted := rfl
@[simp] theorem State.modChan_pushes (s : State) (h : Nat) (f : Channel → Channel) : (s.modChan h f).pushes = s.pushes := rfl
@[simp] theorem State.modChan_comps (s : State) (h : Nat) (f : Channel → Channel) : (s.modChan h f).comps = s.comps := rfl
@[simp] theorem State.modChan_joins (s : State) (h : Nat) (f : Channel → Channel) : (s.modChan h f).joins = s.joins := rfl
@[simp] theorem State.modChan_spawns (s : State) (h : Nat) (f : Channel → Channel) : (s.modChan h f).spawns = s.spawns := rfl
@[simp] theorem State.modChan_notices (s : State) (h : Nat) (f : Channel → Channel) : (s.modChan h f).notices = s.notices := rfl
@[simp] theorem State.modChan_leaps (s : State) (h : Nat) (f : Channel → Channel) : (s.modChan h f).leaps = s.leaps := rfl

/-! Reads after writes -/

@[simp] theorem State.core_setCore (s : State) (c : Nat) (k : Core) : (s.setCore c k).core c = k := by
  simp [State.core, State.setCore]

theorem State.core_setCore_ne (s : State) {c c' : Nat} (k : Core) (h : c' ≠ c) : (s.setCore c k).core c' = s.core c' := by
  simp [State.core, State.setCore, tget_tset_ne _ _ h]

@[simp] theorem State.setCore_setCore (s : State) (c : Nat) (k k' : Core) : (s.setCore c k).setCore c k' = s.setCore c k' := by
  simp [State.setCore]

@[simp] theorem State.core_modCore (s : State) (c : Nat) (f : Core → Core) : (s.modCore c f).core c = f (s.core c) := by
  simp [State.modCore]

theorem State.core_modCore_ne (s : State) {c c' : Nat} (f : Core → Core) (h : c' ≠ c) : (s.modCore c f).core c' = s.core c' := by
  simp [State.modCore, State.core_setCore_ne _ _ h]

/-- Two changes of one core are one. -/
@[simp] theorem State.modCore_modCore (s : State) (c : Nat) (f g : Core → Core) :
    (s.modCore c f).modCore c g = s.modCore c fun k => g (f k) := by
  simp [State.modCore]

@[simp] theorem State.strand_setStrand (s : State) (c l : Nat) (x : Strand) : (s.setStrand c l x).strand c l = x := by
  simp [State.strand, State.setStrand]

theorem State.strand_setStrand_ne (s : State) {c l c' l' : Nat} (x : Strand) (h : c' ≠ c ∨ l' % 16 ≠ l % 16) :
    (s.setStrand c l x).strand c' l' = s.strand c' l' := by
  by_cases hc : c' = c
  · subst hc
    simp only [State.strand, State.setStrand, State.core_modCore]
    exact vget_vset_ne _ _ (by simpa using h)
  · simp only [State.strand, State.setStrand, State.core_modCore_ne _ _ hc]

@[simp] theorem State.setStrand_setStrand (s : State) (c l : Nat) (x y : Strand) :
    (s.setStrand c l x).setStrand c l y = s.setStrand c l y := by
  simp [State.setStrand]

@[simp] theorem State.strand_modStrand (s : State) (c l : Nat) (f : Strand → Strand) :
    (s.modStrand c l f).strand c l = f (s.strand c l) := by
  simp [State.modStrand]

theorem State.strand_modStrand_ne (s : State) {c l c' l' : Nat} (f : Strand → Strand) (h : c' ≠ c ∨ l' % 16 ≠ l % 16) :
    (s.modStrand c l f).strand c' l' = s.strand c' l' := State.strand_setStrand_ne _ _ h

/-- Two changes of one strand are one. -/
@[simp] theorem State.modStrand_modStrand (s : State) (c l : Nat) (f g : Strand → Strand) :
    (s.modStrand c l f).modStrand c l g = s.modStrand c l fun x => g (f x) := by
  simp [State.modStrand]

theorem State.modStrand_eq (s : State) (c l : Nat) (f : Strand → Strand) : s.modStrand c l f = s.setStrand c l (f (s.strand c l)) := rfl

/-- What a change of a strand leaves of its core. -/
theorem State.core_modStrand (s : State) (c l : Nat) (f : Strand → Strand) :
    (s.modStrand c l f).core c = { s.core c with slots := vset (s.core c).slots l (f (s.strand c l)) } := by
  simp [State.modStrand, State.setStrand]

theorem State.core_modStrand_ne (s : State) {c c' : Nat} (l : Nat) (f : Strand → Strand) (h : c' ≠ c) :
    (s.modStrand c l f).core c' = s.core c' := State.core_modCore_ne _ _ h

@[simp] theorem State.die_modDie (s : State) (d : Nat) (f : Die → Die) : (s.modDie d f).die d = f (s.die d) := by
  simp [State.die, State.modDie]

theorem State.die_modDie_ne (s : State) {d d' : Nat} (f : Die → Die) (h : d' % 4 ≠ d % 4) : (s.modDie d f).die d' = s.die d' := by
  simpa [State.die, State.modDie] using vget_vset_ne s.dies (f (vget s.dies d)) h

@[simp] theorem State.chan_modChan (s : State) (h : Nat) (f : Channel → Channel) : (s.modChan h f).chan h = f (s.chan h) := by
  simp [State.chan, State.modChan]

theorem State.chan_modChan_ne (s : State) {h h' : Nat} (f : Channel → Channel) (hh : h' ≠ h) :
    (s.modChan h f).chan h' = s.chan h' := by
  simp [State.chan, State.modChan, tget_tset_ne _ _ hh]

@[simp] theorem State.core_modDie (s : State) (d : Nat) (f : Die → Die) (c : Nat) : (s.modDie d f).core c = s.core c := rfl
@[simp] theorem State.strand_modDie (s : State) (d : Nat) (f : Die → Die) (c l : Nat) : (s.modDie d f).strand c l = s.strand c l := rfl
@[simp] theorem State.core_modChan (s : State) (h : Nat) (f : Channel → Channel) (c : Nat) : (s.modChan h f).core c = s.core c := rfl
@[simp] theorem State.strand_modChan (s : State) (h : Nat) (f : Channel → Channel) (c l : Nat) :
    (s.modChan h f).strand c l = s.strand c l := rfl
@[simp] theorem State.die_setCore (s : State) (c : Nat) (k : Core) (d : Nat) : (s.setCore c k).die d = s.die d := rfl
@[simp] theorem State.die_modCore (s : State) (c : Nat) (f : Core → Core) (d : Nat) : (s.modCore c f).die d = s.die d := rfl
@[simp] theorem State.die_modStrand (s : State) (c l : Nat) (f : Strand → Strand) (d : Nat) : (s.modStrand c l f).die d = s.die d := rfl

/-- What retiring an instruction does: PC moves on by four and s.hpm0 counts (R408). -/
@[simp] theorem State.strand_retireNext (s : State) (c l : Nat) :
    (s.retireNext c l).strand c l = (s.strand c l).retire ((s.strand c l).pc + 4) := by
  simp [State.retireNext]

end Sys2Proof.Machine
end

