-- ==== Sys2Proof/Laws/Memory.lean ====
section
/-! SUPPORT. Every operation on memory and caches keeps the canonical form of the memories and of the dirty bytes (`State.canonical`);
a home with nothing due is settled with no effect; small caches have nothing to give up. -/

namespace Sys2Proof.Machine

/-- The canonical form looks at four fields only. -/
theorem canonical_congr {s t : State} (hm : t.mem = s.mem) (hh : t.hostMem = s.hostMem) (hd : t.homeDirty = s.homeDirty)
    (hc : t.mscDirty = s.mscDirty) : t.canonical = s.canonical := by
  simp only [State.canonical, hm, hh, hd, hc]

/-- The canonical form, field by field. -/
theorem canonical_iff {s : State} : s.canonical = true ↔
    s.mem.wf = true ∧ s.hostMem.wf = true ∧ Tab.sorted s.homeDirty = true ∧ Tab.sorted s.mscDirty = true := by
  simp only [State.canonical, Bool.and_eq_true, and_assoc]

/-- Keeping only some entries keeps a table sorted. -/
theorem sorted_filter {α : Type} {t : Tab α} (p : Nat × α → Bool) (h : Tab.sorted t = true) : Tab.sorted (t.filter p) = true := by
  induction t with
  | nil => rfl
  | cons q t ih =>
    have h' := Tab.sorted_cons.mp h
    by_cases hp : p q
    · rw [List.filter_cons_of_pos hp]
      exact Tab.sorted_cons.mpr ⟨ih h'.1, fun r hr => h'.2 r (List.mem_filter.mp hr).1⟩
    · rw [List.filter_cons_of_neg hp]
      exact ih h'.1

/-- What every step of a fold keeps, the fold keeps. -/
theorem foldl_keeps {α β : Type} {P : α → Prop} {f : α → β → α} (hf : ∀ a b, P a → P (f a b)) (l : List β) :
    ∀ {a : α}, P a → P (l.foldl f a) := by
  induction l with
  | nil => exact fun h => h
  | cons b l ih => exact fun h => ih (hf _ b h)

@[simp] theorem canonical_modDie (s : State) (d : Nat) (f : Die → Die) : (s.modDie d f).canonical = s.canonical := rfl
@[simp] theorem canonical_modChan (s : State) (d : Nat) (f : Channel → Channel) : (s.modChan d f).canonical = s.canonical := rfl
@[simp] theorem canonical_setCore (s : State) (c : Nat) (k : Core) : (s.setCore c k).canonical = s.canonical := rfl
@[simp] theorem canonical_modCore (s : State) (c : Nat) (f : Core → Core) : (s.modCore c f).canonical = s.canonical := rfl
@[simp] theorem canonical_setStrand (s : State) (c l : Nat) (x : Strand) : (s.setStrand c l x).canonical = s.canonical := rfl
@[simp] theorem canonical_modStrand (s : State) (c l : Nat) (f : Strand → Strand) : (s.modStrand c l f).canonical = s.canonical := rfl
@[simp] theorem canonical_retireNext (s : State) (c l : Nat) : (s.retireNext c l).canonical = s.canonical := rfl
@[simp] theorem canonical_parkStrand (s : State) (c l : Nat) (p : Park) : (s.parkStrand c l p).canonical = s.canonical := rfl

/-- Reset is canonical in its memory. -/
theorem reset_mem_wf : State.reset.mem.wf = true := rfl

/-- What a byte of another device's memory was changes none of the memories. -/
theorem keepOld_fields (s : State) (pa : Nat) : (s.keepOld pa).mem = s.mem ∧ (s.keepOld pa).hostMem = s.hostMem
    ∧ (s.keepOld pa).homeDirty = s.homeDirty ∧ (s.keepOld pa).mscDirty = s.mscDirty := by
  unfold State.keepOld
  dsimp only
  split <;> exact ⟨rfl, rfl, rfl, rfl⟩

@[simp] theorem keepOld_mem (s : State) (pa : Nat) : (s.keepOld pa).mem = s.mem := (keepOld_fields s pa).1
@[simp] theorem keepOld_hostMem (s : State) (pa : Nat) : (s.keepOld pa).hostMem = s.hostMem := (keepOld_fields s pa).2.1
@[simp] theorem keepOld_homeDirty (s : State) (pa : Nat) : (s.keepOld pa).homeDirty = s.homeDirty := (keepOld_fields s pa).2.2.1
@[simp] theorem keepOld_mscDirty (s : State) (pa : Nat) : (s.keepOld pa).mscDirty = s.mscDirty := (keepOld_fields s pa).2.2.2

/-- A byte written to a memory keeps the form. -/
theorem canonical_wrote {s t : State} {pa : Nat} {b : Byte} (h : s.canonical = true) (hm : t.mem = mput s.mem pa b)
    (hh : t.hostMem = s.hostMem) (hd : t.homeDirty = s.homeDirty) (hc : t.mscDirty = s.mscDirty) : t.canonical = true := by
  rw [canonical_iff] at h ⊢
  exact ⟨hm ▸ Memory.wf_mput pa b h.1, hh ▸ h.2.1, hd ▸ h.2.2.1, hc ▸ h.2.2.2⟩

/-- Putting bytes at their home keeps the form. -/
theorem canonical_homePut (bs : List Byte) : ∀ {s : State} (pa : Nat), s.canonical = true → (s.homePut pa bs).canonical = true := by
  induction bs with
  | nil => exact fun _ h => h
  | cons b bs ih =>
    intro s pa h
    refine ih (pa + 1) ?_
    rw [canonical_iff] at h
    split
    · split
      · exact canonical_iff.mpr h
      · exact canonical_iff.mpr h
      · exact canonical_wrote (s := s) (pa := pa) (b := b) (canonical_iff.mpr h) (by simp) (by simp) (by simp) (by simp)
      · exact canonical_wrote (s := s) (pa := pa) (b := b) (canonical_iff.mpr h) (by simp) (by simp) (by simp) (by simp)
      · exact canonical_iff.mpr ⟨Memory.wf_mput pa b h.1, h.2⟩
    · split
      · split
        · exact canonical_iff.mpr ⟨Memory.wf_mput pa b h.1, h.2⟩
        · exact canonical_iff.mpr h
      · exact canonical_iff.mpr ⟨h.1, h.2.1, sorted_tset pa b h.2.2.1, h.2.2.2⟩
      · exact canonical_iff.mpr ⟨h.1, h.2.1, sorted_tset pa b h.2.2.1, h.2.2.2⟩
      · exact canonical_iff.mpr h

/-! What changes none of the memories and none of the dirty bytes -/

@[simp] theorem canonical_noteWords (s : State) (pa n : Nat) : (s.noteWords pa n).canonical = s.canonical := rfl
@[simp] theorem canonical_mendWords (s : State) (h : Option Nat) (pa n : Nat) : (s.mendWords h pa n).canonical = s.canonical := rfl
@[simp] theorem canonical_holdLine (s : State) (y line : Nat) (v : BitVec 4) : (s.holdLine y line v).canonical = s.canonical := rfl
@[simp] theorem canonical_holdMsc (s : State) (q : Nat) : (s.holdMsc q).canonical = s.canonical := rfl
@[simp] theorem canonical_countCache (s : State) (d : Nat) : (s.countCache d).canonical = s.canonical := rfl
@[simp] theorem canonical_flashCxl (s : State) : s.flashCxl.canonical = s.canonical := rfl
@[simp] theorem canonical_noteRdc (s : State) (d : Nat) (a : Access) (n : Nat) : (s.noteRdc d a n).canonical = s.canonical := rfl
@[simp] theorem canonical_rdcFlash (s : State) (d : Nat) : (s.rdcFlash d).canonical = s.canonical := rfl
@[simp] theorem canonical_rdcWrite (s : State) (d : Nat) (a : Access) (bs : List Byte) (grp : Nat) :
    (s.rdcWrite d a bs grp).canonical = s.canonical := rfl
@[simp] theorem canonical_free (s : State) : s.free.2.canonical = s.canonical := rfl
@[simp] theorem canonical_setVerdict (s : State) (c l : Nat) (gen : BitVec 8) (late : Bool) :
    (s.setVerdict c l gen late).canonical = s.canonical := rfl

/-- An access on its way to a controller changes no memory. -/
@[simp] theorem canonical_toDram (s : State) (q : Nat) (lc : BitVec 2) (wr : Bool) : (s.toDram q lc wr).canonical = s.canonical := by
  unfold State.toDram
  split <;> rfl

/-- A read that a memory-side cache needs changes no memory. -/
@[simp] theorem canonical_needMsc (s : State) (q : Nat) (lc : BitVec 2) : (s.needMsc q lc).canonical = s.canonical := by
  unfold State.needMsc
  split
  · rfl
  · exact canonical_toDram ..

/-- A fill of a home cache changes no memory. -/
@[simp] theorem canonical_homeFill (s : State) (p : Place) (pa n : Nat) (lc : BitVec 2) :
    (s.homeFill p pa n lc).canonical = s.canonical := by
  unfold State.homeFill
  cases p
  · dsimp only
    split
    · rfl
    · simp
  · rfl
  · rfl

/-- A strand's fill changes no memory. -/
@[simp] theorem canonical_fillFor (s : State) (c l : Nat) (a : Access) (n : Nat) : (s.fillFor c l a n).canonical = s.canonical := by
  unfold State.fillFor
  rw [canonical_homeFill]
  split <;> rfl

/-- Noting a line's home changes no memory. -/
@[simp] theorem canonical_book (s : State) (p : Place) (pa : Nat) : (s.book p pa).canonical = s.canonical := by
  unfold State.book
  cases p
  · dsimp only
    split <;> rfl
  · rfl
  · rfl

/-- An invalidated home-cache sector changes no memory. -/
@[simp] theorem canonical_dropValid (s : State) (q : Nat) : (s.dropValid q).canonical = s.canonical := by
  unfold State.dropValid
  split <;> rfl

/-- Clean bytes that a remote-data cache gives up change no memory. -/
@[simp] theorem canonical_dropClean (s : State) (d pa : Nat) : (s.dropClean d pa).canonical = s.canonical := by
  unfold State.dropClean
  split <;> rfl

/-- A home's timed accesses are no memory. -/
@[simp] theorem canonical_setCal (s : State) (p : Place) (x : Cal) : (s.setCal p x).canonical = s.canonical := by
  cases p <;> rfl

/-- Taking a timed store into a calendar changes no memory. -/
@[simp] theorem canonical_acceptTimed (s : State) (p : Place) (e : CalEntry) : (s.acceptTimed p e).canonical = s.canonical := by
  simp only [State.acceptTimed, canonical_setVerdict, canonical_setCal]

/-- The room of a calendar is no memory. -/
@[simp] theorem canonical_calRoom (s : State) (p : Place) : (s.calRoom p).2.canonical = s.canonical := by
  cases p <;> rfl

/-- DIRTY of a near row is no memory. -/
@[simp] theorem canonical_dramWritten (s : State) (pa : Nat) : (s.dramWritten pa).canonical = s.canonical := by
  unfold State.dramWritten
  split
  · split <;> rfl
  · rfl

/-- A watchpoint's look changes no memory. -/
@[simp] theorem canonical_watchOne (s : State) (d : Nat) (as : List Nat) (i : Nat) (w : Watch) :
    (s.watchOne d as i w).canonical = s.canonical := by
  unfold State.watchOne
  dsimp only
  split
  · split <;> rfl
  · rfl

/-- The watchpoints' looks change no memory. -/
theorem canonical_watchAll {s : State} (pa : Nat) (as : List Nat) (h : s.canonical = true) : (s.watchAll pa as).canonical = true := by
  unfold State.watchAll
  split
  · exact h
  · exact foldl_keeps (P := fun t : State => t.canonical = true) (fun t p ht => by simpa using ht) _ h

/-- Counting an uncorrectable sector changes no memory. -/
@[simp] theorem canonical_countSector (s : State) (pa : Nat) : (s.countSector pa).canonical = s.canonical := by
  unfold State.countSector
  split
  · rfl
  · split <;> rfl

/-- Counting an uncorrectable error changes no memory. -/
@[simp] theorem canonical_countUe (s : State) (pa : Nat) : (s.countUe pa).canonical = s.canonical := by
  unfold State.countUe
  dsimp only
  split
  · rfl
  · split
    · rfl
    · exact canonical_countSector s pa

/-- Losing bad words of a cache changes none of the memories and none of the dirty bytes. -/
theorem loseWords_fields (s : State) (h : Option Nat) (d pa n : Nat) (lost : Bool) :
    (s.loseWords h d pa n lost).mem = s.mem ∧ (s.loseWords h d pa n lost).hostMem = s.hostMem ∧
    (s.loseWords h d pa n lost).homeDirty = s.homeDirty ∧ (s.loseWords h d pa n lost).mscDirty = s.mscDirty := by
  unfold State.loseWords
  split <;> exact ⟨rfl, rfl, rfl, rfl⟩

@[simp] theorem canonical_loseWords (s : State) (h : Option Nat) (d pa n : Nat) (lost : Bool) :
    (s.loseWords h d pa n lost).canonical = s.canonical :=
  canonical_congr (loseWords_fields ..).1 (loseWords_fields ..).2.1 (loseWords_fields ..).2.2.1 (loseWords_fields ..).2.2.2

/-- Without a bad word met, nothing changes. -/
@[simp] theorem loseWords_false (s : State) (h : Option Nat) (d pa n : Nat) : s.loseWords h d pa n false = s := rfl

/-! Writes at their homes -/

/-- A write at the home keeps the form. -/
theorem canonical_homeWrite {s : State} (pa : Nat) (bs : List Byte) (h : s.canonical = true) : (s.homeWrite pa bs).canonical = true :=
  canonical_watchAll pa _ ((canonical_mendWords ..).trans (canonical_homePut bs pa ((canonical_noteWords ..).trans h)))

/-- A write at its point of performance keeps the form. -/
theorem canonical_perform {s : State} (pa : Nat) (bs : List Byte) (h : s.canonical = true) : (s.perform pa bs).canonical = true := by
  unfold State.perform
  split
  · exact h
  · exact canonical_homeWrite pa bs h

/-- A write through a leaf that may have named its home keeps the form. -/
theorem canonical_performAt {s : State} (p : Place) (pa : Nat) (bs : List Byte) (h : s.canonical = true) :
    (s.performAt p pa bs).canonical = true := canonical_perform pa bs ((canonical_book ..).trans h)

/-- A byte-merged write keeps the form. -/
theorem canonical_merge {s : State} (line : Nat) (cs : Tab Byte) (h : s.canonical = true) : (s.merge line cs).canonical = true := by
  unfold State.merge
  dsimp only
  split
  · exact h
  · refine canonical_watchAll _ _ (foldl_keeps (P := fun t : State => t.canonical = true) (fun t w ht => ?_) _
      (foldl_keeps (P := fun t : State => t.canonical = true) (fun t c ht => ?_) _ h))
    · exact (canonical_mendWords ..).trans ht
    · exact canonical_homePut _ _ ((canonical_noteWords ..).trans ht)

/-! Write-backs below the home -/

/-- A home-cache sector going down keeps the form. -/
theorem canonical_sectorToMsc {s : State} (q : Nat) (h : s.canonical = true) : (s.sectorToMsc q).canonical = true := by
  have h' := canonical_iff.mp h
  unfold State.sectorToMsc
  dsimp only
  split
  · exact h
  · have hd (x : Bool) (d : Nat) (ds : Tab Byte) (hs : Tab.sorted ds = true) :
        ({ s.loseWords none d (q * 64) 64 x with homeDirty := ds } : State).canonical = true :=
      canonical_iff.mpr ⟨(congrArg Memory.wf (loseWords_fields ..).1).trans h'.1, (congrArg Memory.wf (loseWords_fields ..).2.1).trans h'.2.1,
        hs, (congrArg Tab.sorted (loseWords_fields ..).2.2.2).trans h'.2.2.2⟩
    have hm (t : State) (g : List (Nat × Byte)) (ht : t.canonical = true) :
        ({ t with mscDirty := g.foldl (fun m c => tset m c.1 c.2) s.mscDirty } : State).canonical = true :=
      have ht' := canonical_iff.mp ht
      canonical_iff.mpr ⟨ht'.1, ht'.2.1, ht'.2.2.1,
        foldl_keeps (P := fun t : Tab Byte => Tab.sorted t = true) (fun t c hc => sorted_tset c.1 c.2 hc) _ h'.2.2.2⟩
    split
    · rw [canonical_dropValid]
      exact hd _ _ _ (sorted_filter _ h'.2.2.1)
    · split
      · rw [canonical_countSector, canonical_dropValid]
        exact hd _ _ _ (sorted_filter _ h'.2.2.1)
      · refine hm _ _ ?_
        rw [canonical_holdMsc, canonical_needMsc]
        split
        · rw [canonical_dropValid]
          exact hd _ _ _ (sorted_filter _ h'.2.2.1)
        · exact hd _ _ _ (sorted_filter _ h'.2.2.1)

/-- A memory-side cache sector going down keeps the form. -/
theorem canonical_mscToMem {s : State} (q : Nat) (h : s.canonical = true) : (s.mscToMem q).canonical = true := by
  have h' := canonical_iff.mp h
  unfold State.mscToMem
  dsimp only
  split
  · exact h
  · split
    · exact canonical_iff.mpr ⟨h'.1, h'.2.1, h'.2.2.1, sorted_filter _ h'.2.2.2⟩
    · rw [canonical_dramWritten, canonical_toDram]
      exact canonical_iff.mpr ⟨foldl_keeps (P := fun m : Memory => m.wf = true) (fun m c hm => Memory.wf_mput c.1 c.2 hm) _ h'.1, h'.2.1,
        h'.2.2.1, sorted_filter _ h'.2.2.2⟩

/-- A home-cache line going down keeps the form. -/
theorem canonical_homeToMsc {s : State} (line : Nat) (h : s.canonical = true) : (s.homeToMsc line).canonical = true :=
  foldl_keeps (P := fun t : State => t.canonical = true) (fun _ q ht => canonical_sectorToMsc (line * 4 + q) ht) _ h

/-- A line leaving its home cache keeps the form. -/
theorem canonical_evictHome {s : State} (line : Nat) (h : s.canonical = true) : (s.evictHome line).canonical = true :=
  canonical_homeToMsc line h

/-- A line leaving its memory-side cache keeps the form. -/
theorem canonical_evictMsc {s : State} (line : Nat) (h : s.canonical = true) : (s.evictMsc line).canonical = true :=
  foldl_keeps (P := fun t : State => t.canonical = true) (fun _ q ht => canonical_mscToMem (line * 4 + q) ht) _ h

/-- A line going down to memory keeps the form. -/
theorem canonical_lineToMem {s : State} (line : Nat) (h : s.canonical = true) : (s.lineToMem line).canonical = true :=
  foldl_keeps (P := fun t : State => t.canonical = true) (fun _ q ht => canonical_mscToMem (line * 4 + q) ht) _ (canonical_homeToMsc line h)

/-- A line written back and invalidated keeps the form. -/
theorem canonical_lineOut {s : State} (line : Nat) (h : s.canonical = true) : (s.lineOut line).canonical = true :=
  canonical_evictMsc line (canonical_evictHome line h)

/-- A line lost keeps the form. -/
theorem canonical_lineLost {s : State} (line : Nat) (h : s.canonical = true) : (s.lineLost line).canonical = true :=
  have h' := canonical_iff.mp h
  canonical_iff.mpr ⟨h'.1, h'.2.1, sorted_filter _ h'.2.2.1, sorted_filter _ h'.2.2.2⟩

/-- Flushing the lines of a list to memory keeps the form. -/
theorem canonical_linesToMem {s : State} (ls : List Nat) (h : s.canonical = true) : (ls.foldl State.lineToMem s).canonical = true :=
  foldl_keeps (P := fun t : State => t.canonical = true) (fun _ n ht => canonical_lineToMem n ht) ls h

/-! The calendar -/

/-- Judging a timed store late keeps the form. -/
theorem canonical_judgeLate {s : State} (p : Place) (e : CalEntry) (h : s.canonical = true) : (s.judgeLate p e).canonical = true := by
  unfold State.judgeLate
  dsimp only
  rw [canonical_setVerdict]
  have hs : ((if e.pol then (s.performAt p e.acc.pa e.data).dropClean (dieOf e.core) e.acc.pa else s) : State).canonical = true := by
    split
    · rw [canonical_dropClean]; exact canonical_performAt _ _ _ h
    · exact h
  cases p <;> exact hs

/-- Timed loads performed where they wait keep the form. -/
theorem canonical_ripen {s : State} (p : Place) (t : Nat) (h : s.canonical = true) : (s.ripen p t).canonical = true := by
  unfold State.ripen
  dsimp only
  rw [canonical_setCal]
  exact foldl_keeps (P := fun t : State => t.canonical = true) (fun t w ht => by simpa using ht) _ h

/-- Arrivals refused while they wait keep the form. -/
@[simp] theorem canonical_weedWait (s : State) (p : Place) : (s.weedWait p).canonical = s.canonical := by
  unfold State.weedWait
  dsimp only
  split
  · rfl
  · rw [canonical_setCal]
    exact foldl_keeps (P := fun t : State => t.canonical = s.canonical) (fun t e ht => by simpa using ht) _ rfl

/-- Arrivals let into a calendar keep the form. -/
theorem canonical_letIn {s : State} (p : Place) (h : s.canonical = true) : (s.letIn p).canonical = true := by
  have h : (s.weedWait p).canonical = true := (canonical_weedWait s p).trans h
  unfold State.letIn
  dsimp only
  split
  · exact h
  · rw [canonical_setCal]
    exact foldl_keeps (P := fun t : State => t.canonical = true) (fun t e ht => by simpa using ht) _ ((canonical_calRoom _ p).trans h)

/-- What happens at one time of a home's clock keeps the form. -/
theorem canonical_calendarAt {s : State} (p : Place) (t : Nat) (h : s.canonical = true) : (s.calendarAt p t).canonical = true := by
  unfold State.calendarAt
  dsimp only
  refine canonical_ripen _ _ (canonical_letIn _ ?_)
  rw [canonical_setCal]
  refine foldl_keeps (P := fun t : State => t.canonical = true) (fun t e ht => canonical_judgeLate p e ht) _
    (foldl_keeps (P := fun t : State => t.canonical = true) (fun t e ht => canonical_performAt p _ _ ht) _ ?_)
  rw [canonical_setCal, canonical_weedWait]
  exact h

/-- Bringing a home up to its clock keeps the form. -/
theorem canonical_settle {s : State} (p : Place) (h : s.canonical = true) : (s.settle p).canonical = true :=
  foldl_keeps (P := fun t : State => t.canonical = true) (fun _ t ht => canonical_calendarAt p t ht) _ h

/-- Bringing a core up to its clock keeps the form. -/
theorem canonical_applyDue {s : State} (c : Nat) (h : s.canonical = true) : (s.applyDue c).canonical = true := canonical_settle (.core c) h

/-- Bringing every core up to its clock keeps the form. -/
theorem canonical_settleAll {s : State} (h : s.canonical = true) : s.settleAll.canonical = true :=
  foldl_keeps (P := fun t : State => t.canonical = true) (fun _ c ht => canonical_applyDue c ht) _ h

/-- Step 4 of a release at system scope keeps the form. -/
theorem canonical_flushCxl {s : State} (h : s.canonical = true) : s.flushCxl.canonical = true :=
  canonical_linesToMem _ (canonical_settleAll h)

/-! A home that is current -/

/-- No time up to the clock is one at which something is due at a home that is current. -/
theorem current_times {s : State} {p : Place} (h : s.current p = true) : (s.calOf p).times (s.clock p) = [] := by
  simp only [State.current, Bool.and_eq_true, List.all_eq_true, decide_eq_true_eq, Bool.or_eq_true, and_assoc] at h
  have hf : ∀ l : List Nat, (∀ t ∈ l, s.clock p < t) → (l.filter fun t => decide (t ≤ s.clock p)) = [] := by
    intro l hl
    rw [List.filter_eq_nil_iff]
    intro t ht
    simpa using hl t ht
  unfold Cal.times
  dsimp only
  rw [hf]
  · rfl
  · intro t ht
    simp only [List.mem_append, List.mem_map, List.mem_filter] at ht
    rcases ht with (⟨e, he, rfl⟩ | ⟨e, he, rfl⟩) | ⟨w, ⟨hw, hg⟩, rfl⟩
    · exact h.1 e he
    · exact h.2.1 e he
    · rcases h.2.2 w hw with hs | hs
      · rw [Option.isNone_iff_eq_none] at hg
        rw [hg] at hs
        cases hs
      · exact hs

/-- A home that is current is brought up to its clock with no effect. -/
theorem settle_current {s : State} {p : Place} (h : s.current p = true) : s.settle p = s := by
  unfold State.settle
  rw [current_times h]
  rfl

/-- A core that is up to date is brought up to its clock with no effect. -/
theorem applyDue_upToDate {s : State} {c : Nat} (h : s.upToDate c = true) : s.applyDue c = s := settle_current h

/-! Remote-data caches -/

/-- Writing a remote-data line back keeps the form. -/
theorem canonical_rdcFlush {s : State} (d line : Nat) (h : s.canonical = true) : (s.rdcFlush d line).canonical = true := by
  unfold State.rdcFlush
  split
  · exact h
  · split
    · exact h
    · rw [canonical_modDie]
      refine canonical_merge _ _ ?_
      rw [canonical_book, canonical_loseWords]
      exact canonical_settle _ h

/-- Dropping a remote-data line keeps the form. -/
theorem canonical_rdcDrop {s : State} (d line : Nat) (h : s.canonical = true) : (s.rdcDrop d line).canonical = true := by
  simpa only [State.rdcDrop, canonical_modDie] using canonical_rdcFlush d line h

/-- Giving a remote-data line up keeps the form. -/
theorem canonical_yieldLine {s : State} (d pa : Nat) (h : s.canonical = true) : (s.yieldLine d pa).canonical = true := by
  unfold State.yieldLine
  split
  · exact canonical_rdcDrop _ _ h
  · exact h

/-- Writing a group's lines back keeps the form. -/
theorem canonical_rdcRelease {s : State} (d grp : Nat) (h : s.canonical = true) : (s.rdcRelease d grp).canonical = true :=
  foldl_keeps (P := fun t : State => t.canonical = true) (fun _ p ht => canonical_rdcFlush d p.1 ht) _ h

/-- Reading through a remote-data cache keeps the form. -/
theorem canonical_rdcRead {s t : State} {d n : Nat} {a : Access} {bs : List Byte} {miss : Bool} (h : s.canonical = true)
    (hr : s.rdcRead d a n = some (bs, miss, t)) : t.canonical = true := by
  unfold State.rdcRead at hr
  dsimp only at hr
  split at hr
  · cases hr
  split at hr
  · simp only [Option.some.injEq, Prod.mk.injEq] at hr
    rw [← hr.2.2]; exact h
  split at hr
  · cases hr
  split at hr
  · cases hr
  · simp only [Option.some.injEq, Prod.mk.injEq] at hr
    rw [← hr.2.2, canonical_modDie, canonical_homeFill]; exact canonical_settle _ h

/-! Capacities -/

/-- What a set gives up for want of room leaves the form, if what takes a line out does. -/
theorem canonical_trimSet {s : State} {mine : List Nat} {ways : Nat} {out : State → Nat → State}
    (ho : ∀ (t : State) n, t.canonical = true → (out t n).canonical = true) (h : s.canonical = true) :
    (s.trimSet mine ways out).canonical = true := by
  unfold State.trimSet
  split
  · exact h
  · exact ho _ _ h

/-- The caches within their capacities keep the form. -/
theorem canonical_trim {s : State} (h : s.canonical = true) : s.trim.canonical = true := by
  have hr (t : State) (d : Nat) (ht : t.canonical = true) : (t.trimRdc d).canonical = true := by
    unfold State.trimRdc
    split
    · exact ht
    · exact foldl_keeps (P := fun t : State => t.canonical = true)
        (fun t p ht => canonical_trimSet (fun _ n hu => canonical_rdcDrop d n hu) ht) _ ht
  have hh (t : State) (ht : t.canonical = true) : t.trimHome.canonical = true := by
    unfold State.trimHome
    split
    · exact ht
    · exact foldl_keeps (P := fun t : State => t.canonical = true)
        (fun t n ht => canonical_trimSet (fun _ n hu => canonical_evictHome n hu) ht) _ ht
  have hm (t : State) (ht : t.canonical = true) : t.trimMsc.canonical = true := by
    unfold State.trimMsc
    split
    · exact ht
    · exact foldl_keeps (P := fun t : State => t.canonical = true)
        (fun t n ht => canonical_trimSet (fun _ n hu => canonical_evictMsc n hu) ht) _ ht
  exact hm _ (hh _ (foldl_keeps (P := fun t : State => t.canonical = true) (fun t d ht => hr t d ht) _ h))

/-- With little held, the caches have nothing to give up. -/
theorem trim_small {s : State} (hr : ∀ d, (s.die d).rdc.length ≤ 16) (hh : s.homeLines.length ≤ 12) (hm : s.mscLines.length ≤ 24) :
    s.trim = s := by
  have h1 : ∀ d, s.trimRdc d = s := fun d => by simp only [State.trimRdc, hr d, if_true]
  have h2 : (List.range 4).foldl State.trimRdc s = s := by
    simp only [show List.range 4 = [0, 1, 2, 3] from rfl, List.foldl_cons, List.foldl_nil, h1]
  simp only [State.trim, h2, State.trimHome, hh, State.trimMsc, hm, if_true]

end Sys2Proof.Machine
end

