-- ==== Sys2Proof/Laws/Operands.lean ====
section
/-! SUPPORT. What the shared operations of an instruction's body do: reading sources, writing destinations, ending. A read of a
register that gives its value at once changes nothing but that its core is listed, which every later change of the strand absorbs. -/

namespace Sys2Proof.Machine

/-- Two states that later changes of the performing strand cannot tell apart. -/
def Same (s t : State) : Prop := t = s ∨ t = s.modStrand s.cur.1 s.cur.2 id

theorem Same.refl (s : State) : Same s s := .inl rfl

theorem Same.cur {s t : State} (h : Same s t) : t.cur = s.cur := by
  rcases h with rfl | rfl <;> rfl

theorem Same.core {s t : State} (h : Same s t) (c : Nat) : t.core c = s.core c := by
  rcases h with rfl | rfl
  · rfl
  · by_cases hc : c = s.cur.1
    · subst hc; simp [State.core_modStrand, State.strand]
    · simp [State.core_modStrand_ne, hc]

theorem Same.strand {s t : State} (h : Same s t) (c l : Nat) : t.strand c l = s.strand c l := by
  simp [State.strand, h.core]

theorem Same.self {s t : State} (h : Same s t) : t.self = s.self := by
  simp [State.self, h.cur, h.strand]

theorem Same.selfCore {s t : State} (h : Same s t) : t.selfCore = s.selfCore := by
  simp [State.selfCore, h.cur, h.core]

theorem Same.port {s t : State} (h : Same s t) (n : Nat) : t.port n = s.port n := by
  simp [State.port, h.cur, h.selfCore]

theorem Same.readsG {s t : State} (h : Same s t) (n : BitVec 5) (v : Word) : t.readsG n v = s.readsG n v := by
  simp [State.readsG, h.port, h.self]

theorem Same.readsF {s t : State} (h : Same s t) (n : BitVec 5) (v : Word) : t.readsF n v = s.readsF n v := by
  simp [State.readsF, h.self]

theorem Same.readsV {s t : State} (h : Same s t) (n : Nat) (v : VWord) : t.readsV n v = s.readsV n v := by
  simp [State.readsV, h.self]

theorem Same.modStrand {s t : State} (h : Same s t) (f : Strand → Strand) :
    t.modStrand t.cur.1 t.cur.2 f = s.modStrand s.cur.1 s.cur.2 f := by
  rcases h with rfl | rfl
  · rfl
  · simp [State.modStrand_modStrand]

theorem Same.become {s t : State} (h : Same s t) (x : Strand) : t.become x = s.become x := by
  rcases h with rfl | rfl
  · rfl
  · simp [State.become, State.modStrand_eq]

theorem Same.trans {s t u : State} (h : Same s t) (h' : Same t u) : Same s u := by
  rcases h with rfl | rfl
  · exact h'
  · rcases h' with rfl | rfl
    · exact .inr rfl
    · right; exact State.modStrand_modStrand _ _ _ _ _

@[simp] theorem State.self_become (s : State) (x : Strand) : (s.become x).self = x := by
  simp [State.self, State.become]

@[simp] theorem State.cur_become (s : State) (x : Strand) : (s.become x).cur = s.cur := rfl

@[simp] theorem State.become_become (s : State) (x y : Strand) : (s.become x).become y = s.become y := by
  simp [State.become]

/-! The body's own steps -/

theorem M_bind {α β : Type} (m : M α) (f : α → M β) (s : State) :
    (m >>= f) s = match m s with | .ok (a, t) => f a t | .error e => .error e := by
  show StateT.bind m f s = _
  unfold StateT.bind
  show Except.bind _ _ = _
  unfold Except.bind
  cases m s with
  | error e => rfl
  | ok p => rfl

/-- What follows a step that answers. -/
theorem M_bind_ok {α β : Type} {m : M α} {f : α → M β} {s t : State} {a : α} (h : m s = .ok (a, t)) : (m >>= f) s = f a t := by
  rw [M_bind, h]

theorem M_bind_error {α β : Type} {m : M α} {f : α → M β} {s : State} {e : Stop} (h : m s = .error e) : (m >>= f) s = .error e := by
  rw [M_bind, h]

@[simp] theorem M_pure {α : Type} (a : α) (s : State) : (pure a : M α) s = .ok (a, s) := rfl

@[simp] theorem me_run (s : State) : me s = .ok (s.self, s) := rfl

@[simp] theorem myCore_run (s : State) : myCore s = .ok (s.selfCore, s) := rfl

@[simp] theorem modMe_run (f : Strand → Strand) (s : State) : modMe f s = .ok ((), s.modStrand s.cur.1 s.cur.2 f) := rfl

@[simp] theorem modCore_run (f : Core → Core) (s : State) : modCore f s = .ok ((), s.modCore s.cur.1 f) := rfl

@[simp] theorem get_run (s : State) : (get : M State) s = .ok (s, s) := rfl

@[simp] theorem set_run (s t : State) : (set t : M Unit) s = .ok ((), t) := rfl

@[simp] theorem modify_run (f : State → State) (s : State) : (modify f : M Unit) s = .ok ((), f s) := rfl

@[simp] theorem trap_run {α : Type} (c : BitVec 8) (i : Word) (s : State) : (trap c i : M α) s = .error (.trap c i) := rfl

@[simp] theorem park_run {α : Type} (p : Park) (s : State) : (park p : M α) s = .error (.park p) := rfl

@[simp] theorem isPort_run (n : Nat) (s : State) : isPort n s = .ok (s.port n, s) := rfl

/-! Sources -/

theorem readG_zero (s : State) : readG 0 s = .ok (0, s) := rfl

/-- A register that gives its value at once. -/
theorem readState_gives {w : Nat} {r : Reg w} {s : State} {v : BitVec w} (cls n : Nat) (h : r.gives s.self.dt v = true) :
    readState r cls n s = .ok (v, s) := by
  unfold Reg.gives at h
  simp only [Bool.and_eq_true, Option.isNone_iff_eq_none] at h
  obtain ⟨ho, h⟩ := h
  unfold readState
  cases hst : r.st with
  | full =>
    simp [hst] at h
    subst h
    simp [ho]
  | dead =>
    simp [hst] at h
    obtain ⟨h1, h2⟩ := h
    subst h2
    simp [M_bind, h1]
  | empty => simp [hst] at h
  | pending t b => simp [hst] at h

theorem Reg.gives_owe {w : Nat} {r : Reg w} {dt : Bool} {v : BitVec w} (h : r.gives dt v = true) : r.owe = none := by
  unfold Reg.gives at h
  simp only [Bool.and_eq_true, Option.isNone_iff_eq_none] at h
  exact h.1

/-- A g source that reads at once (R199). -/
theorem readG_gives {s : State} {n : BitVec 5} {v : Word} (h : s.readsG n v = true) : ∃ t, readG n.toNat s = .ok (v, t) ∧ Same s t := by
  unfold State.readsG at h
  split at h
  · rename_i hn
    subst hn
    simp at h
    subst h
    exact ⟨s, rfl, .refl s⟩
  · rename_i hn
    simp only [Bool.and_eq_true, Bool.not_eq_true'] at h
    obtain ⟨hp, hr⟩ := h
    have hn' : n.toNat ≠ 0 := by
      intro h; exact hn (BitVec.eq_of_toNat_eq (by simpa using h))
    refine ⟨s.modStrand s.cur.1 s.cur.2 id, ?_, .inr rfl⟩
    have ho := Reg.gives_owe hr
    have e : ∀ x : Strand, vget x.g n.toNat = vget s.self.g n.toNat →
        ({ x with g := vset x.g n.toNat { vget x.g n.toNat with owe := none } } : Strand) = x := by
      intro x hx
      have : ({ vget x.g n.toNat with owe := none } : Reg 64) = vget x.g n.toNat := by
        rw [hx]; cases hv : vget s.self.g n.toNat; simp [hv] at ho; simp [ho]
      rw [this]; simp
    unfold readG
    rw [if_neg hn', M_bind_ok (isPort_run _ _), hp]
    simp only [Bool.false_eq_true, if_false]
    rw [M_bind_ok (me_run s), M_bind_ok (readState_gives 0 n.toNat hr), M_bind_ok (modMe_run _ _)]
    simp only [M_pure, State.modStrand_eq, id]
    have := e s.self rfl
    simp only [State.self] at this
    rw [this]

/-- The same source named twice gives one value. -/
theorem State.readsG_unique {s : State} {n : BitVec 5} {v w : Word} (h : s.readsG n v = true) (h' : s.readsG n w = true) : v = w := by
  obtain ⟨t, e, _⟩ := readG_gives h
  obtain ⟨t', e', _⟩ := readG_gives h'
  rw [e] at e'
  simp at e'
  exact e'.1

/-- The reads that `two` and its like build on: a value at once, and a state that is the same. -/
def ReadsAt {α : Type} (read : Nat → M α) (n : Nat) (s : State) (v : α) : Prop :=
  ∀ t, Same s t → ∃ u, read n t = .ok (v, u) ∧ Same s u

theorem readsAt_readG {s : State} {n : BitVec 5} {v : Word} (h : s.readsG n v = true) : ReadsAt readG n.toNat s v := by
  intro t ht
  obtain ⟨u, e, hu⟩ := readG_gives (s := t) (n := n) (v := v) (by rw [ht.readsG]; exact h)
  exact ⟨u, e, ht.trans hu⟩

/-- The register update that a read makes when nothing is owed is none. -/
theorem putOwe {w n : Nat} (v : Vector (Reg w) (n + 1)) (i : Nat) (h : (vget v i).owe = none) :
    vset v i { vget v i with owe := none } = v := by
  have : ({ vget v i with owe := none } : Reg w) = vget v i := by
    cases hv : vget v i
    simp [hv] at h
    simp [h]
  rw [this, vset_vget]

theorem readsAt_readF {s : State} {n : BitVec 5} {v : Word} (h : s.readsF n v = true) : ReadsAt readF n.toNat s v := by
  intro t ht
  rw [← ht.readsF] at h
  unfold State.readsF at h
  simp only [Bool.and_eq_true, Option.isNone_iff_eq_none] at h
  obtain ⟨hs, hr⟩ := h
  refine ⟨t.modStrand t.cur.1 t.cur.2 id, ?_, ht.trans (.inr rfl)⟩
  unfold readF
  rw [M_bind_ok (me_run t), hs]
  simp only
  rw [M_bind_ok (me_run t), M_bind_ok (readState_gives 1 n.toNat hr), M_bind_ok (modMe_run _ _)]
  have e := putOwe t.self.f n.toNat (Reg.gives_owe hr)
  simp only [M_pure, State.modStrand_eq, id]
  simp only [State.self] at e
  rw [e]

theorem readsAt_readV {s : State} {n : Nat} {v : VWord} (h : s.readsV n v = true) : ReadsAt readV n s v := by
  intro t ht
  rw [← ht.readsV] at h
  unfold State.readsV at h
  simp only [Bool.and_eq_true, Option.isNone_iff_eq_none] at h
  obtain ⟨hs, hr⟩ := h
  refine ⟨t, ?_, ht⟩
  unfold readV
  rw [M_bind_ok (me_run t), hs]
  simp only
  rw [M_bind_ok (me_run t), readState_gives 2 n hr]

/-- Two sources that read at once (R199). -/
theorem two_reads {α : Type} {read : Nat → M α} {a b : Nat} {s : State} {x y : α} (ha : ReadsAt read a s x) (hb : ReadsAt read b s y)
    (t : State) (ht : Same s t) : ∃ u, two read a b t = .ok ((x, y), u) ∧ Same s u := by
  obtain ⟨u, e, hu⟩ := ha t ht
  unfold two
  rw [M_bind_ok e]
  by_cases hab : b = a
  · subst hab
    obtain ⟨u', e', _⟩ := hb t ht
    rw [e] at e'
    simp at e'
    rw [if_pos rfl, ← e'.1]
    exact ⟨u, rfl, hu⟩
  · obtain ⟨u', e', hu'⟩ := hb u hu
    rw [if_neg hab, M_bind_ok e']
    exact ⟨u', rfl, hu'⟩

/-- Three sources that read at once. -/
theorem three_reads {α : Type} {read : Nat → M α} {a b c : Nat} {s : State} {x y z : α} (ha : ReadsAt read a s x) (hb : ReadsAt read b s y)
    (hc : ReadsAt read c s z) (t : State) (ht : Same s t) : ∃ u, three read a b c t = .ok ((x, y, z), u) ∧ Same s u := by
  obtain ⟨u, e, hu⟩ := two_reads ha hb t ht
  have key {n : Nat} {v w : α} (h1 : ReadsAt read n s v) (h2 : ReadsAt read n s w) : v = w := by
    obtain ⟨_, e1, _⟩ := h1 s (.refl s)
    obtain ⟨_, e2, _⟩ := h2 s (.refl s)
    rw [e1] at e2
    simp at e2
    exact e2.1
  unfold three
  rw [M_bind_ok e]
  by_cases hca : c = a
  · subst hca
    simp only [if_true]
    rw [key hc ha]
    exact ⟨u, rfl, hu⟩
  · by_cases hcb : c = b
    · subst hcb
      simp only [hca, if_false, if_true]
      rw [key hc hb]
      exact ⟨u, rfl, hu⟩
    · obtain ⟨u', e', hu'⟩ := hc u hu
      simp only [hca, hcb, if_false]
      rw [M_bind_ok e']
      exact ⟨u', rfl, hu'⟩

/-! Destinations -/

/-- A local write of a g register that is no queue port (R221). -/
theorem writeG_plain {s : State} {n : BitVec 5} (v : Word) (h : s.port n.toNat = false) :
    ∃ t, writeG n.toNat v s = .ok ((), t) ∧ ∀ f : Strand → Strand,
      t.modStrand s.cur.1 s.cur.2 f = s.modStrand s.cur.1 s.cur.2 fun x => f (x.putG n v) := by
  unfold writeG
  by_cases hn : n = 0
  · subst hn
    exact ⟨s, rfl, fun f => rfl⟩
  · have hn' : n.toNat ≠ 0 := by
      intro h; exact hn (BitVec.eq_of_toNat_eq (by simpa using h))
    rw [if_neg hn', M_bind_ok (isPort_run _ _), h]
    refine ⟨_, rfl, fun f => ?_⟩
    rw [State.modStrand_modStrand]
    simp only [Strand.putG, if_neg hn]

/-- A local write of an f register that no stream is bound to. -/
theorem writeF_plain {s : State} {n : BitVec 5} (v : Word) (h : s.plainF n = true) :
    writeF n.toNat v s = .ok ((), s.modStrand s.cur.1 s.cur.2 fun x => x.putF n v) := by
  unfold State.plainF at h
  simp only [Option.isNone_iff_eq_none] at h
  unfold writeF
  rw [M_bind_ok (me_run s), h]
  rfl

/-- A local write of a v register that no stream is bound to. -/
theorem writeV_plain {s : State} {n : Nat} (v : VWord) (h : s.plainV n = true) :
    writeV n v s = .ok ((), s.modStrand s.cur.1 s.cur.2 fun x => x.putV n v) := by
  unfold State.plainV at h
  simp only [Option.isNone_iff_eq_none] at h
  unfold writeV
  rw [M_bind_ok (me_run s), h]
  rfl

/-! Ending -/

/-- An instruction whose body runs to its end goes on to the next one. -/
theorem instr_next {body : M After} {s t : State} (h : body s = .ok (.next, t)) :
    instr body s = .next (t.retireNext s.cur.1 s.cur.2) := by
  have h' : StateT.run body s = .ok (.next, t) := h
  simp [instr, State.run, h']

theorem instr_jump {body : M After} {s t : State} {pc : Word} (h : body s = .ok (.jump pc, t)) :
    instr body s = .next (t.modStrand s.cur.1 s.cur.2 fun x => x.retire pc) := by
  have h' : StateT.run body s = .ok (.jump pc, t) := h
  simp [instr, State.run, h']

theorem instr_wait {body : M After} {s t : State} {p : Park} (h : body s = .ok (.wait p, t)) :
    instr body s = .next (t.parkStrand s.cur.1 s.cur.2 p) := by
  have h' : StateT.run body s = .ok (.wait p, t) := h
  simp [instr, State.run, h']

theorem instr_gone {body : M After} {s t : State} (h : body s = .ok (.gone, t)) : instr body s = .next t := by
  have h' : StateT.run body s = .ok (.gone, t) := h
  simp [instr, State.run, h']

/-- An instruction whose body stops, other than at a DEAD source or at what the checks of a stream's element find (R178). -/
theorem instr_stop {body : M After} {s : State} {e : Stop} (h : body s = .error e) (hd : e.ofDead = false) (he : e.ofElement = false) :
    instr body s = .next (s.stopped e) := by
  have h' : StateT.run body s = .error e := h
  have hf : s.firstStop body e = e := by simp [State.firstStop, hd, he]
  simp [instr, State.run, h', hf]

/-- An instruction whose body stops at a DEAD source, and no source of which parks when DEAD ones give zero and stream-bound ones are there,
takes DEAD_READ. -/
theorem instr_dead {body : M After} {s : State} {i : Word} (h : body s = .error (.trap causeDead i))
    (hl : ∀ p, body s.lenient = .error p → p.ofSource = false) : instr body s = .next (s.stopped (.trap causeDead i)) := by
  have h' : StateT.run body s = .error (.trap causeDead i) := h
  have hd : Stop.ofDead (.trap causeDead i) = true := by simp [Stop.ofDead]
  have hf : s.firstStop body (.trap causeDead i) = .trap causeDead i := by
    rw [State.firstStop, if_pos hd]
    unfold State.orPark
    split
    · next p hp => rw [if_neg (by rw [hl p hp]; decide)]
    · rfl
  simp [instr, State.run, h', hf]

/-- A form with two g sources and a g destination, all of which are at hand (R199, R200). -/
theorem bin_result {s : State} {d a b : BitVec 5} {x y : Word} (op : Word → Word → Word) (ha : s.readsG a x = true)
    (hb : s.readsG b y = true) (hd : s.port d.toNat = false) :
    instr (bin op d a b) s = .next (s.become (s.self.putG d (op x y)).went) := by
  obtain ⟨u, e, hu⟩ := two_reads (readsAt_readG ha) (readsAt_readG hb) s (.refl s)
  obtain ⟨t, et, ht⟩ := writeG_plain (s := u) (n := d) (op x y) (by rw [hu.port]; exact hd)
  have hb : bin op d a b s = .ok (.next, t) := by
    unfold bin
    rw [M_bind_ok e]
    simp only
    rw [M_bind_ok et]
    rfl
  rw [instr_next hb, State.retireNext, ← hu.cur, ht, hu.modStrand]
  rfl

/-- A form with one g source and a g destination, both at hand. -/
theorem una_result {s : State} {d a : BitVec 5} {x : Word} (op : Word → Word) (ha : s.readsG a x = true) (hd : s.port d.toNat = false) :
    instr (una op d a) s = .next (s.become (s.self.putG d (op x)).went) := by
  obtain ⟨u, e, hu⟩ := readsAt_readG ha s (.refl s)
  obtain ⟨t, et, ht⟩ := writeG_plain (s := u) (n := d) (op x) (by rw [hu.port]; exact hd)
  have hb : una op d a s = .ok (.next, t) := by
    unfold una
    rw [M_bind_ok e]
    rw [M_bind_ok et]
    rfl
  rw [instr_next hb, State.retireNext, ← hu.cur, ht, hu.modStrand]
  rfl

end Sys2Proof.Machine
end

