-- ==== Sys2Proof/Laws/PerInstr.lean ====
section
/-! SUPPORT. What holds of each instruction as syntax: the word that an instruction has lies in a major that R179 lists. It is
what lets `decode` reach the instruction's own group. -/

namespace Sys2Proof.Laws

/-- The part of an appended word above bit j lies in its left part. -/
theorem append_high {m n j : Nat} (x : BitVec m) (y : BitVec n) (h : n ≤ j) :
    (x ++ y).toNat / 2 ^ j = x.toNat / 2 ^ (j - n) := by
  obtain ⟨k, rfl⟩ := Nat.exists_eq_add_of_le h
  rw [BitVec.toNat_append, Nat.shiftLeft_eq, Nat.mul_comm, ← Nat.two_pow_add_eq_or_of_lt y.isLt, Nat.pow_add,
    ← Nat.div_div_eq_div_mul, Nat.mul_add_div (by positivity), Nat.div_eq_of_lt y.isLt]
  simp

/-- The word of the instruction, if it has one, has a major from 0x01 to 0x33 (R176, R179). -/
def MajorListed.Statement (i : Instr) : Prop :=
  ∀ w, encode i = some w → 1 ≤ w.toNat / 2 ^ 26 ∧ w.toNat / 2 ^ 26 ≤ 0x33

theorem MajorListed.trap (k : BitVec 10) : MajorListed.Statement (.trap k) := by
  rintro _ ⟨⟩; simp only [append_high, Nat.reduceLeDiff, Nat.reduceSub]; decide

theorem MajorListed.eret : MajorListed.Statement .eret := by
  rintro _ ⟨⟩; simp only [append_high, Nat.reduceLeDiff, Nat.reduceSub]; decide

theorem MajorListed.mfs (d : BitVec 5) (sc : BitVec 10) : MajorListed.Statement (.mfs d sc) := by
  rintro _ ⟨⟩; simp only [append_high, Nat.reduceLeDiff, Nat.reduceSub]; decide

theorem MajorListed.mts (a : BitVec 5) (sc : BitVec 10) : MajorListed.Statement (.mts a sc) := by
  rintro _ ⟨⟩; simp only [append_high, Nat.reduceLeDiff, Nat.reduceSub]; decide

theorem MajorListed.mfk (d : BitVec 5) (k : BitVec 4) : MajorListed.Statement (.mfk d k) := by
  rintro _ ⟨⟩; simp only [append_high, Nat.reduceLeDiff, Nat.reduceSub]; decide

theorem MajorListed.mtk (k : BitVec 4) (a : BitVec 5) : MajorListed.Statement (.mtk k a) := by
  rintro _ ⟨⟩; simp only [append_high, Nat.reduceLeDiff, Nat.reduceSub]; decide

theorem MajorListed.cctlWb (a : BitVec 5) : MajorListed.Statement (.cctlWb a) := by
  rintro _ ⟨⟩; simp only [append_high, Nat.reduceLeDiff, Nat.reduceSub]; decide

theorem MajorListed.cctlInv (a : BitVec 5) : MajorListed.Statement (.cctlInv a) := by
  rintro _ ⟨⟩; simp only [append_high, Nat.reduceLeDiff, Nat.reduceSub]; decide

theorem MajorListed.cctlDrop (a : BitVec 5) : MajorListed.Statement (.cctlDrop a) := by
  rintro _ ⟨⟩; simp only [append_high, Nat.reduceLeDiff, Nat.reduceSub]; decide

theorem MajorListed.cctlFlash : MajorListed.Statement .cctlFlash := by
  rintro _ ⟨⟩; simp only [append_high, Nat.reduceLeDiff, Nat.reduceSub]; decide

theorem MajorListed.cctlIinv : MajorListed.Statement .cctlIinv := by
  rintro _ ⟨⟩; simp only [append_high, Nat.reduceLeDiff, Nat.reduceSub]; decide

theorem MajorListed.tlbinv (a : BitVec 5) (b : BitVec 5) (l : BitVec 1) (k : BitVec 3) : MajorListed.Statement (.tlbinv a b l k) := by
  rintro _ ⟨⟩; simp only [append_high, Nat.reduceLeDiff, Nat.reduceSub]; decide

theorem MajorListed.brk (k : BitVec 10) : MajorListed.Statement (.brk k) := by
  rintro _ ⟨⟩; simp only [append_high, Nat.reduceLeDiff, Nat.reduceSub]; decide

theorem MajorListed.waitev (d : BitVec 5) (a : BitVec 5) : MajorListed.Statement (.waitev d a) := by
  rintro _ ⟨⟩; simp only [append_high, Nat.reduceLeDiff, Nat.reduceSub]; decide

theorem MajorListed.add (d : BitVec 5) (a : BitVec 5) (b : BitVec 5) : MajorListed.Statement (.add d a b) := by
  rintro _ ⟨⟩; simp only [append_high, Nat.reduceLeDiff, Nat.reduceSub]; decide

theorem MajorListed.sub (d : BitVec 5) (a : BitVec 5) (b : BitVec 5) : MajorListed.Statement (.sub d a b) := by
  rintro _ ⟨⟩; simp only [append_high, Nat.reduceLeDiff, Nat.reduceSub]; decide

theorem MajorListed.and (d : BitVec 5) (a : BitVec 5) (b : BitVec 5) : MajorListed.Statement (.and d a b) := by
  rintro _ ⟨⟩; simp only [append_high, Nat.reduceLeDiff, Nat.reduceSub]; decide

theorem MajorListed.or (d : BitVec 5) (a : BitVec 5) (b : BitVec 5) : MajorListed.Statement (.or d a b) := by
  rintro _ ⟨⟩; simp only [append_high, Nat.reduceLeDiff, Nat.reduceSub]; decide

theorem MajorListed.xor (d : BitVec 5) (a : BitVec 5) (b : BitVec 5) : MajorListed.Statement (.xor d a b) := by
  rintro _ ⟨⟩; simp only [append_high, Nat.reduceLeDiff, Nat.reduceSub]; decide

theorem MajorListed.sll (d : BitVec 5) (a : BitVec 5) (b : BitVec 5) : MajorListed.Statement (.sll d a b) := by
  rintro _ ⟨⟩; simp only [append_high, Nat.reduceLeDiff, Nat.reduceSub]; decide

theorem MajorListed.srl (d : BitVec 5) (a : BitVec 5) (b : BitVec 5) : MajorListed.Statement (.srl d a b) := by
  rintro _ ⟨⟩; simp only [append_high, Nat.reduceLeDiff, Nat.reduceSub]; decide

theorem MajorListed.sra (d : BitVec 5) (a : BitVec 5) (b : BitVec 5) : MajorListed.Statement (.sra d a b) := by
  rintro _ ⟨⟩; simp only [append_high, Nat.reduceLeDiff, Nat.reduceSub]; decide

theorem MajorListed.slt (d : BitVec 5) (a : BitVec 5) (b : BitVec 5) : MajorListed.Statement (.slt d a b) := by
  rintro _ ⟨⟩; simp only [append_high, Nat.reduceLeDiff, Nat.reduceSub]; decide

theorem MajorListed.sltn (d : BitVec 5) (a : BitVec 5) (b : BitVec 5) : MajorListed.Statement (.sltn d a b) := by
  rintro _ ⟨⟩; simp only [append_high, Nat.reduceLeDiff, Nat.reduceSub]; decide

theorem MajorListed.min (d : BitVec 5) (a : BitVec 5) (b : BitVec 5) : MajorListed.Statement (.min d a b) := by
  rintro _ ⟨⟩; simp only [append_high, Nat.reduceLeDiff, Nat.reduceSub]; decide

theorem MajorListed.max (d : BitVec 5) (a : BitVec 5) (b : BitVec 5) : MajorListed.Statement (.max d a b) := by
  rintro _ ⟨⟩; simp only [append_high, Nat.reduceLeDiff, Nat.reduceSub]; decide

theorem MajorListed.minn (d : BitVec 5) (a : BitVec 5) (b : BitVec 5) : MajorListed.Statement (.minn d a b) := by
  rintro _ ⟨⟩; simp only [append_high, Nat.reduceLeDiff, Nat.reduceSub]; decide

theorem MajorListed.maxn (d : BitVec 5) (a : BitVec 5) (b : BitVec 5) : MajorListed.Statement (.maxn d a b) := by
  rintro _ ⟨⟩; simp only [append_high, Nat.reduceLeDiff, Nat.reduceSub]; decide

theorem MajorListed.mul (d : BitVec 5) (a : BitVec 5) (b : BitVec 5) : MajorListed.Statement (.mul d a b) := by
  rintro _ ⟨⟩; simp only [append_high, Nat.reduceLeDiff, Nat.reduceSub]; decide

theorem MajorListed.mulh (d : BitVec 5) (a : BitVec 5) (b : BitVec 5) : MajorListed.Statement (.mulh d a b) := by
  rintro _ ⟨⟩; simp only [append_high, Nat.reduceLeDiff, Nat.reduceSub]; decide

theorem MajorListed.mulhn (d : BitVec 5) (a : BitVec 5) (b : BitVec 5) : MajorListed.Statement (.mulhn d a b) := by
  rintro _ ⟨⟩; simp only [append_high, Nat.reduceLeDiff, Nat.reduceSub]; decide

theorem MajorListed.div (d : BitVec 5) (a : BitVec 5) (b : BitVec 5) : MajorListed.Statement (.div d a b) := by
  rintro _ ⟨⟩; simp only [append_high, Nat.reduceLeDiff, Nat.reduceSub]; decide

theorem MajorListed.divn (d : BitVec 5) (a : BitVec 5) (b : BitVec 5) : MajorListed.Statement (.divn d a b) := by
  rintro _ ⟨⟩; simp only [append_high, Nat.reduceLeDiff, Nat.reduceSub]; decide

theorem MajorListed.rem (d : BitVec 5) (a : BitVec 5) (b : BitVec 5) : MajorListed.Statement (.rem d a b) := by
  rintro _ ⟨⟩; simp only [append_high, Nat.reduceLeDiff, Nat.reduceSub]; decide

theorem MajorListed.remn (d : BitVec 5) (a : BitVec 5) (b : BitVec 5) : MajorListed.Statement (.remn d a b) := by
  rintro _ ⟨⟩; simp only [append_high, Nat.reduceLeDiff, Nat.reduceSub]; decide

theorem MajorListed.clz (d : BitVec 5) (a : BitVec 5) : MajorListed.Statement (.clz d a) := by
  rintro _ ⟨⟩; simp only [append_high, Nat.reduceLeDiff, Nat.reduceSub]; decide

theorem MajorListed.ctz (d : BitVec 5) (a : BitVec 5) : MajorListed.Statement (.ctz d a) := by
  rintro _ ⟨⟩; simp only [append_high, Nat.reduceLeDiff, Nat.reduceSub]; decide

theorem MajorListed.popc (d : BitVec 5) (a : BitVec 5) : MajorListed.Statement (.popc d a) := by
  rintro _ ⟨⟩; simp only [append_high, Nat.reduceLeDiff, Nat.reduceSub]; decide

theorem MajorListed.sel (d : BitVec 5) (a : BitVec 5) (b : BitVec 5) (c : BitVec 5) : MajorListed.Statement (.sel d a b c) := by
  rintro _ ⟨⟩; simp only [append_high, Nat.reduceLeDiff, Nat.reduceSub]; decide

theorem MajorListed.addsh (d : BitVec 5) (a : BitVec 5) (b : BitVec 5) (sc : BitVec 5) : MajorListed.Statement (.addsh d a b sc) := by
  rintro _ ⟨⟩; simp only [append_high, Nat.reduceLeDiff, Nat.reduceSub]; decide

theorem MajorListed.addi (d : BitVec 5) (a : BitVec 5) (imm : BitVec 16) : MajorListed.Statement (.addi d a imm) := by
  rintro _ ⟨⟩; simp only [append_high, Nat.reduceLeDiff, Nat.reduceSub]; decide

theorem MajorListed.andi (d : BitVec 5) (a : BitVec 5) (imm : BitVec 16) : MajorListed.Statement (.andi d a imm) := by
  rintro _ ⟨⟩; simp only [append_high, Nat.reduceLeDiff, Nat.reduceSub]; decide

theorem MajorListed.ori (d : BitVec 5) (a : BitVec 5) (imm : BitVec 16) : MajorListed.Statement (.ori d a imm) := by
  rintro _ ⟨⟩; simp only [append_high, Nat.reduceLeDiff, Nat.reduceSub]; decide

theorem MajorListed.xori (d : BitVec 5) (a : BitVec 5) (imm : BitVec 16) : MajorListed.Statement (.xori d a imm) := by
  rintro _ ⟨⟩; simp only [append_high, Nat.reduceLeDiff, Nat.reduceSub]; decide

theorem MajorListed.slti (d : BitVec 5) (a : BitVec 5) (imm : BitVec 16) : MajorListed.Statement (.slti d a imm) := by
  rintro _ ⟨⟩; simp only [append_high, Nat.reduceLeDiff, Nat.reduceSub]; decide

theorem MajorListed.slli (d : BitVec 5) (a : BitVec 5) (n : BitVec 6) : MajorListed.Statement (.slli d a n) := by
  rintro _ ⟨⟩; simp only [append_high, Nat.reduceLeDiff, Nat.reduceSub]; decide

theorem MajorListed.srli (d : BitVec 5) (a : BitVec 5) (n : BitVec 6) : MajorListed.Statement (.srli d a n) := by
  rintro _ ⟨⟩; simp only [append_high, Nat.reduceLeDiff, Nat.reduceSub]; decide

theorem MajorListed.srai (d : BitVec 5) (a : BitVec 5) (n : BitVec 6) : MajorListed.Statement (.srai d a n) := by
  rintro _ ⟨⟩; simp only [append_high, Nat.reduceLeDiff, Nat.reduceSub]; decide

theorem MajorListed.ext (d : BitVec 5) (a : BitVec 5) (p : BitVec 6) (l : BitVec 6) : MajorListed.Statement (.ext d a p l) := by
  rintro _ ⟨⟩; simp only [append_high, Nat.reduceLeDiff, Nat.reduceSub]; decide

theorem MajorListed.ins (d : BitVec 5) (a : BitVec 5) (p : BitVec 6) (l : BitVec 6) : MajorListed.Statement (.ins d a p l) := by
  rintro _ ⟨⟩; simp only [append_high, Nat.reduceLeDiff, Nat.reduceSub]; decide

theorem MajorListed.ldi (d : BitVec 5) (imm : BitVec 21) : MajorListed.Statement (.ldi d imm) := by
  rintro _ ⟨⟩; simp only [append_high, Nat.reduceLeDiff, Nat.reduceSub]; decide

theorem MajorListed.ldhi (d : BitVec 5) (imm : BitVec 21) : MajorListed.Statement (.ldhi d imm) := by
  rintro _ ⟨⟩; simp only [append_high, Nat.reduceLeDiff, Nat.reduceSub]; decide

theorem MajorListed.ldxh (d : BitVec 5) (imm : BitVec 21) : MajorListed.Statement (.ldxh d imm) := by
  rintro _ ⟨⟩; simp only [append_high, Nat.reduceLeDiff, Nat.reduceSub]; decide

theorem MajorListed.beq (a : BitVec 5) (b : BitVec 5) (o : BitVec 16) : MajorListed.Statement (.beq a b o) := by
  rintro _ ⟨⟩; simp only [append_high, Nat.reduceLeDiff, Nat.reduceSub]; decide

theorem MajorListed.bne (a : BitVec 5) (b : BitVec 5) (o : BitVec 16) : MajorListed.Statement (.bne a b o) := by
  rintro _ ⟨⟩; simp only [append_high, Nat.reduceLeDiff, Nat.reduceSub]; decide

theorem MajorListed.blt (a : BitVec 5) (b : BitVec 5) (o : BitVec 16) : MajorListed.Statement (.blt a b o) := by
  rintro _ ⟨⟩; simp only [append_high, Nat.reduceLeDiff, Nat.reduceSub]; decide

theorem MajorListed.bge (a : BitVec 5) (b : BitVec 5) (o : BitVec 16) : MajorListed.Statement (.bge a b o) := by
  rintro _ ⟨⟩; simp only [append_high, Nat.reduceLeDiff, Nat.reduceSub]; decide

theorem MajorListed.bltn (a : BitVec 5) (b : BitVec 5) (o : BitVec 16) : MajorListed.Statement (.bltn a b o) := by
  rintro _ ⟨⟩; simp only [append_high, Nat.reduceLeDiff, Nat.reduceSub]; decide

theorem MajorListed.bgen (a : BitVec 5) (b : BitVec 5) (o : BitVec 16) : MajorListed.Statement (.bgen a b o) := by
  rintro _ ⟨⟩; simp only [append_high, Nat.reduceLeDiff, Nat.reduceSub]; decide

theorem MajorListed.jmp (o : BitVec 26) : MajorListed.Statement (.jmp o) := by
  rintro _ ⟨⟩; simp only [append_high, Nat.reduceLeDiff, Nat.reduceSub]; decide

theorem MajorListed.call (o : BitVec 26) : MajorListed.Statement (.call o) := by
  rintro _ ⟨⟩; simp only [append_high, Nat.reduceLeDiff, Nat.reduceSub]; decide

theorem MajorListed.jr (a : BitVec 5) : MajorListed.Statement (.jr a) := by
  rintro _ ⟨⟩; simp only [append_high, Nat.reduceLeDiff, Nat.reduceSub]; decide

theorem MajorListed.callr (a : BitVec 5) : MajorListed.Statement (.callr a) := by
  rintro _ ⟨⟩; simp only [append_high, Nat.reduceLeDiff, Nat.reduceSub]; decide

theorem MajorListed.ret : MajorListed.Statement .ret := by
  rintro _ ⟨⟩; simp only [append_high, Nat.reduceLeDiff, Nat.reduceSub]; decide

theorem MajorListed.ldb (d : BitVec 5) (a : BitVec 5) (imm : BitVec 16) : MajorListed.Statement (.ldb d a imm) := by
  rintro _ ⟨⟩; simp only [append_high, Nat.reduceLeDiff, Nat.reduceSub]; decide

theorem MajorListed.ldbn (d : BitVec 5) (a : BitVec 5) (imm : BitVec 16) : MajorListed.Statement (.ldbn d a imm) := by
  rintro _ ⟨⟩; simp only [append_high, Nat.reduceLeDiff, Nat.reduceSub]; decide

theorem MajorListed.ldh (d : BitVec 5) (a : BitVec 5) (imm : BitVec 16) : MajorListed.Statement (.ldh d a imm) := by
  rintro _ ⟨⟩; simp only [append_high, Nat.reduceLeDiff, Nat.reduceSub]; decide

theorem MajorListed.ldhn (d : BitVec 5) (a : BitVec 5) (imm : BitVec 16) : MajorListed.Statement (.ldhn d a imm) := by
  rintro _ ⟨⟩; simp only [append_high, Nat.reduceLeDiff, Nat.reduceSub]; decide

theorem MajorListed.ldw (d : BitVec 5) (a : BitVec 5) (imm : BitVec 16) : MajorListed.Statement (.ldw d a imm) := by
  rintro _ ⟨⟩; simp only [append_high, Nat.reduceLeDiff, Nat.reduceSub]; decide

theorem MajorListed.ldwn (d : BitVec 5) (a : BitVec 5) (imm : BitVec 16) : MajorListed.Statement (.ldwn d a imm) := by
  rintro _ ⟨⟩; simp only [append_high, Nat.reduceLeDiff, Nat.reduceSub]; decide

theorem MajorListed.ldd (d : BitVec 5) (a : BitVec 5) (imm : BitVec 16) : MajorListed.Statement (.ldd d a imm) := by
  rintro _ ⟨⟩; simp only [append_high, Nat.reduceLeDiff, Nat.reduceSub]; decide

theorem MajorListed.stb (b : BitVec 5) (a : BitVec 5) (imm : BitVec 16) : MajorListed.Statement (.stb b a imm) := by
  rintro _ ⟨⟩; simp only [append_high, Nat.reduceLeDiff, Nat.reduceSub]; decide

theorem MajorListed.sth (b : BitVec 5) (a : BitVec 5) (imm : BitVec 16) : MajorListed.Statement (.sth b a imm) := by
  rintro _ ⟨⟩; simp only [append_high, Nat.reduceLeDiff, Nat.reduceSub]; decide

theorem MajorListed.stw (b : BitVec 5) (a : BitVec 5) (imm : BitVec 16) : MajorListed.Statement (.stw b a imm) := by
  rintro _ ⟨⟩; simp only [append_high, Nat.reduceLeDiff, Nat.reduceSub]; decide

theorem MajorListed.std (b : BitVec 5) (a : BitVec 5) (imm : BitVec 16) : MajorListed.Statement (.std b a imm) := by
  rintro _ ⟨⟩; simp only [append_high, Nat.reduceLeDiff, Nat.reduceSub]; decide

theorem MajorListed.vld (d : BitVec 4) (a : BitVec 5) (imm : BitVec 16) : MajorListed.Statement (.vld d a imm) := by
  rintro _ ⟨⟩; simp only [append_high, Nat.reduceLeDiff, Nat.reduceSub]; decide

theorem MajorListed.vst (b : BitVec 4) (a : BitVec 5) (imm : BitVec 16) : MajorListed.Statement (.vst b a imm) := by
  rintro _ ⟨⟩; simp only [append_high, Nat.reduceLeDiff, Nat.reduceSub]; decide

theorem MajorListed.fldd (d : BitVec 5) (a : BitVec 5) (imm : BitVec 16) : MajorListed.Statement (.fldd d a imm) := by
  rintro _ ⟨⟩; simp only [append_high, Nat.reduceLeDiff, Nat.reduceSub]; decide

theorem MajorListed.flds (d : BitVec 5) (a : BitVec 5) (imm : BitVec 16) : MajorListed.Statement (.flds d a imm) := by
  rintro _ ⟨⟩; simp only [append_high, Nat.reduceLeDiff, Nat.reduceSub]; decide

theorem MajorListed.fstd (b : BitVec 5) (a : BitVec 5) (imm : BitVec 16) : MajorListed.Statement (.fstd b a imm) := by
  rintro _ ⟨⟩; simp only [append_high, Nat.reduceLeDiff, Nat.reduceSub]; decide

theorem MajorListed.fsts (b : BitVec 5) (a : BitVec 5) (imm : BitVec 16) : MajorListed.Statement (.fsts b a imm) := by
  rintro _ ⟨⟩; simp only [append_high, Nat.reduceLeDiff, Nat.reduceSub]; decide

theorem MajorListed.ldx (d : BitVec 5) (a : BitVec 5) (b : BitVec 5) (h : BitVec 2) (n : BitVec 1) (sc : BitVec 2) : MajorListed.Statement (.ldx d a b h n sc) := by
  rintro _ ⟨⟩; simp only [append_high, Nat.reduceLeDiff, Nat.reduceSub]; decide

theorem MajorListed.stx (d : BitVec 5) (a : BitVec 5) (b : BitVec 5) (h : BitVec 2) (sc : BitVec 2) : MajorListed.Statement (.stx d a b h sc) := by
  rintro _ ⟨⟩; simp only [append_high, Nat.reduceLeDiff, Nat.reduceSub]; decide

theorem MajorListed.ldt (d : BitVec 5) (a : BitVec 5) (b : BitVec 5) (n : BitVec 1) (sc : BitVec 2) : MajorListed.Statement (.ldt d a b n sc) := by
  rintro _ ⟨⟩; simp only [append_high, Nat.reduceLeDiff, Nat.reduceSub]; decide

theorem MajorListed.stt (d : BitVec 5) (a : BitVec 5) (b : BitVec 5) (sc : BitVec 2) : MajorListed.Statement (.stt d a b sc) := by
  rintro _ ⟨⟩; simp only [append_high, Nat.reduceLeDiff, Nat.reduceSub]; decide

theorem MajorListed.promote (d : BitVec 5) (a : BitVec 5) (p : BitVec 1) : MajorListed.Statement (.promote d a p) := by
  rintro _ ⟨⟩; simp only [append_high, Nat.reduceLeDiff, Nat.reduceSub]; decide

theorem MajorListed.demote (d : BitVec 5) (a : BitVec 5) : MajorListed.Statement (.demote d a) := by
  rintro _ ⟨⟩; simp only [append_high, Nat.reduceLeDiff, Nat.reduceSub]; decide

theorem MajorListed.pref (a : BitVec 5) : MajorListed.Statement (.pref a) := by
  rintro _ ⟨⟩; simp only [append_high, Nat.reduceLeDiff, Nat.reduceSub]; decide

theorem MajorListed.leap (d : BitVec 5) (a : BitVec 5) : MajorListed.Statement (.leap d a) := by
  rintro _ ⟨⟩; simp only [append_high, Nat.reduceLeDiff, Nat.reduceSub]; decide

theorem MajorListed.fence (sc : BitVec 3) : MajorListed.Statement (.fence sc) := by
  rintro _ ⟨⟩; simp only [append_high, Nat.reduceLeDiff, Nat.reduceSub]; decide

theorem MajorListed.acq (sc : BitVec 3) : MajorListed.Statement (.acq sc) := by
  rintro _ ⟨⟩; simp only [append_high, Nat.reduceLeDiff, Nat.reduceSub]; decide

theorem MajorListed.rel (sc : BitVec 3) : MajorListed.Statement (.rel sc) := by
  rintro _ ⟨⟩; simp only [append_high, Nat.reduceLeDiff, Nat.reduceSub]; decide

theorem MajorListed.amoadd (d : BitVec 5) (a : BitVec 5) (b : BitVec 5) (r : BitVec 1) (q : BitVec 1) (sc : BitVec 1) : MajorListed.Statement (.amoadd d a b r q sc) := by
  rintro _ ⟨⟩; simp only [append_high, Nat.reduceLeDiff, Nat.reduceSub]; decide

theorem MajorListed.amoand (d : BitVec 5) (a : BitVec 5) (b : BitVec 5) (r : BitVec 1) (q : BitVec 1) (sc : BitVec 1) : MajorListed.Statement (.amoand d a b r q sc) := by
  rintro _ ⟨⟩; simp only [append_high, Nat.reduceLeDiff, Nat.reduceSub]; decide

theorem MajorListed.amoor (d : BitVec 5) (a : BitVec 5) (b : BitVec 5) (r : BitVec 1) (q : BitVec 1) (sc : BitVec 1) : MajorListed.Statement (.amoor d a b r q sc) := by
  rintro _ ⟨⟩; simp only [append_high, Nat.reduceLeDiff, Nat.reduceSub]; decide

theorem MajorListed.amoxor (d : BitVec 5) (a : BitVec 5) (b : BitVec 5) (r : BitVec 1) (q : BitVec 1) (sc : BitVec 1) : MajorListed.Statement (.amoxor d a b r q sc) := by
  rintro _ ⟨⟩; simp only [append_high, Nat.reduceLeDiff, Nat.reduceSub]; decide

theorem MajorListed.amomin (d : BitVec 5) (a : BitVec 5) (b : BitVec 5) (r : BitVec 1) (q : BitVec 1) (sc : BitVec 1) : MajorListed.Statement (.amomin d a b r q sc) := by
  rintro _ ⟨⟩; simp only [append_high, Nat.reduceLeDiff, Nat.reduceSub]; decide

theorem MajorListed.amomax (d : BitVec 5) (a : BitVec 5) (b : BitVec 5) (r : BitVec 1) (q : BitVec 1) (sc : BitVec 1) : MajorListed.Statement (.amomax d a b r q sc) := by
  rintro _ ⟨⟩; simp only [append_high, Nat.reduceLeDiff, Nat.reduceSub]; decide

theorem MajorListed.amominn (d : BitVec 5) (a : BitVec 5) (b : BitVec 5) (r : BitVec 1) (q : BitVec 1) (sc : BitVec 1) : MajorListed.Statement (.amominn d a b r q sc) := by
  rintro _ ⟨⟩; simp only [append_high, Nat.reduceLeDiff, Nat.reduceSub]; decide

theorem MajorListed.amomaxn (d : BitVec 5) (a : BitVec 5) (b : BitVec 5) (r : BitVec 1) (q : BitVec 1) (sc : BitVec 1) : MajorListed.Statement (.amomaxn d a b r q sc) := by
  rintro _ ⟨⟩; simp only [append_high, Nat.reduceLeDiff, Nat.reduceSub]; decide

theorem MajorListed.amoswap (d : BitVec 5) (a : BitVec 5) (b : BitVec 5) (r : BitVec 1) (q : BitVec 1) (sc : BitVec 1) : MajorListed.Statement (.amoswap d a b r q sc) := by
  rintro _ ⟨⟩; simp only [append_high, Nat.reduceLeDiff, Nat.reduceSub]; decide

theorem MajorListed.amocas (d : BitVec 5) (a : BitVec 5) (b : BitVec 5) (r : BitVec 1) (q : BitVec 1) (sc : BitVec 1) : MajorListed.Statement (.amocas d a b r q sc) := by
  rintro _ ⟨⟩; simp only [append_high, Nat.reduceLeDiff, Nat.reduceSub]; decide

theorem MajorListed.amofadd (d : BitVec 5) (a : BitVec 5) (b : BitVec 5) (r : BitVec 1) (q : BitVec 1) (sc : BitVec 1) : MajorListed.Statement (.amofadd d a b r q sc) := by
  rintro _ ⟨⟩; simp only [append_high, Nat.reduceLeDiff, Nat.reduceSub]; decide

theorem MajorListed.amofmax (d : BitVec 5) (a : BitVec 5) (b : BitVec 5) (r : BitVec 1) (q : BitVec 1) (sc : BitVec 1) : MajorListed.Statement (.amofmax d a b r q sc) := by
  rintro _ ⟨⟩; simp only [append_high, Nat.reduceLeDiff, Nat.reduceSub]; decide

theorem MajorListed.arrive (d : BitVec 5) (a : BitVec 5) : MajorListed.Statement (.arrive d a) := by
  rintro _ ⟨⟩; simp only [append_high, Nat.reduceLeDiff, Nat.reduceSub]; decide

theorem MajorListed.waitb (a : BitVec 5) (b : BitVec 5) : MajorListed.Statement (.waitb a b) := by
  rintro _ ⟨⟩; simp only [append_high, Nat.reduceLeDiff, Nat.reduceSub]; decide

theorem MajorListed.bar (a : BitVec 5) : MajorListed.Statement (.bar a) := by
  rintro _ ⟨⟩; simp only [append_high, Nat.reduceLeDiff, Nat.reduceSub]; decide

theorem MajorListed.binit (a : BitVec 5) (b : BitVec 5) : MajorListed.Statement (.binit a b) := by
  rintro _ ⟨⟩; simp only [append_high, Nat.reduceLeDiff, Nat.reduceSub]; decide

theorem MajorListed.tsleep (a : BitVec 5) : MajorListed.Statement (.tsleep a) := by
  rintro _ ⟨⟩; simp only [append_high, Nat.reduceLeDiff, Nat.reduceSub]; decide

theorem MajorListed.wpset (d : BitVec 5) (a : BitVec 5) : MajorListed.Statement (.wpset d a) := by
  rintro _ ⟨⟩; simp only [append_high, Nat.reduceLeDiff, Nat.reduceSub]; decide

theorem MajorListed.wpclr (a : BitVec 5) : MajorListed.Statement (.wpclr a) := by
  rintro _ ⟨⟩; simp only [append_high, Nat.reduceLeDiff, Nat.reduceSub]; decide

theorem MajorListed.spawn (d : BitVec 5) (a : BitVec 5) (b : BitVec 5) : MajorListed.Statement (.spawn d a b) := by
  rintro _ ⟨⟩; simp only [append_high, Nat.reduceLeDiff, Nat.reduceSub]; decide

theorem MajorListed.spawnq (a : BitVec 5) (b : BitVec 5) (c : BitVec 5) : MajorListed.Statement (.spawnq a b c) := by
  rintro _ ⟨⟩; simp only [append_high, Nat.reduceLeDiff, Nat.reduceSub]; decide

theorem MajorListed.fork (a : BitVec 5) (c : BitVec 5) : MajorListed.Statement (.fork a c) := by
  rintro _ ⟨⟩; simp only [append_high, Nat.reduceLeDiff, Nat.reduceSub]; decide

theorem MajorListed.quit : MajorListed.Statement .quit := by
  rintro _ ⟨⟩; simp only [append_high, Nat.reduceLeDiff, Nat.reduceSub]; decide

theorem MajorListed.msg (a : BitVec 5) (b : BitVec 5) : MajorListed.Statement (.msg a b) := by
  rintro _ ⟨⟩; simp only [append_high, Nat.reduceLeDiff, Nat.reduceSub]; decide

theorem MajorListed.fill (d : BitVec 5) (a : BitVec 5) (b : BitVec 5) : MajorListed.Statement (.fill d a b) := by
  rintro _ ⟨⟩; simp only [append_high, Nat.reduceLeDiff, Nat.reduceSub]; decide

theorem MajorListed.empty (d : BitVec 5) (k : BitVec 2) : MajorListed.Statement (.empty d k) := by
  rintro _ ⟨⟩; simp only [append_high, Nat.reduceLeDiff, Nat.reduceSub]; decide

theorem MajorListed.take (d : BitVec 5) (a : BitVec 5) (k : BitVec 2) : MajorListed.Statement (.take d a k) := by
  rintro _ ⟨⟩; simp only [append_high, Nat.reduceLeDiff, Nat.reduceSub]; decide

theorem MajorListed.rstate (d : BitVec 5) (a : BitVec 5) (k : BitVec 2) : MajorListed.Statement (.rstate d a k) := by
  rintro _ ⟨⟩; simp only [append_high, Nat.reduceLeDiff, Nat.reduceSub]; decide

theorem MajorListed.await (d : BitVec 5) (a : BitVec 5) : MajorListed.Statement (.await d a) := by
  rintro _ ⟨⟩; simp only [append_high, Nat.reduceLeDiff, Nat.reduceSub]; decide

theorem MajorListed.ftest (d : BitVec 5) (a : BitVec 5) : MajorListed.Statement (.ftest d a) := by
  rintro _ ⟨⟩; simp only [append_high, Nat.reduceLeDiff, Nat.reduceSub]; decide

theorem MajorListed.fcancel (a : BitVec 5) : MajorListed.Statement (.fcancel a) := by
  rintro _ ⟨⟩; simp only [append_high, Nat.reduceLeDiff, Nat.reduceSub]; decide

theorem MajorListed.fwd (d : BitVec 5) (a : BitVec 5) (b : BitVec 5) : MajorListed.Statement (.fwd d a b) := by
  rintro _ ⟨⟩; simp only [append_high, Nat.reduceLeDiff, Nat.reduceSub]; decide

theorem MajorListed.pipe (d : BitVec 5) (a : BitVec 5) : MajorListed.Statement (.pipe d a) := by
  rintro _ ⟨⟩; simp only [append_high, Nat.reduceLeDiff, Nat.reduceSub]; decide

theorem MajorListed.jnew (d : BitVec 5) (a : BitVec 5) (b : BitVec 5) (c : BitVec 5) : MajorListed.Statement (.jnew d a b c) := by
  rintro _ ⟨⟩; simp only [append_high, Nat.reduceLeDiff, Nat.reduceSub]; decide

theorem MajorListed.jreg (d : BitVec 5) (a : BitVec 5) (b : BitVec 5) (c : BitVec 5) : MajorListed.Statement (.jreg d a b c) := by
  rintro _ ⟨⟩; simp only [append_high, Nat.reduceLeDiff, Nat.reduceSub]; decide

theorem MajorListed.jval (d : BitVec 5) (a : BitVec 5) (b : BitVec 5) (imm : BitVec 2) : MajorListed.Statement (.jval d a b imm) := by
  rintro _ ⟨⟩; simp only [append_high, Nat.reduceLeDiff, Nat.reduceSub]; decide

theorem MajorListed.jdrop (d : BitVec 5) (a : BitVec 5) (imm : BitVec 2) : MajorListed.Statement (.jdrop d a imm) := by
  rintro _ ⟨⟩; simp only [append_high, Nat.reduceLeDiff, Nat.reduceSub]; decide

theorem MajorListed.wchk (d : BitVec 5) (a : BitVec 5) (imm : BitVec 2) : MajorListed.Statement (.wchk d a imm) := by
  rintro _ ⟨⟩; simp only [append_high, Nat.reduceLeDiff, Nat.reduceSub]; decide

theorem MajorListed.jfree (d : BitVec 5) (a : BitVec 5) : MajorListed.Statement (.jfree d a) := by
  rintro _ ⟨⟩; simp only [append_high, Nat.reduceLeDiff, Nat.reduceSub]; decide

theorem MajorListed.fadd (d : BitVec 5) (a : BitVec 5) (b : BitVec 5) (f : BitVec 2) : MajorListed.Statement (.fadd d a b f) := by
  rintro _ ⟨⟩; simp only [append_high, Nat.reduceLeDiff, Nat.reduceSub]; decide

theorem MajorListed.fsub (d : BitVec 5) (a : BitVec 5) (b : BitVec 5) (f : BitVec 2) : MajorListed.Statement (.fsub d a b f) := by
  rintro _ ⟨⟩; simp only [append_high, Nat.reduceLeDiff, Nat.reduceSub]; decide

theorem MajorListed.fmul (d : BitVec 5) (a : BitVec 5) (b : BitVec 5) (f : BitVec 2) : MajorListed.Statement (.fmul d a b f) := by
  rintro _ ⟨⟩; simp only [append_high, Nat.reduceLeDiff, Nat.reduceSub]; decide

theorem MajorListed.fdiv (d : BitVec 5) (a : BitVec 5) (b : BitVec 5) (f : BitVec 2) : MajorListed.Statement (.fdiv d a b f) := by
  rintro _ ⟨⟩; simp only [append_high, Nat.reduceLeDiff, Nat.reduceSub]; decide

theorem MajorListed.fma (d : BitVec 5) (a : BitVec 5) (b : BitVec 5) (c : BitVec 5) (f : BitVec 2) : MajorListed.Statement (.fma d a b c f) := by
  rintro _ ⟨⟩; simp only [append_high, Nat.reduceLeDiff, Nat.reduceSub]; decide

theorem MajorListed.fnma (d : BitVec 5) (a : BitVec 5) (b : BitVec 5) (c : BitVec 5) (f : BitVec 2) : MajorListed.Statement (.fnma d a b c f) := by
  rintro _ ⟨⟩; simp only [append_high, Nat.reduceLeDiff, Nat.reduceSub]; decide

theorem MajorListed.fsqrt (d : BitVec 5) (a : BitVec 5) (f : BitVec 2) : MajorListed.Statement (.fsqrt d a f) := by
  rintro _ ⟨⟩; simp only [append_high, Nat.reduceLeDiff, Nat.reduceSub]; decide

theorem MajorListed.fmin (d : BitVec 5) (a : BitVec 5) (b : BitVec 5) (f : BitVec 2) : MajorListed.Statement (.fmin d a b f) := by
  rintro _ ⟨⟩; simp only [append_high, Nat.reduceLeDiff, Nat.reduceSub]; decide

theorem MajorListed.fmax (d : BitVec 5) (a : BitVec 5) (b : BitVec 5) (f : BitVec 2) : MajorListed.Statement (.fmax d a b f) := by
  rintro _ ⟨⟩; simp only [append_high, Nat.reduceLeDiff, Nat.reduceSub]; decide

theorem MajorListed.feq (d : BitVec 5) (a : BitVec 5) (b : BitVec 5) (f : BitVec 2) : MajorListed.Statement (.feq d a b f) := by
  rintro _ ⟨⟩; simp only [append_high, Nat.reduceLeDiff, Nat.reduceSub]; decide

theorem MajorListed.flt (d : BitVec 5) (a : BitVec 5) (b : BitVec 5) (f : BitVec 2) : MajorListed.Statement (.flt d a b f) := by
  rintro _ ⟨⟩; simp only [append_high, Nat.reduceLeDiff, Nat.reduceSub]; decide

theorem MajorListed.fle (d : BitVec 5) (a : BitVec 5) (b : BitVec 5) (f : BitVec 2) : MajorListed.Statement (.fle d a b f) := by
  rintro _ ⟨⟩; simp only [append_high, Nat.reduceLeDiff, Nat.reduceSub]; decide

theorem MajorListed.fsgn (d : BitVec 5) (a : BitVec 5) (b : BitVec 5) (m : BitVec 2) (f : BitVec 2) : MajorListed.Statement (.fsgn d a b m f) := by
  rintro _ ⟨⟩; simp only [append_high, Nat.reduceLeDiff, Nat.reduceSub]; decide

theorem MajorListed.fclass (d : BitVec 5) (a : BitVec 5) (f : BitVec 2) : MajorListed.Statement (.fclass d a f) := by
  rintro _ ⟨⟩; simp only [append_high, Nat.reduceLeDiff, Nat.reduceSub]; decide

theorem MajorListed.fexp2 (d : BitVec 5) (a : BitVec 5) (f : BitVec 2) : MajorListed.Statement (.fexp2 d a f) := by
  rintro _ ⟨⟩; simp only [append_high, Nat.reduceLeDiff, Nat.reduceSub]; decide

theorem MajorListed.flog2 (d : BitVec 5) (a : BitVec 5) (f : BitVec 2) : MajorListed.Statement (.flog2 d a f) := by
  rintro _ ⟨⟩; simp only [append_high, Nat.reduceLeDiff, Nat.reduceSub]; decide

theorem MajorListed.fcvt (d : BitVec 5) (a : BitVec 5) (b : BitVec 5) (c : BitVec 5) : MajorListed.Statement (.fcvt d a b c) := by
  rintro _ ⟨⟩; simp only [append_high, Nat.reduceLeDiff, Nat.reduceSub]; decide

theorem MajorListed.fcvti (d : BitVec 5) (a : BitVec 5) (b : BitVec 5) (c : BitVec 5) : MajorListed.Statement (.fcvti d a b c) := by
  rintro _ ⟨⟩; simp only [append_high, Nat.reduceLeDiff, Nat.reduceSub]; decide

theorem MajorListed.icvtf (d : BitVec 5) (a : BitVec 5) (b : BitVec 5) (c : BitVec 5) : MajorListed.Statement (.icvtf d a b c) := by
  rintro _ ⟨⟩; simp only [append_high, Nat.reduceLeDiff, Nat.reduceSub]; decide

theorem MajorListed.fmvgf (d : BitVec 5) (a : BitVec 5) : MajorListed.Statement (.fmvgf d a) := by
  rintro _ ⟨⟩; simp only [append_high, Nat.reduceLeDiff, Nat.reduceSub]; decide

theorem MajorListed.fmvfg (d : BitVec 5) (a : BitVec 5) : MajorListed.Statement (.fmvfg d a) := by
  rintro _ ⟨⟩; simp only [append_high, Nat.reduceLeDiff, Nat.reduceSub]; decide

theorem MajorListed.frcp (d : BitVec 5) (a : BitVec 5) (f : BitVec 2) : MajorListed.Statement (.frcp d a f) := by
  rintro _ ⟨⟩; simp only [append_high, Nat.reduceLeDiff, Nat.reduceSub]; decide

theorem MajorListed.frsqrt (d : BitVec 5) (a : BitVec 5) (f : BitVec 2) : MajorListed.Statement (.frsqrt d a f) := by
  rintro _ ⟨⟩; simp only [append_high, Nat.reduceLeDiff, Nat.reduceSub]; decide

theorem MajorListed.scfg (a : BitVec 5) (n : BitVec 3) : MajorListed.Statement (.scfg a n) := by
  rintro _ ⟨⟩; simp only [append_high, Nat.reduceLeDiff, Nat.reduceSub]; decide

theorem MajorListed.sbind (r : BitVec 2) (k : BitVec 1) (n : BitVec 3) : MajorListed.Statement (.sbind r k n) := by
  rintro _ ⟨⟩; simp only [append_high, Nat.reduceLeDiff, Nat.reduceSub]; decide

theorem MajorListed.sunbind (r : BitVec 2) (k : BitVec 1) : MajorListed.Statement (.sunbind r k) := by
  rintro _ ⟨⟩; simp only [append_high, Nat.reduceLeDiff, Nat.reduceSub]; decide

theorem MajorListed.sstat (d : BitVec 5) (n : BitVec 3) : MajorListed.Statement (.sstat d n) := by
  rintro _ ⟨⟩; simp only [append_high, Nat.reduceLeDiff, Nat.reduceSub]; decide

theorem MajorListed.vadd (d : BitVec 4) (a : BitVec 4) (b : BitVec 4) : MajorListed.Statement (.vadd d a b) := by
  rintro _ ⟨⟩; simp only [append_high, Nat.reduceLeDiff, Nat.reduceSub]; decide

theorem MajorListed.vsub (d : BitVec 4) (a : BitVec 4) (b : BitVec 4) : MajorListed.Statement (.vsub d a b) := by
  rintro _ ⟨⟩; simp only [append_high, Nat.reduceLeDiff, Nat.reduceSub]; decide

theorem MajorListed.vmul (d : BitVec 4) (a : BitVec 4) (b : BitVec 4) : MajorListed.Statement (.vmul d a b) := by
  rintro _ ⟨⟩; simp only [append_high, Nat.reduceLeDiff, Nat.reduceSub]; decide

theorem MajorListed.vfma (d : BitVec 4) (a : BitVec 4) (b : BitVec 4) (c : BitVec 4) : MajorListed.Statement (.vfma d a b c) := by
  rintro _ ⟨⟩; simp only [append_high, Nat.reduceLeDiff, Nat.reduceSub]; decide

theorem MajorListed.vmin (d : BitVec 4) (a : BitVec 4) (b : BitVec 4) : MajorListed.Statement (.vmin d a b) := by
  rintro _ ⟨⟩; simp only [append_high, Nat.reduceLeDiff, Nat.reduceSub]; decide

theorem MajorListed.vmax (d : BitVec 4) (a : BitVec 4) (b : BitVec 4) : MajorListed.Statement (.vmax d a b) := by
  rintro _ ⟨⟩; simp only [append_high, Nat.reduceLeDiff, Nat.reduceSub]; decide

theorem MajorListed.vabs (d : BitVec 4) (a : BitVec 4) : MajorListed.Statement (.vabs d a) := by
  rintro _ ⟨⟩; simp only [append_high, Nat.reduceLeDiff, Nat.reduceSub]; decide

theorem MajorListed.vneg (d : BitVec 4) (a : BitVec 4) : MajorListed.Statement (.vneg d a) := by
  rintro _ ⟨⟩; simp only [append_high, Nat.reduceLeDiff, Nat.reduceSub]; decide

theorem MajorListed.vceq (d : BitVec 4) (a : BitVec 4) (b : BitVec 4) : MajorListed.Statement (.vceq d a b) := by
  rintro _ ⟨⟩; simp only [append_high, Nat.reduceLeDiff, Nat.reduceSub]; decide

theorem MajorListed.vclt (d : BitVec 4) (a : BitVec 4) (b : BitVec 4) : MajorListed.Statement (.vclt d a b) := by
  rintro _ ⟨⟩; simp only [append_high, Nat.reduceLeDiff, Nat.reduceSub]; decide

theorem MajorListed.vcle (d : BitVec 4) (a : BitVec 4) (b : BitVec 4) : MajorListed.Statement (.vcle d a b) := by
  rintro _ ⟨⟩; simp only [append_high, Nat.reduceLeDiff, Nat.reduceSub]; decide

theorem MajorListed.vsel (d : BitVec 4) (a : BitVec 4) (b : BitVec 4) (c : BitVec 4) : MajorListed.Statement (.vsel d a b c) := by
  rintro _ ⟨⟩; simp only [append_high, Nat.reduceLeDiff, Nat.reduceSub]; decide

theorem MajorListed.vand (d : BitVec 4) (a : BitVec 4) (b : BitVec 4) : MajorListed.Statement (.vand d a b) := by
  rintro _ ⟨⟩; simp only [append_high, Nat.reduceLeDiff, Nat.reduceSub]; decide

theorem MajorListed.vor (d : BitVec 4) (a : BitVec 4) (b : BitVec 4) : MajorListed.Statement (.vor d a b) := by
  rintro _ ⟨⟩; simp only [append_high, Nat.reduceLeDiff, Nat.reduceSub]; decide

theorem MajorListed.vxor (d : BitVec 4) (a : BitVec 4) (b : BitVec 4) : MajorListed.Statement (.vxor d a b) := by
  rintro _ ⟨⟩; simp only [append_high, Nat.reduceLeDiff, Nat.reduceSub]; decide

theorem MajorListed.vshl (d : BitVec 4) (a : BitVec 4) (b : BitVec 4) : MajorListed.Statement (.vshl d a b) := by
  rintro _ ⟨⟩; simp only [append_high, Nat.reduceLeDiff, Nat.reduceSub]; decide

theorem MajorListed.vshr (d : BitVec 4) (a : BitVec 4) (b : BitVec 4) : MajorListed.Statement (.vshr d a b) := by
  rintro _ ⟨⟩; simp only [append_high, Nat.reduceLeDiff, Nat.reduceSub]; decide

theorem MajorListed.vsra (d : BitVec 4) (a : BitVec 4) (b : BitVec 4) : MajorListed.Statement (.vsra d a b) := by
  rintro _ ⟨⟩; simp only [append_high, Nat.reduceLeDiff, Nat.reduceSub]; decide

theorem MajorListed.vdiv (d : BitVec 4) (a : BitVec 4) (b : BitVec 4) : MajorListed.Statement (.vdiv d a b) := by
  rintro _ ⟨⟩; simp only [append_high, Nat.reduceLeDiff, Nat.reduceSub]; decide

theorem MajorListed.vsqrt (d : BitVec 4) (a : BitVec 4) : MajorListed.Statement (.vsqrt d a) := by
  rintro _ ⟨⟩; simp only [append_high, Nat.reduceLeDiff, Nat.reduceSub]; decide

theorem MajorListed.vexp2 (d : BitVec 4) (a : BitVec 4) : MajorListed.Statement (.vexp2 d a) := by
  rintro _ ⟨⟩; simp only [append_high, Nat.reduceLeDiff, Nat.reduceSub]; decide

theorem MajorListed.vlog2 (d : BitVec 4) (a : BitVec 4) : MajorListed.Statement (.vlog2 d a) := by
  rintro _ ⟨⟩; simp only [append_high, Nat.reduceLeDiff, Nat.reduceSub]; decide

theorem MajorListed.vrcp (d : BitVec 4) (a : BitVec 4) : MajorListed.Statement (.vrcp d a) := by
  rintro _ ⟨⟩; simp only [append_high, Nat.reduceLeDiff, Nat.reduceSub]; decide

theorem MajorListed.vrsqrt (d : BitVec 4) (a : BitVec 4) : MajorListed.Statement (.vrsqrt d a) := by
  rintro _ ⟨⟩; simp only [append_high, Nat.reduceLeDiff, Nat.reduceSub]; decide

theorem MajorListed.vscale (d : BitVec 4) (a : BitVec 4) (b : BitVec 4) : MajorListed.Statement (.vscale d a b) := by
  rintro _ ⟨⟩; simp only [append_high, Nat.reduceLeDiff, Nat.reduceSub]; decide

theorem MajorListed.vbcast (d : BitVec 4) (a : BitVec 5) : MajorListed.Statement (.vbcast d a) := by
  rintro _ ⟨⟩; simp only [append_high, Nat.reduceLeDiff, Nat.reduceSub]; decide

theorem MajorListed.vextr (d : BitVec 5) (a : BitVec 4) (b : BitVec 5) : MajorListed.Statement (.vextr d a b) := by
  rintro _ ⟨⟩; simp only [append_high, Nat.reduceLeDiff, Nat.reduceSub]; decide

theorem MajorListed.vinsr (d : BitVec 4) (a : BitVec 5) (b : BitVec 5) : MajorListed.Statement (.vinsr d a b) := by
  rintro _ ⟨⟩; simp only [append_high, Nat.reduceLeDiff, Nat.reduceSub]; decide

theorem MajorListed.vperm (d : BitVec 4) (a : BitVec 4) (b : BitVec 4) : MajorListed.Statement (.vperm d a b) := by
  rintro _ ⟨⟩; simp only [append_high, Nat.reduceLeDiff, Nat.reduceSub]; decide

theorem MajorListed.vslide (d : BitVec 4) (a : BitVec 4) (b : BitVec 4) (c : BitVec 5) : MajorListed.Statement (.vslide d a b c) := by
  rintro _ ⟨⟩; simp only [append_high, Nat.reduceLeDiff, Nat.reduceSub]; decide

theorem MajorListed.vzip (d : BitVec 4) (a : BitVec 4) (b : BitVec 4) (h : BitVec 1) : MajorListed.Statement (.vzip d a b h) := by
  rintro _ ⟨⟩; simp only [append_high, Nat.reduceLeDiff, Nat.reduceSub]; decide

theorem MajorListed.vunzip (d : BitVec 4) (a : BitVec 4) (b : BitVec 4) (h : BitVec 1) : MajorListed.Statement (.vunzip d a b h) := by
  rintro _ ⟨⟩; simp only [append_high, Nat.reduceLeDiff, Nat.reduceSub]; decide

theorem MajorListed.vredsum (d : BitVec 5) (a : BitVec 4) : MajorListed.Statement (.vredsum d a) := by
  rintro _ ⟨⟩; simp only [append_high, Nat.reduceLeDiff, Nat.reduceSub]; decide

theorem MajorListed.vredmax (d : BitVec 5) (a : BitVec 4) : MajorListed.Statement (.vredmax d a) := by
  rintro _ ⟨⟩; simp only [append_high, Nat.reduceLeDiff, Nat.reduceSub]; decide

theorem MajorListed.vredmin (d : BitVec 5) (a : BitVec 4) : MajorListed.Statement (.vredmin d a) := by
  rintro _ ⟨⟩; simp only [append_high, Nat.reduceLeDiff, Nat.reduceSub]; decide

theorem MajorListed.vmergek (d : BitVec 4) (a : BitVec 4) (b : BitVec 4) : MajorListed.Statement (.vmergek d a b) := by
  rintro _ ⟨⟩; simp only [append_high, Nat.reduceLeDiff, Nat.reduceSub]; decide

theorem MajorListed.vcvt (d : BitVec 4) (a : BitVec 4) (p : BitVec 4) : MajorListed.Statement (.vcvt d a p) := by
  rintro _ ⟨⟩; simp only [append_high, Nat.reduceLeDiff, Nat.reduceSub]; decide

theorem MajorListed.vmov (d : BitVec 4) (a : BitVec 4) : MajorListed.Statement (.vmov d a) := by
  rintro _ ⟨⟩; simp only [append_high, Nat.reduceLeDiff, Nat.reduceSub]; decide

theorem MajorListed.vdot (d : BitVec 4) (a : BitVec 4) (b : BitVec 4) (c : BitVec 5) (p : BitVec 6) : MajorListed.Statement (.vdot d a b c p) := by
  rintro _ ⟨⟩; simp only [append_high, Nat.reduceLeDiff, Nat.reduceSub]; decide

theorem MajorListed.mma (d : BitVec 5) (a : BitVec 5) (p : BitVec 4) : MajorListed.Statement (.mma d a p) := by
  rintro _ ⟨⟩; simp only [append_high, Nat.reduceLeDiff, Nat.reduceSub]; decide

theorem MajorListed.mmv (d : BitVec 5) (a : BitVec 5) (b : BitVec 5) : MajorListed.Statement (.mmv d a b) := by
  rintro _ ⟨⟩; simp only [append_high, Nat.reduceLeDiff, Nat.reduceSub]; decide

theorem MajorListed.mclr (d : BitVec 5) (a : BitVec 5) : MajorListed.Statement (.mclr d a) := by
  rintro _ ⟨⟩; simp only [append_high, Nat.reduceLeDiff, Nat.reduceSub]; decide

theorem MajorListed.mld (d : BitVec 5) (a : BitVec 5) (b : BitVec 5) : MajorListed.Statement (.mld d a b) := by
  rintro _ ⟨⟩; simp only [append_high, Nat.reduceLeDiff, Nat.reduceSub]; decide

theorem MajorListed.mst (d : BitVec 5) (a : BitVec 5) (b : BitVec 5) : MajorListed.Statement (.mst d a b) := by
  rintro _ ⟨⟩; simp only [append_high, Nat.reduceLeDiff, Nat.reduceSub]; decide

theorem MajorListed.copy (d : BitVec 5) (a : BitVec 5) (b : BitVec 5) : MajorListed.Statement (.copy d a b) := by
  rintro _ ⟨⟩; simp only [append_high, Nat.reduceLeDiff, Nat.reduceSub]; decide

theorem MajorListed.fillt (d : BitVec 5) (a : BitVec 5) (b : BitVec 5) : MajorListed.Statement (.fillt d a b) := by
  rintro _ ⟨⟩; simp only [append_high, Nat.reduceLeDiff, Nat.reduceSub]; decide

theorem MajorListed.gather (d : BitVec 5) (a : BitVec 5) (b : BitVec 5) : MajorListed.Statement (.gather d a b) := by
  rintro _ ⟨⟩; simp only [append_high, Nat.reduceLeDiff, Nat.reduceSub]; decide

theorem MajorListed.scatter (d : BitVec 5) (a : BitVec 5) (b : BitVec 5) : MajorListed.Statement (.scatter d a b) := by
  rintro _ ⟨⟩; simp only [append_high, Nat.reduceLeDiff, Nat.reduceSub]; decide

theorem MajorListed.topk (d : BitVec 5) (a : BitVec 5) (b : BitVec 5) : MajorListed.Statement (.topk d a b) := by
  rintro _ ⟨⟩; simp only [append_high, Nat.reduceLeDiff, Nat.reduceSub]; decide

theorem MajorListed.mergel (d : BitVec 5) (a : BitVec 5) (b : BitVec 5) : MajorListed.Statement (.mergel d a b) := by
  rintro _ ⟨⟩; simp only [append_high, Nat.reduceLeDiff, Nat.reduceSub]; decide

theorem MajorListed.allred (d : BitVec 5) (a : BitVec 5) (b : BitVec 5) : MajorListed.Statement (.allred d a b) := by
  rintro _ ⟨⟩; simp only [append_high, Nat.reduceLeDiff, Nat.reduceSub]; decide

theorem MajorListed.bcast (d : BitVec 5) (a : BitVec 5) (b : BitVec 5) : MajorListed.Statement (.bcast d a b) := by
  rintro _ ⟨⟩; simp only [append_high, Nat.reduceLeDiff, Nat.reduceSub]; decide

theorem MajorListed.tjins (d : BitVec 5) : MajorListed.Statement (.tjins d) := by
  rintro _ ⟨⟩; simp only [append_high, Nat.reduceLeDiff, Nat.reduceSub]; decide

theorem MajorListed.tjapp (d : BitVec 5) (a : BitVec 5) (b : BitVec 5) : MajorListed.Statement (.tjapp d a b) := by
  rintro _ ⟨⟩; simp only [append_high, Nat.reduceLeDiff, Nat.reduceSub]; decide

theorem MajorListed.tjcls (d : BitVec 5) (a : BitVec 5) (b : BitVec 5) : MajorListed.Statement (.tjcls d a b) := by
  rintro _ ⟨⟩; simp only [append_high, Nat.reduceLeDiff, Nat.reduceSub]; decide

theorem MajorListed.tjsmp (d : BitVec 5) (a : BitVec 5) (b : BitVec 5) : MajorListed.Statement (.tjsmp d a b) := by
  rintro _ ⟨⟩; simp only [append_high, Nat.reduceLeDiff, Nat.reduceSub]; decide

theorem MajorListed.tjget (d : BitVec 5) (a : BitVec 5) (b : BitVec 5) : MajorListed.Statement (.tjget d a b) := by
  rintro _ ⟨⟩; simp only [append_high, Nat.reduceLeDiff, Nat.reduceSub]; decide

theorem MajorListed.tjpri (d : BitVec 5) (a : BitVec 5) (b : BitVec 5) : MajorListed.Statement (.tjpri d a b) := by
  rintro _ ⟨⟩; simp only [append_high, Nat.reduceLeDiff, Nat.reduceSub]; decide

theorem MajorListed.tjevi (d : BitVec 5) (a : BitVec 5) : MajorListed.Statement (.tjevi d a) := by
  rintro _ ⟨⟩; simp only [append_high, Nat.reduceLeDiff, Nat.reduceSub]; decide

theorem MajorListed.tjver (d : BitVec 5) (a : BitVec 5) (b : BitVec 5) : MajorListed.Statement (.tjver d a b) := by
  rintro _ ⟨⟩; simp only [append_high, Nat.reduceLeDiff, Nat.reduceSub]; decide

theorem MajorListed.tjstat (d : BitVec 5) (b : BitVec 5) : MajorListed.Statement (.tjstat d b) := by
  rintro _ ⟨⟩; simp only [append_high, Nat.reduceLeDiff, Nat.reduceSub]; decide

theorem MajorListed.eset (a : BitVec 5) (er : BitVec 10) : MajorListed.Statement (.eset a er) := by
  rintro _ ⟨⟩; simp only [append_high, Nat.reduceLeDiff, Nat.reduceSub]; decide

theorem MajorListed.eget (d : BitVec 5) (er : BitVec 10) : MajorListed.Statement (.eget d er) := by
  rintro _ ⟨⟩; simp only [append_high, Nat.reduceLeDiff, Nat.reduceSub]; decide

theorem MajorListed.tset (a : BitVec 5) (t : BitVec 6) : MajorListed.Statement (.tset a t) := by
  rintro _ ⟨⟩; simp only [append_high, Nat.reduceLeDiff, Nat.reduceSub]; decide

theorem MajorListed.tstate (d : BitVec 5) (t : BitVec 6) : MajorListed.Statement (.tstate d t) := by
  rintro _ ⟨⟩; simp only [append_high, Nat.reduceLeDiff, Nat.reduceSub]; decide

theorem MajorListed.twait (a : BitVec 5) (t : BitVec 6) : MajorListed.Statement (.twait a t) := by
  rintro _ ⟨⟩; simp only [append_high, Nat.reduceLeDiff, Nat.reduceSub]; decide

theorem MajorListed.tring (a : BitVec 5) (r : BitVec 4) : MajorListed.Statement (.tring a r) := by
  rintro _ ⟨⟩; simp only [append_high, Nat.reduceLeDiff, Nat.reduceSub]; decide

theorem MajorListed.ringhd (d : BitVec 5) (a : BitVec 5) (r : BitVec 4) : MajorListed.Statement (.ringhd d a r) := by
  rintro _ ⟨⟩; simp only [append_high, Nat.reduceLeDiff, Nat.reduceSub]; decide

theorem MajorListed.ringtl (d : BitVec 5) (a : BitVec 5) (r : BitVec 4) : MajorListed.Statement (.ringtl d a r) := by
  rintro _ ⟨⟩; simp only [append_high, Nat.reduceLeDiff, Nat.reduceSub]; decide

theorem MajorListed.vldt (d : BitVec 4) (a : BitVec 5) (t : BitVec 6) : MajorListed.Statement (.vldt d a t) := by
  rintro _ ⟨⟩; simp only [append_high, Nat.reduceLeDiff, Nat.reduceSub]; decide

theorem MajorListed.vstt (d : BitVec 4) (a : BitVec 5) (t : BitVec 6) : MajorListed.Statement (.vstt d a t) := by
  rintro _ ⟨⟩; simp only [append_high, Nat.reduceLeDiff, Nat.reduceSub]; decide

theorem MajorListed.tmark (a : BitVec 5) (t : BitVec 6) : MajorListed.Statement (.tmark a t) := by
  rintro _ ⟨⟩; simp only [append_high, Nat.reduceLeDiff, Nat.reduceSub]; decide

theorem MajorListed.deadline : MajorListed.Statement .deadline := by
  rintro _ ⟨⟩

theorem MajorListed.withdrawn : MajorListed.Statement .withdrawn := by
  rintro _ ⟨⟩

theorem MajorListed.tableWalk (die : Nat) : MajorListed.Statement (.tableWalk die) := by
  rintro _ ⟨⟩

theorem MajorListed.faultPostDeferred (die : Nat) : MajorListed.Statement (.faultPostDeferred die) := by
  rintro _ ⟨⟩

theorem MajorListed.fqTail (die : Nat) (v : Word) : MajorListed.Statement (.fqTail die v) := by
  rintro _ ⟨⟩

theorem MajorListed.fqReplayReplay (die : Nat) (e : BitVec 10) : MajorListed.Statement (.fqReplayReplay die e) := by
  rintro _ ⟨⟩

theorem MajorListed.fqReplayFail (die : Nat) (e : BitVec 10) : MajorListed.Statement (.fqReplayFail die e) := by
  rintro _ ⟨⟩

theorem MajorListed.fqReplayDeny (die : Nat) (e : BitVec 10) : MajorListed.Statement (.fqReplayDeny die e) := by
  rintro _ ⟨⟩

theorem MajorListed.fqReplayGone (die : Nat) (e : BitVec 10) : MajorListed.Statement (.fqReplayGone die e) := by
  rintro _ ⟨⟩

theorem MajorListed.cxlRelease (base : Nat) (size : Nat) : MajorListed.Statement (.cxlRelease base size) := by
  rintro _ ⟨⟩

theorem MajorListed.cxlReleaseAck (base : Nat) (size : Nat) : MajorListed.Statement (.cxlReleaseAck base size) := by
  rintro _ ⟨⟩

theorem MajorListed.cxlForcedRelease (base : Nat) (size : Nat) : MajorListed.Statement (.cxlForcedRelease base size) := by
  rintro _ ⟨⟩

theorem MajorListed.dramAccess (pa : Nat) (wr : Bool) (lc : BitVec 2) : MajorListed.Statement (.dramAccess pa wr lc) := by
  rintro _ ⟨⟩

theorem MajorListed.autoPromotion (ch : Nat) (bank : Nat) : MajorListed.Statement (.autoPromotion ch bank) := by
  rintro _ ⟨⟩

theorem MajorListed.refresh (ch : Nat) (bank : Nat) : MajorListed.Statement (.refresh ch bank) := by
  rintro _ ⟨⟩

theorem MajorListed.busCodeWindowEnd (ch : Nat) : MajorListed.Statement (.busCodeWindowEnd ch) := by
  rintro _ ⟨⟩

theorem MajorListed.patrolScrub (ch : Nat) (row : Nat) (fixed : Nat) (bad : List Nat) : MajorListed.Statement (.patrolScrub ch row fixed bad) := by
  rintro _ ⟨⟩

theorem MajorListed.chcodePin (ch : Nat) (code : BitVec 2) : MajorListed.Statement (.chcodePin ch code) := by
  rintro _ ⟨⟩

theorem MajorListed.chcodeUnpin (ch : Nat) : MajorListed.Statement (.chcodeUnpin ch) := by
  rintro _ ⟨⟩

theorem MajorListed.remoteWordAccess (core : Nat) (slot : Nat) : MajorListed.Statement (.remoteWordAccess core slot) := by
  rintro _ ⟨⟩

theorem MajorListed.leapArrival (core : Nat) (slot : Nat) : MajorListed.Statement (.leapArrival core slot) := by
  rintro _ ⟨⟩

theorem MajorListed.rdcWriteback (die : Nat) (line : Nat) (evict : Bool) : MajorListed.Statement (.rdcWriteback die line evict) := by
  rintro _ ⟨⟩

theorem MajorListed.storeDrain (core : Nat) (slot : Nat) : MajorListed.Statement (.storeDrain core slot) := by
  rintro _ ⟨⟩

theorem MajorListed.postedAccept (idx : Nat) : MajorListed.Statement (.postedAccept idx) := by
  rintro _ ⟨⟩

theorem MajorListed.farStoreAck (idx : Nat) : MajorListed.Statement (.farStoreAck idx) := by
  rintro _ ⟨⟩

theorem MajorListed.probeEcho (core : Nat) (slot : Nat) (grp : Nat) : MajorListed.Statement (.probeEcho core slot grp) := by
  rintro _ ⟨⟩

theorem MajorListed.timedStoreArrival (core : Nat) (slot : Nat) : MajorListed.Statement (.timedStoreArrival core slot) := by
  rintro _ ⟨⟩

theorem MajorListed.calendarApply (core : Nat) : MajorListed.Statement (.calendarApply core) := by
  rintro _ ⟨⟩

theorem MajorListed.timedLoadArrival (core : Nat) (slot : Nat) : MajorListed.Statement (.timedLoadArrival core slot) := by
  rintro _ ⟨⟩

theorem MajorListed.verdictReturn (core : Nat) (slot : Nat) : MajorListed.Statement (.verdictReturn core slot) := by
  rintro _ ⟨⟩

theorem MajorListed.tsleepWake (core : Nat) (slot : Nat) : MajorListed.Statement (.tsleepWake core slot) := by
  rintro _ ⟨⟩

theorem MajorListed.timeExchange (die : Nat) (off : Int) (ok : Bool) : MajorListed.Statement (.timeExchange die off ok) := by
  rintro _ ⟨⟩

theorem MajorListed.domainJoin (gmt : Nat) : MajorListed.Statement (.domainJoin gmt) := by
  rintro _ ⟨⟩

theorem MajorListed.launchStart (key : Nat) : MajorListed.Statement (.launchStart key) := by
  rintro _ ⟨⟩

theorem MajorListed.launchEnd (key : Nat) : MajorListed.Statement (.launchEnd key) := by
  rintro _ ⟨⟩

theorem MajorListed.dispatchPop (core : Nat) : MajorListed.Statement (.dispatchPop core) := by
  rintro _ ⟨⟩

theorem MajorListed.remotePush (idx : Nat) : MajorListed.Statement (.remotePush idx) := by
  rintro _ ⟨⟩

theorem MajorListed.stealRequest (core : Nat) : MajorListed.Statement (.stealRequest core) := by
  rintro _ ⟨⟩

theorem MajorListed.stealReply (core : Nat) : MajorListed.Statement (.stealReply core) := by
  rintro _ ⟨⟩

theorem MajorListed.stealRetry (core : Nat) : MajorListed.Statement (.stealRetry core) := by
  rintro _ ⟨⟩

theorem MajorListed.messageStart (core : Nat) : MajorListed.Statement (.messageStart core) := by
  rintro _ ⟨⟩

theorem MajorListed.fillDelivery (core : Nat) (idx : Nat) : MajorListed.Statement (.fillDelivery core idx) := by
  rintro _ ⟨⟩

theorem MajorListed.completionDelivery (idx : Nat) : MajorListed.Statement (.completionDelivery idx) := by
  rintro _ ⟨⟩

theorem MajorListed.streamElementLoad (core : Nat) (slot : Nat) (str : Nat) : MajorListed.Statement (.streamElementLoad core slot str) := by
  rintro _ ⟨⟩

theorem MajorListed.withdrawalNotice (idx : Nat) : MajorListed.Statement (.withdrawalNotice idx) := by
  rintro _ ⟨⟩

theorem MajorListed.joinReregistration (core : Nat) (slot : Nat) : MajorListed.Statement (.joinReregistration core slot) := by
  rintro _ ⟨⟩

theorem MajorListed.engineOpBegin (core : Nat) (eng : Nat) : MajorListed.Statement (.engineOpBegin core eng) := by
  rintro _ ⟨⟩

theorem MajorListed.mmaStep (core : Nat) : MajorListed.Statement (.mmaStep core) := by
  rintro _ ⟨⟩

theorem MajorListed.engineOpComplete (core : Nat) (tag : BitVec 12) : MajorListed.Statement (.engineOpComplete core tag) := by
  rintro _ ⟨⟩

theorem MajorListed.collectiveCombine (tag : BitVec 32) (far : List FarPart) : MajorListed.Statement (.collectiveCombine tag far) := by
  rintro _ ⟨⟩

theorem MajorListed.preempt (key : Nat) : MajorListed.Statement (.preempt key) := by
  rintro _ ⟨⟩

theorem MajorListed.saveComplete (core : Nat) : MajorListed.Statement (.saveComplete core) := by
  rintro _ ⟨⟩

theorem MajorListed.resume (key : Nat) : MajorListed.Statement (.resume key) := by
  rintro _ ⟨⟩

theorem MajorListed.pondDestroy (die : Nat) (store : Nat) : MajorListed.Statement (.pondDestroy die store) := by
  rintro _ ⟨⟩

theorem MajorListed.launch (q : Nat) : MajorListed.Statement (.launch q) := by
  rintro _ ⟨⟩

theorem MajorListed.setlevel (q : Nat) : MajorListed.Statement (.setlevel q) := by
  rintro _ ⟨⟩

theorem MajorListed.qfence (q : Nat) : MajorListed.Statement (.qfence q) := by
  rintro _ ⟨⟩

theorem MajorListed.signal (q : Nat) : MajorListed.Statement (.signal q) := by
  rintro _ ⟨⟩

theorem MajorListed.waitval (q : Nat) : MajorListed.Statement (.waitval q) := by
  rintro _ ⟨⟩

theorem MajorListed.waitvalSatisfied (q : Nat) : MajorListed.Statement (.waitvalSatisfied q) := by
  rintro _ ⟨⟩

theorem MajorListed.pondcfg (q : Nat) : MajorListed.Statement (.pondcfg q) := by
  rintro _ ⟨⟩

theorem MajorListed.pondcfgDestroy (q : Nat) : MajorListed.Statement (.pondcfgDestroy q) := by
  rintro _ ⟨⟩

theorem MajorListed.resync (q : Nat) : MajorListed.Statement (.resync q) := by
  rintro _ ⟨⟩

theorem MajorListed.qtail (q : Nat) (v : Word) : MajorListed.Statement (.qtail q v) := by
  rintro _ ⟨⟩

theorem MajorListed.tcap (die : Nat) (v : Word) : MajorListed.Statement (.tcap die v) := by
  rintro _ ⟨⟩

theorem MajorListed.registerWrite (pa : Nat) (v : Word) : MajorListed.Statement (.registerWrite pa v) := by
  rintro _ ⟨⟩

theorem MajorListed.hostAccess (wr : Bool) (pa : Nat) (data : List Byte) : MajorListed.Statement (.hostAccess wr pa data) := by
  rintro _ ⟨⟩

theorem MajorListed.throttleStepChange (die : Nat) (stp : BitVec 2) : MajorListed.Statement (.throttleStepChange die stp) := by
  rintro _ ⟨⟩

theorem MajorListed.domainBringup (dev : BitVec 11) (reach : List Nat) (gm : Bool) : MajorListed.Statement (.domainBringup dev reach gm) := by
  rintro _ ⟨⟩

theorem MajorListed.linkFailure (lost : Nat × List Nat) : MajorListed.Statement (.linkFailure lost) := by
  rintro _ ⟨⟩

theorem MajorListed.securityAlarm : MajorListed.Statement .securityAlarm := by
  rintro _ ⟨⟩

theorem MajorListed.attestationRequest (nonce : List Byte) : MajorListed.Statement (.attestationRequest nonce) := by
  rintro _ ⟨⟩

theorem MajorListed.coldReset : MajorListed.Statement .coldReset := by
  rintro _ ⟨⟩

theorem MajorListed.warmReset : MajorListed.Statement .warmReset := by
  rintro _ ⟨⟩

theorem MajorListed.illop (w : BitVec 32) : MajorListed.Statement (.illop w) := by
  rintro _ ⟨⟩

theorem MajorListed.qcfg (q : Nat) (v : Word) : MajorListed.Statement (.qcfg q v) := by
  rintro _ ⟨⟩

theorem MajorListed.spawnRequest (idx : Nat) : MajorListed.Statement (.spawnRequest idx) := by
  rintro _ ⟨⟩

theorem MajorListed.joinEvent (idx : Nat) : MajorListed.Statement (.joinEvent idx) := by
  rintro _ ⟨⟩

theorem MajorListed.rerouteComplete : MajorListed.Statement .rerouteComplete := by
  rintro _ ⟨⟩

theorem MajorListed.darningMapEntry (stk : Nat) (ent : Nat) : MajorListed.Statement (.darningMapEntry stk ent) := by
  rintro _ ⟨⟩

end Sys2Proof.Laws
end

