-- ==== Sys2Proof/Tests/Slice0.lean ====
section
/-! SUPPORT. Tests: words written out from the encoding tables, ill-formed terms that the checks refuse, single steps worked out by hand
from the rules, and for every statement with hypotheses operands that meet them. -/

namespace Sys2Proof.Tests

set_option Elab.async false

open Sys2Proof Sys2Proof.Machine Sys2Proof.Claims

/-! Words from the encoding tables (R173 to R187) -/

/-- Each word decodes to the instruction beside it, and is that instruction's word. -/
def decodesAll (l : List (BitVec 32 × Instr)) : Bool :=
  l.all fun p => (match decode p.1 with | .ok i => i == p.2 | .error _ => false) && encode p.2 == some p.1

/-- Each word is refused on the ground beside it (R176). -/
def refusesAll (l : List (BitVec 32 × DecodeError)) : Bool :=
  l.all fun p => match decode p.1 with | .ok _ => false | .error e => e == p.2

theorem test_decode_system : decodesAll [
    (0x04005AC0, .trap 363),
    (0x04000001, .eret),
    (0x06A009C2, .mfs 21 39),
    (0x040E0403, .mts 14 16),
    (0x06AB0004, .mfk 21 11),
    (0x056E0005, .mtk 11 14),
    (0x040E0006, .cctlWb 14),
    (0x040E0046, .cctlInv 14),
    (0x040E0086, .cctlDrop 14),
    (0x040000C6, .cctlFlash),
    (0x04000106, .cctlIinv),
    (0x040E5AC7, .tlbinv 14 11 1 3),
    (0x04005AC8, .brk 363),
    (0x06AE0009, .waitev 21 14)] = true := by decide +kernel

theorem test_decode_register : decodesAll [
    (0x0AAE5800, .add 21 14 11),
    (0x0AAE5801, .sub 21 14 11),
    (0x0AAE5802, .and 21 14 11),
    (0x0AAE5803, .or 21 14 11),
    (0x0AAE5804, .xor 21 14 11),
    (0x0AAE5805, .sll 21 14 11),
    (0x0AAE5806, .srl 21 14 11),
    (0x0AAE5807, .sra 21 14 11),
    (0x0AAE5808, .slt 21 14 11),
    (0x0AAE5809, .sltn 21 14 11),
    (0x0AAE580A, .min 21 14 11),
    (0x0AAE580B, .max 21 14 11),
    (0x0AAE580C, .minn 21 14 11),
    (0x0AAE580D, .maxn 21 14 11),
    (0x0AAE580E, .mul 21 14 11),
    (0x0AAE580F, .mulh 21 14 11),
    (0x0AAE5810, .mulhn 21 14 11),
    (0x0AAE5811, .div 21 14 11),
    (0x0AAE5812, .divn 21 14 11),
    (0x0AAE5813, .rem 21 14 11),
    (0x0AAE5814, .remn 21 14 11),
    (0x0AAE0015, .clz 21 14),
    (0x0AAE0016, .ctz 21 14),
    (0x0AAE0017, .popc 21 14),
    (0x0AAE5E98, .sel 21 14 11 26),
    (0x0AAE5AD9, .addsh 21 14 11 11)] = true := by decide +kernel

theorem test_decode_immediate : decodesAll [
    (0x0EAEA96B, .addi 21 14 43371),
    (0x12AEA96B, .andi 21 14 43371),
    (0x16AEA96B, .ori 21 14 43371),
    (0x1AAEA96B, .xori 21 14 43371),
    (0x1EAEA96B, .slti 21 14 43371),
    (0x22AE002B, .slli 21 14 43),
    (0x22AE102B, .srli 21 14 43),
    (0x22AE202B, .srai 21 14 43),
    (0x22AE3A17, .ext 21 14 40 23),
    (0x22AE407E, .ins 21 14 1 62),
    (0x26B5A96B, .ldi 21 1419627),
    (0x2AB5A96B, .ldhi 21 1419627),
    (0x2EB5A96B, .ldxh 21 1419627)] = true := by decide +kernel

theorem test_decode_control : decodesAll [
    (0x31CBA96B, .beq 14 11 43371),
    (0x35CBA96B, .bne 14 11 43371),
    (0x39CBA96B, .blt 14 11 43371),
    (0x3DCBA96B, .bge 14 11 43371),
    (0x41CBA96B, .bltn 14 11 43371),
    (0x45CBA96B, .bgen 14 11 43371),
    (0x4AD5A96B, .jmp 47556971),
    (0x4ED5A96B, .call 47556971),
    (0x500E0000, .jr 14),
    (0x500E0001, .callr 14),
    (0x50000002, .ret)] = true := by decide +kernel

theorem test_decode_access : decodesAll [
    (0x56AEA96B, .ldb 21 14 43371),
    (0x5AAEA96B, .ldbn 21 14 43371),
    (0x5EAEA96B, .ldh 21 14 43371),
    (0x62AEA96B, .ldhn 21 14 43371),
    (0x66AEA96B, .ldw 21 14 43371),
    (0x6AAEA96B, .ldwn 21 14 43371),
    (0x6EAEA96B, .ldd 21 14 43371),
    (0x716EA96B, .stb 11 14 43371),
    (0x756EA96B, .sth 11 14 43371),
    (0x796EA96B, .stw 11 14 43371),
    (0x7D6EA96B, .std 11 14 43371),
    (0x80AEA96B, .vld 5 14 43371),
    (0x856EA96B, .vst 11 14 43371),
    (0x8AAEA96B, .fldd 21 14 43371),
    (0x8EAEA96B, .flds 21 14 43371),
    (0x916EA96B, .fstd 11 14 43371),
    (0x956EA96B, .fsts 11 14 43371)] = true := by decide +kernel

theorem test_decode_extended_access : decodesAll [
    (0x9AAE5D80, .ldx 21 14 11 2 1 2),
    (0x9AAE5CC1, .stx 21 14 11 2 3),
    (0x9AAE5982, .ldt 21 14 11 1 2),
    (0x9AAE58C3, .stt 21 14 11 3),
    (0x9AAE0044, .promote 21 14 1),
    (0x9AAE0005, .demote 21 14),
    (0x980E0006, .pref 14),
    (0x9AAE0007, .leap 21 14),
    (0x98000148, .fence 5),
    (0x98000149, .acq 5),
    (0x9800014A, .rel 5)] = true := by decide +kernel

theorem test_decode_atomic : decodesAll [
    (0x9EAE59C0, .amoadd 21 14 11 1 1 1),
    (0x9EAE59C1, .amoand 21 14 11 1 1 1),
    (0x9EAE59C2, .amoor 21 14 11 1 1 1),
    (0x9EAE59C3, .amoxor 21 14 11 1 1 1),
    (0x9EAE59C4, .amomin 21 14 11 1 1 1),
    (0x9EAE59C5, .amomax 21 14 11 1 1 1),
    (0x9EAE59C6, .amominn 21 14 11 1 1 1),
    (0x9EAE59C7, .amomaxn 21 14 11 1 1 1),
    (0x9EAE59C8, .amoswap 21 14 11 1 1 1),
    (0x9EAE59C9, .amocas 21 14 11 1 1 1),
    (0x9EAE59CA, .amofadd 21 14 11 1 1 1),
    (0x9EAE59CB, .amofmax 21 14 11 1 1 1)] = true := by decide +kernel

theorem test_decode_sync : decodesAll [
    (0xA2AE0000, .arrive 21 14),
    (0xA00E5801, .waitb 14 11),
    (0xA00E0002, .bar 14),
    (0xA00E5803, .binit 14 11),
    (0xA00E0004, .tsleep 14),
    (0xA2AE0005, .wpset 21 14),
    (0xA00E0006, .wpclr 14)] = true := by decide +kernel

theorem test_decode_strand : decodesAll [
    (0xA6AE5800, .spawn 21 14 11),
    (0xA40E5E81, .spawnq 14 11 26),
    (0xA40E0682, .fork 14 26),
    (0xA4000003, .quit),
    (0xA40E5804, .msg 14 11),
    (0xA6AE5805, .fill 21 14 11),
    (0xA6A00046, .empty 21 1),
    (0xA6AE0047, .take 21 14 1),
    (0xA6AE0048, .rstate 21 14 1),
    (0xA6AE0009, .await 21 14),
    (0xA6AE000A, .ftest 21 14),
    (0xA40E000B, .fcancel 14),
    (0xA6AE580C, .fwd 21 14 11),
    (0xA6AE000D, .pipe 21 14)] = true := by decide +kernel

theorem test_decode_join : decodesAll [
    (0xAAAE5E80, .jnew 21 14 11 26),
    (0xAAAE5E81, .jreg 21 14 11 26),
    (0xAAAE58C2, .jval 21 14 11 3),
    (0xAAAE00C3, .jdrop 21 14 3),
    (0xAAAE00C4, .wchk 21 14 3),
    (0xAAAE0005, .jfree 21 14)] = true := by decide +kernel

theorem test_decode_float : decodesAll [
    (0xAEAE5803, .fadd 21 14 11 3),
    (0xAEAE5807, .fsub 21 14 11 3),
    (0xAEAE580B, .fmul 21 14 11 3),
    (0xAEAE580F, .fdiv 21 14 11 3),
    (0xAEAE5E93, .fma 21 14 11 26 3),
    (0xAEAE5E97, .fnma 21 14 11 26 3),
    (0xAEAE001B, .fsqrt 21 14 3),
    (0xAEAE581F, .fmin 21 14 11 3),
    (0xAEAE5823, .fmax 21 14 11 3),
    (0xAEAE5827, .feq 21 14 11 3),
    (0xAEAE582B, .flt 21 14 11 3),
    (0xAEAE582F, .fle 21 14 11 3),
    (0xAEAE58B3, .fsgn 21 14 11 2 3),
    (0xAEAE0037, .fclass 21 14 3),
    (0xAEAE003B, .fexp2 21 14 3),
    (0xAEAE003F, .flog2 21 14 3),
    (0xB2AE91C0, .fcvt 21 14 18 7),
    (0xB2AE9841, .fcvti 21 14 19 1),
    (0xB2AE2C42, .icvtf 21 14 5 17),
    (0xB2AE0003, .fmvgf 21 14),
    (0xB2AE0004, .fmvfg 21 14),
    (0xB2AE00C5, .frcp 21 14 3),
    (0xB2AE00C6, .frsqrt 21 14 3)] = true := by decide +kernel

theorem test_decode_stream : decodesAll [
    (0xB40E00C0, .scfg 14 3),
    (0xB46002C1, .sbind 3 1 3),
    (0xB4600202, .sunbind 3 1),
    (0xB6A000C3, .sstat 21 3)] = true := by decide +kernel

theorem test_decode_vector : decodesAll [
    (0xB8AE5800, .vadd 5 14 11),
    (0xB8AE5801, .vsub 5 14 11),
    (0xB8AE5802, .vmul 5 14 11),
    (0xB8AE5A83, .vfma 5 14 11 10),
    (0xB8AE5804, .vmin 5 14 11),
    (0xB8AE5805, .vmax 5 14 11),
    (0xB8AE0006, .vabs 5 14),
    (0xB8AE0007, .vneg 5 14),
    (0xB8AE5808, .vceq 5 14 11),
    (0xB8AE5809, .vclt 5 14 11),
    (0xB8AE580A, .vcle 5 14 11),
    (0xB8AE5A8B, .vsel 5 14 11 10),
    (0xB8AE580C, .vand 5 14 11),
    (0xB8AE580D, .vor 5 14 11),
    (0xB8AE580E, .vxor 5 14 11),
    (0xB8AE580F, .vshl 5 14 11),
    (0xB8AE5810, .vshr 5 14 11),
    (0xB8AE5811, .vsra 5 14 11),
    (0xB8AE5812, .vdiv 5 14 11),
    (0xB8AE0013, .vsqrt 5 14),
    (0xB8AE0014, .vexp2 5 14),
    (0xB8AE0015, .vlog2 5 14),
    (0xB8AE0016, .vrcp 5 14),
    (0xB8AE0017, .vrsqrt 5 14),
    (0xB8AE5818, .vscale 5 14 11)] = true := by decide +kernel

theorem test_decode_permute : decodesAll [
    (0xBCAE0000, .vbcast 5 14),
    (0xBEAE5801, .vextr 21 14 11),
    (0xBCAE5802, .vinsr 5 14 11),
    (0xBCAE5803, .vperm 5 14 11),
    (0xBCAE5E84, .vslide 5 14 11 26),
    (0xBCAE5845, .vzip 5 14 11 1),
    (0xBCAE5846, .vunzip 5 14 11 1),
    (0xBEAE0007, .vredsum 21 14),
    (0xBEAE0008, .vredmax 21 14),
    (0xBEAE0009, .vredmin 21 14),
    (0xBD8A700A, .vmergek 12 10 14),
    (0xBCAE02CB, .vcvt 5 14 11),
    (0xBCAE000C, .vmov 5 14)] = true := by decide +kernel

theorem test_decode_dot : decodesAll [
    (0xC0AE5E89, .vdot 5 14 11 26 9)] = true := by decide +kernel

theorem test_decode_engine : decodesAll [
    (0xC6AE000B, .mma 21 14 11),
    (0xC6AE5810, .mmv 21 14 11),
    (0xC6AE0011, .mclr 21 14),
    (0xC6AE5812, .mld 21 14 11),
    (0xC6AE5813, .mst 21 14 11),
    (0xC6AE5900, .copy 21 14 11),
    (0xC6AE5901, .fillt 21 14 11),
    (0xC6AE5902, .gather 21 14 11),
    (0xC6AE5903, .scatter 21 14 11),
    (0xC6AE5A00, .topk 21 14 11),
    (0xC6AE5A01, .mergel 21 14 11),
    (0xC6AE5B00, .allred 21 14 11),
    (0xC6AE5B01, .bcast 21 14 11),
    (0xC6A00400, .tjins 21),
    (0xC6AE5C01, .tjapp 21 14 11),
    (0xC6AE5C02, .tjcls 21 14 11),
    (0xC6AE5C03, .tjsmp 21 14 11),
    (0xC6AE5C04, .tjget 21 14 11),
    (0xC6AE5C05, .tjpri 21 14 11),
    (0xC6AE0406, .tjevi 21 14),
    (0xC6AE5C07, .tjver 21 14 11),
    (0xC6A05C08, .tjstat 21 11),
    (0xC80E2680, .eset 14 154),
    (0xCAA080C1, .eget 21 515)] = true := by decide +kernel

theorem test_decode_tile : decodesAll [
    (0xCC0E0AC0, .tset 14 43),
    (0xCEA00AC1, .tstate 21 43),
    (0xCC0E0AC2, .twait 14 43),
    (0xCC0E02C3, .tring 14 11),
    (0xCEAE02C4, .ringhd 21 14 11),
    (0xCEAE02C5, .ringtl 21 14 11),
    (0xCCAE0AC6, .vldt 5 14 43),
    (0xCCAE0AC7, .vstt 5 14 43),
    (0xCC0E0AC8, .tmark 14 43)] = true := by decide +kernel

theorem test_refused_words : refusesAll [
    (0x00000000, .unlistedMajor), (0xD0000000, .unlistedMajor), (0x0400000A, .unlistedFunction), (0xC4000004, .unlistedCommand),
    (0x08A63840, .mustBeZero), (0x82000000, .vectorRegister), (0x98000600, .placementHint), (0x98000188, .scopeCode),
    (0x04000107, .tlbKind), (0x21043F04, .bitRange), (0x040E0143, .readOnlyRegister), (0x050005C2, .specialRegister)] = true := by
  decide +kernel

/-- One ill-formed term for each operand check of R176, refused by name. -/
theorem test_ill_formed :
    (Instr.mfs 8 0x17).check = some .specialRegister ∧ (Instr.mts 8 0x28).check = some .specialRegister ∧
    (Instr.mts 8 0x005).check = some .readOnlyRegister ∧ (Instr.tlbinv 4 5 0 4).check = some .tlbKind ∧
    (Instr.ext 8 4 60 4).check = some .bitRange ∧ (Instr.ins 8 4 1 63).check = some .bitRange ∧
    (Instr.ldx 8 4 5 3 0 0).check = some .placementHint ∧ (Instr.stx 8 4 5 3 0).check = some .placementHint ∧
    (Instr.ldx 8 4 5 0 1 3).check = some .mustBeZero ∧ (Instr.ldt 8 4 5 1 3).check = some .mustBeZero ∧
    (Instr.fence 6).check = some .scopeCode ∧ (Instr.acq 7).check = some .scopeCode ∧ (Instr.rel 6).check = some .scopeCode ∧
    (Instr.empty 8 3).check = some .registerClass ∧ (Instr.take 8 9 3).check = some .registerClass ∧
    (Instr.rstate 8 9 3).check = some .registerClass ∧ (Instr.rstate 8 16 2).check = some .vectorRegister ∧
    (Instr.take 8 8 0).check = some .sameRegister ∧ (Instr.fsgn 8 9 10 3 0).check = some .signMode ∧
    (Instr.fexp2 8 9 0).check = some .unlistedFunction ∧ (Instr.flog2 8 9 0).check = some .unlistedFunction ∧
    (Instr.fcvt 8 9 0 1).check = some .formatCode ∧ (Instr.fcvti 8 9 1 1).check = some .formatCode ∧
    (Instr.icvtf 8 9 1 20).check = some .formatCode ∧ (Instr.vmergek 8 9 10).check = some .registerGroup ∧
    (Instr.vmergek 15 9 11).check = some .registerGroup ∧ (Instr.vdot 8 9 10 0 10).check = some .formatPair ∧
    (Instr.mma 8 9 4).check = some .formatPair ∧ (Instr.eset 8 0x006).check = some .engineRegister ∧
    (Instr.eget 8 0x280).check = some .engineRegister := by decide

/-! Statements applied to concrete operands. The proof of each theorem supplies every hypothesis of the clause it applies, so that the
hypotheses can be met together; the value in the conclusion is worked out by hand from the rule. -/

/-- A page with every right, by its virtual and its physical address. -/
def page (va pa : Nat) : TlbEnt := ⟨0, va, 0, w64 (pa + 0xDF)⟩

/-- Core 0 with slot 0 running at 0x10000 in a launch with a handler at 0x20000, in supervisor mode. Its page is DRAM whose lines are homed
at other cores; 0x30000 is its own scratchpad, 0x40000 the scratchpad of core 9, 0x50000 memory of device 1, 0x60000 the CXL window, and
0x70000 its scratchpad again, for reading only. -/
def base : State :=
  { (State.reset.placeWord []).modCore 0 fun k => { k with
      tlb := k.tlb ++ [page 0x30000 0x100000000000, page 0x40000 0x100000900000, page 0x50000 0x400000010000, page 0x60000 0x300000000000,
        ⟨0, 0x70000, 0, w64 (0x100000000000 + 0xCB)⟩] } with
    agenda := [], reach := [1], extents := [(0, 0x10000)] }

/-- `base` with the performing strand changed. -/
def having (f : Strand → Strand) : State := base.become (f base.self)

/-- A strand with values in g registers. -/
def holding (l : List (Nat × Word)) (x : Strand) : Strand := l.foldl (fun x p => { x with g := vset x.g p.1 (Reg.full p.2) }) x

/-- `base` with values in g registers. -/
def given (l : List (Nat × Word)) : State := having (holding l)

/-- What the g registers of the performing strand hold. -/
def rgOf (s : State) (n : BitVec 5) : Word := if n = 0 then 0 else (vget s.self.g n.toNat).val

/-- Outcomes agree with a next state in some field. -/
def after {α : Type} (o : Host.Outcome State Fault Refusal) (f : State → α) : Option α :=
  match o with
  | .next t => some (f t)
  | _ => none

def minus7 : State := given [(4, w64 (2 ^ 64 - 7)), (5, 2), (6, 0)]

theorem test_meets_RegisterFormsCompute (h : Obligations.RegisterFormsCompute) :
    (∃ t, exec (.div 8 4 5) minus7 = .next t ∧ (vget t.self.g 8).val = w64 (2 ^ 64 - 3)) ∧
    (∃ t, exec (.rem 0 4 5) minus7 = .next t ∧ t.self.g = minus7.self.g) ∧
    ∃ t, exec (.sel 8 4 5 6) minus7 = .next t ∧ (vget t.self.g 8).val = 2 :=
  ⟨⟨_, h minus7 (rgOf minus7) _ _ _ _ rfl (by decide +kernel) (by decide +kernel), by decide +kernel⟩,
   ⟨_, h minus7 (rgOf minus7) _ _ _ _ rfl (by decide +kernel) (by decide +kernel), by decide +kernel⟩,
   ⟨_, h minus7 (rgOf minus7) _ _ _ _ rfl (by decide +kernel) (by decide +kernel), by decide +kernel⟩⟩

def forFields : State := given [(4, 0xABCD), (5, 0x77), (8, 0x1111111111111111), (9, 0x16789ABCDEF)]

theorem test_meets_ImmediateFormsCompute (h : Obligations.ImmediateFormsCompute) :
    (∃ t, exec (.ext 8 4 8 3) forFields = .next t ∧ (vget t.self.g 8).val = 0xB) ∧
    (∃ t, exec (.ins 8 5 16 7) forFields = .next t ∧ (vget t.self.g 8).val = 0x1111111111771111) ∧
    ∃ t, exec (.ldxh 9 0x0048D1) forFields = .next t ∧ (vget t.self.g 9).val = 0x0123456789ABCDEF :=
  ⟨⟨_, h forFields (rgOf forFields) _ _ _ _ (by exact rfl) rfl (by decide +kernel) (by decide +kernel), by decide +kernel⟩,
   ⟨_, h forFields (rgOf forFields) _ _ _ _ (by exact rfl) rfl (by decide +kernel) (by decide +kernel), by decide +kernel⟩,
   ⟨_, h forFields (rgOf forFields) _ _ _ _ (by exact rfl) rfl (by decide +kernel) (by decide +kernel), by decide +kernel⟩⟩

theorem test_meets_BranchesAndJumpsGo (h : Obligations.BranchesAndJumpsGo) :
    (∃ t, exec (.blt 4 5 0xFFFE) minus7 = .next t ∧ t.self.pc = 0xFFFC) ∧
    (∃ t, exec (.bltn 4 5 0xFFFE) minus7 = .next t ∧ t.self.pc = 0x10004) ∧
    (∃ t, exec (.jmp 0x3FFFFFE) minus7 = .next t ∧ t.self.pc = 0xFFFC) ∧
    (∃ t, exec (.jr 6) minus7 = .next t ∧ t.self.pc = 0) ∧
    ∃ t, exec (.jr 5) minus7 = .next t ∧ t.self.pc = 0x20000 ∧ t.self.einfo = 2 :=
  ⟨⟨_, h.1 minus7 (rgOf minus7) _ _ _ _ _ rfl (by decide +kernel) (by decide +kernel), by decide +kernel⟩,
   ⟨_, h.1 minus7 (rgOf minus7) _ _ _ _ _ rfl (by decide +kernel) (by decide +kernel), by decide +kernel⟩,
   ⟨_, h.2.1 minus7 _, by decide +kernel⟩,
   ⟨_, (h.2.2 minus7 6 0 (by decide +kernel)).1 (by decide), by decide +kernel⟩,
   ⟨_, (h.2.2 minus7 5 2 (by decide +kernel)).2 (by decide) (by decide +kernel), by decide +kernel⟩⟩

theorem test_meets_DecodeOfEncode (h : Obligations.DecodeOfEncode) : decode 0x08A63800 = .ok (.add 5 6 7) :=
  h (.add 5 6 7) _ (by exact rfl) rfl

theorem test_meets_EncodeOfDecode (h : Obligations.EncodeOfDecode) : encode (.add 5 6 7) = some 0x08A63800 :=
  (h 0x08A63800 _ (by exact rfl)).1

theorem test_meets_PrintedWordsDecode (h : Obligations.PrintedWordsDecode) :
    decode 0x03FFFFFF = .error .unlistedMajor ∧ decode 0xD0000000 = .error .unlistedMajor :=
  ⟨h.2 _ (by decide), h.2 _ (by decide)⟩

/-- An outcome that is known to be a next state is one. -/
theorem is_next {o : Host.Outcome State Fault Refusal} (h : (after o fun _ => ()).isSome = true) : ∃ t, o = .next t := by
  cases o with
  | next t => exact ⟨t, rfl⟩
  | fault _ => cases h
  | refused _ => cases h

/-- A fetch known to give a word gives it with some state. -/
theorem is_fetched {o : Except Stop (BitVec 32 × State)} {w : BitVec 32}
    (h : (match o with | .ok (w', _) => decide (w' = w) | .error _ => false) = true) : ∃ u, o = .ok (w, u) := by
  cases o with
  | error _ => cases h
  | ok p => exact ⟨p.2, by obtain ⟨_, _⟩ := p; simp only [decide_eq_true_eq] at h; rw [h]⟩

/-- A run known to give a value gives it with some state of which a check holds. -/
theorem is_ok {ε α : Type} [DecidableEq α] {o : Except ε (α × State)} {x : α} {p : State → Bool}
    (h : (match o with | .ok (y, u) => decide (y = x) && p u | .error _ => false) = true) : ∃ u, o = .ok (x, u) ∧ p u = true := by
  cases o with
  | error _ => cases h
  | ok q =>
    obtain ⟨y, u⟩ := q
    simp only [Bool.and_eq_true, decide_eq_true_eq] at h
    exact ⟨u, by rw [h.1], h.2⟩

/-- Core 0 about to fetch a word. -/
def fetching (w : Nat) : State := State.reset.withFetchWord 32 w

/-- The state at which slot 0 of core 0 issues. -/
def issuing (s : State) : State :=
  let b := ({ s with agenda := [] } : State).boundary 0
  { b.setCore 0 ((b.core 0).tickCycle.note 0 (b.core 0).cyc) with cur := (0, 0) }

theorem issues_here (s : State) (ha : s.agenda = [.cycle 0]) (hw : (s.core 0).works = true)
    (hp : (({ s with agenda := [] } : State).boundary 0).pick 0 = some 0) (hr : (issuing s).self.report = none)
    (hd : (issuing s).self.wdRep = false) : issues s (issuing s) :=
  ⟨0, 0, [], ha, by decide, hw, hp, rfl, hr, hd⟩

theorem test_meets_StepRunsDecodedInstruction (h : Obligations.StepRunsDecodedInstruction) :
    (∃ u v : State, exec (.addi 8 5 0xFFFC) u = .next v ∧ step (fetching 0x0D05FFFC) = .next v.trim) ∧
    ∃ u : State, step (fetching 0x08A63840) = .next (u.traps 0x01 0x08A63840).trim := by
  have hA : issues (fetching 0x0D05FFFC) (issuing (fetching 0x0D05FFFC)) := by apply issues_here <;> decide +kernel
  have hB : issues (fetching 0x08A63840) (issuing (fetching 0x08A63840)) := by apply issues_here <;> decide +kernel
  obtain ⟨u, hu⟩ := is_fetched (o := fetch.run (issuing (fetching 0x0D05FFFC))) (w := 0x0D05FFFC) (by decide +kernel)
  obtain ⟨v, hv⟩ := is_fetched (o := fetch.run (issuing (fetching 0x08A63840))) (w := 0x08A63840) (by decide +kernel)
  have hv0 : v.self.tvec ≠ 0 := by
    have h0 : (fetch.run (issuing (fetching 0x08A63840))).toOption.map (fun p => decide (p.2.self.tvec = 0)) = some false := by decide +kernel
    rw [hv] at h0
    exact of_decide_eq_false (Option.some.inj h0)
  obtain ⟨w, hw⟩ := h.1 _ _ u 0x0D05FFFC (.addi 8 5 0xFFFC) hA hu (by exact rfl)
  exact ⟨⟨u, w, hw⟩, v, h.2 _ _ v 0x08A63840 .mustBeZero hB hv (by exact rfl) hv0⟩

theorem test_meets_StopsOnlyForAbsentAgents (h : Obligations.StopsOnlyForAbsentAgents) :
    ∀ f, step { base with agenda := [.cycle 2048] } = .fault f → ({ base with agenda := [.cycle 2048] } : State).nextTurn.1 = .cycle 2048 :=
  fun f hf => (h.2.2 _ f hf).elim (fun ⟨_, _, _⟩ => rfl) fun ⟨_, _, _⟩ => rfl

/-- The step that the hypothesis of StopsOnlyForAbsentAgents names does end in a fault. -/
theorem test_absent_core_faults : (match step { base with agenda := [.cycle 2048] } with | .fault _ => true | _ => false) = true := by
  decide +kernel

theorem test_meets_StepsKeepCanonicalMemory (h : Obligations.StepsKeepCanonicalMemory) :
    ∃ t, step (fetching 0x0D05FFFC) = .next t ∧ t.canonical = true := by
  obtain ⟨t, ht⟩ := is_next (o := step (fetching 0x0D05FFFC)) (by decide +kernel)
  exact ⟨t, ht, h _ t (by decide +kernel) ht⟩

/-- The access that the performing strand's TLB gives for an address. -/
def accAt (s : State) (va : Word) : Access :=
  ((s.tlbFind s.cur.1 (s.ctxOf s.self.launch) va.toNat).bind fun e => s.accessOf e va.toNat).getD ⟨0, .control, 0, false⟩

/-- A strand with n entries in its return-address store and a spill area at 0x30100. -/
def calling (n : Nat) (x : Strand) : Strand :=
  { x with ras := (List.range n).map fun k => w64 (0x11000 + 4 * k), rasb := 0x30100, rasp := 0x30108, dmask := 0x120 }

theorem test_meets_CallsPushAndReturnsPop (h : Obligations.CallsPushAndReturnsPop) :
    (∃ t, exec (.call 2) (having (holding [(5, 7)] ∘ calling 15)) = .next t ∧ t.self.pc = 0x1000C ∧ t.self.ras.length = 16 ∧
      (vget t.self.g 5).st = .dead) ∧
    (∃ t, exec (.callr 5) (having (holding [(5, 0x12000)] ∘ calling 16)) = .next t ∧ t.self.pc = 0x12000 ∧ t.self.rasp = 0x30110 ∧
      t.self.fifo.map (fun e => (e.va, e.data)) = [(0x30108, [0x00, 0x10, 0x01, 0, 0, 0, 0, 0])]) ∧
    (∃ t, exec .ret (having (calling 3)) = .next t ∧ t.self.pc = 0x11008 ∧ t.self.ras.length = 2) ∧
    (∃ t, exec .ret ((having (calling 0)).homePut 0x100000000100 [0x40, 0x23, 1]) = .next t ∧ t.self.pc = 0x12340 ∧ t.self.rasp = 0x30100) ∧
    (∃ t, exec .ret (having (fun x => { calling 0 x with rasp := 0x30100 })) = .next t ∧ t.self.pc = 0x20000 ∧ t.self.cause = 0x0A) ∧
    (∃ t, exec (.callr 5) (having (holding [(5, 0x12002)] ∘ calling 3)) = .next t ∧ t.self.einfo = 0x12002 ∧ t.self.ras.length = 3) ∧
    ∃ t, exec .ret (having fun x => { x with ras := [0x11001] }) = .next t ∧ t.self.cause = 3 ∧ t.self.ras.length = 1 := by
  refine ⟨⟨_, (h.1 _ _ _ (.inl ⟨2, rfl, rfl⟩)).1 (by decide +kernel), by decide +kernel⟩,
    ⟨_, (h.1 _ _ 0x12000 (.inr ⟨5, rfl, by decide +kernel, by decide⟩)).2 (accAt (having (holding [(5, 0x12000)] ∘ calling 16)) 0x30108)
      (by decide +kernel) (by decide +kernel) (by decide +kernel), by decide +kernel⟩,
    ⟨_, h.2.2.1 _ 0x11008 (by decide +kernel) (by decide), by decide +kernel⟩,
    ?_,
    ⟨_, h.2.2.2.2 _ (by decide +kernel) (by decide +kernel) (by decide +kernel), by decide +kernel⟩,
    ⟨_, (h.2.1 _ 5 0x12002 (by decide) (by decide +kernel)).1 (by decide +kernel), by decide +kernel⟩,
    ⟨_, (h.2.1 _ 0 0x11001 (by decide) (by decide +kernel)).2 (by decide +kernel), by decide +kernel⟩⟩
  have e := h.2.2.2.1 ((having (calling 0)).homePut 0x100000000100 [0x40, 0x23, 1]) (accAt (having (calling 0)) 0x30100) [0x40, 0x23, 1, 0, 0, 0, 0, 0]
  iterate 9 specialize e (by decide +kernel)
  exact ⟨_, e, by decide +kernel⟩

theorem test_meets_TrapsEnterAndReturn (h : Obligations.TrapsEnterAndReturn) :
    (∃ t, exec (.trap 5) base = .next t ∧ t.self.pc = 0x20000 ∧ t.self.epc = 0x10000 ∧ t.self.cause = 0x13 ∧ t.self.einfo = 5 ∧ t.self.bm = true) ∧
    (∃ t, exec (.brk 1023) base = .next t ∧ t.self.cause = 0x12 ∧ t.self.einfo = 1023) ∧
    (∃ t, exec .eret (having fun x => { x with epc := 0x10044, bm := true }) = .next t ∧ t.self.pc = 0x10044 ∧ t.self.bm = false) ∧
    ∃ t, exec .eret (having fun x => { x with epc := 0x10046 }) = .next t ∧ t.self.pc = 0x20000 ∧ t.self.cause = 3 ∧ t.self.einfo = 0x10046 :=
  ⟨⟨_, (h.1 base 5 (by decide +kernel)).1, by decide +kernel⟩, ⟨_, (h.1 base 1023 (by decide +kernel)).2, by decide +kernel⟩,
   ⟨_, (h.2.1 _).1 (by decide +kernel), by decide +kernel⟩, ⟨_, (h.2.1 _).2 (by decide +kernel) (by decide +kernel), by decide +kernel⟩⟩

theorem test_meets_TrapsEnterAndReturn_without_handler (h : Obligations.TrapsEnterAndReturn) :
    ∃ t, exec (.trap 5) (having fun x => { x with tvec := 0 }) = .next t ∧ (t.strand 0 0).st = .free := by
  obtain ⟨t, ht, -, hf⟩ := h.2.2 (having fun x => { x with tvec := 0 }) 5 probeLaunch (by decide +kernel) (by decide +kernel) rfl
  exact ⟨t, ht, hf 0 0 (by decide +kernel)⟩

theorem test_meets_SpecialRegistersReadAndWrite (h : Obligations.SpecialRegistersReadAndWrite) :
    (∃ t, exec (.mfs 8 0x006) base = .next t ∧ (vget t.self.g 8).val = 1) ∧
    (∃ t, exec (.mfs 8 0x00A) base = .next t ∧ (vget t.self.g 8).val = 0x20000) ∧
    (∃ t, exec (.mfs 8 0x25) (having fun x => { x with hpm := vset x.hpm 5 3 }) = .next t ∧ (vget t.self.g 8).val = 3) ∧
    (∃ t, exec (.mts 4 0x00A) (given [(4, 0x30003)]) = .next t ∧ t.self.tvec = 0x30000) ∧
    (∃ t, exec (.mts 4 0x000) (given [(4, 0xFF)]) = .next t ∧ readSpecial t t.self 0 = 0x6B) ∧
    (∃ t, exec (.mts 4 0x002) (given [(4, 6)]) = .next t ∧ t.self.cause = 1 ∧ t.self.einfo = 6) ∧
    ∃ t, exec (.mts 4 0x21) (having fun x => { x with sup := false, hu := false }) = .next t ∧ t.self.cause = 2 ∧ t.self.einfo = 0x04040843 := by
  refine ⟨⟨_, h.1.1 base 8 0x006 rfl (by decide +kernel), by decide +kernel⟩,
    ⟨_, h.1.1 base 8 0x00A rfl (by decide +kernel), by decide +kernel⟩,
    ⟨_, h.1.1 (having fun x => { x with hpm := vset x.hpm 5 3 }) 8 0x25 rfl (by decide +kernel), by decide +kernel⟩, ?_, ?_,
    ⟨_, (h.2 (given [(4, 6)]) 4 0x002 6 (by decide +kernel)).1 (by decide +kernel) (by decide) (.inr rfl), by decide +kernel⟩,
    ⟨_, (h.2 (having fun x => { x with sup := false, hu := false }) 4 0x21 0 (by decide +kernel)).2 (by decide) (by decide +kernel) (by decide +kernel),
      by decide +kernel⟩⟩
  · obtain ⟨x, hx, hv, -⟩ := h.1.2 (given [(4, 0x30003)]) 4 0x00A 0x30003 0x30000 (by decide +kernel) (fun h => absurd h (by decide)) (by decide) rfl
    exact ⟨_, hx, hv⟩
  · obtain ⟨x, hx, hv, -⟩ := h.1.2 (given [(4, 0xFF)]) 4 0x000 0xFF 0x6B (by decide +kernel) (fun h => absurd h (by decide)) (by decide)
      (by decide +kernel)
    exact ⟨_, hx, hv⟩

/-- `base` with an MTK of k register 3 that slot 1 issued before. -/
def kAwaited (s : State) : State := s.modCore 0 fun k => { k with kq := [(3, 1, true)] }

theorem test_meets_CoreSharedRegisters (h : Obligations.CoreSharedRegisters) :
    (∃ t, exec (.mfk 8 3) base = .next t ∧ (vget t.self.g 8).val = 0) ∧
    (∃ t, exec (.mtk 3 4) (given [(4, 9)]) = .next t ∧ vget t.selfCore.k 3 = 9) ∧
    (∃ t, exec (.mfk 8 3) (kAwaited base) = .next t ∧ t.self.st = .parked (.kHeld 3)) ∧
    (∃ t, exec (.mtk 3 4) (kAwaited (given [(4, 9)])) = .next t ∧ t.selfCore.kq = [(3, 1, true), (3, 0, true)]) ∧
    ∃ t, exec (.mtk 3 4) ((given [(4, 9)]).become { (given [(4, 9)]).self with fifo := [⟨0x30000, 0, accAt base 0x30000, [1], none, false, false, none⟩] })
      = .next t ∧ t.self.st = .parked (.release 0) := by
  refine ⟨⟨_, (h base 3).1 8 (by decide +kernel) (by decide +kernel), by decide +kernel⟩, ?_,
    ⟨_, ((h (kAwaited base) 3).2.2 (by decide +kernel)).1 8 (by decide +kernel), by decide +kernel⟩,
    ⟨_, (((h (kAwaited (given [(4, 9)])) 3).2.2 (by decide +kernel)).2 4 9 (by decide +kernel)).2 (by decide +kernel) (by decide +kernel),
      by decide +kernel⟩,
    ⟨_, (((h _ 3).2.2 (by decide +kernel)).2 4 9 (by decide +kernel)).1 (by decide +kernel), by decide +kernel⟩⟩
  obtain ⟨t, ht, hk, -⟩ := (h (given [(4, 9)]) 3).2.1 4 9 (by decide +kernel) (by decide +kernel) (by decide +kernel)
  exact ⟨t, ht, hk⟩

/-- g register n in a state. -/
def inState (n : Nat) (st : RState) (x : Strand) : Strand := { x with g := vset x.g n ⟨0, st, none⟩ }

/-- Core 0's slot 0 in a group of one, with words in queue 0. -/
def grouped (q : List Word) (s : State) : State :=
  s.modCore 0 fun k => { k with pipes := [⟨1, vset (Vector.replicate 4 []) 0 (q.map .word)⟩] }

theorem test_meets_SourcesParkTrapOrPop (h : Obligations.SourcesParkTrapOrPop) :
    (∃ t, exec (.add 8 4 5) (having (inState 4 .empty)) = .next t ∧ t.self.st = .parked (.reg 0 4)) ∧
    (∃ t, exec (.sel 8 4 5 6) (having fun x => { inState 6 .empty (inState 4 .dead x) with dt := true }) = .next t ∧ t.self.st = .parked (.reg 0 6)) ∧
    (∃ t, exec (.sel 8 4 5 6) (having fun x => { inState 5 .dead x with dt := true }) = .next t ∧ t.self.cause = 9 ∧ t.self.einfo = 5) ∧
    (∃ t, exec (.ori 1 28 0) (grouped [5, 6] base) = .next t ∧ vget t.self.g 1 = Reg.full 5) ∧
    (∃ t, exec (.ori 1 28 0) (grouped [] base) = .next t ∧ t.self.st = .parked .queue) ∧
    (∃ t, exec (.ori 28 1 0) (grouped [5] (given [(1, 7)])) = .next t ∧ t.selfCore.pipes.map (fun p => vget p.q 0) = [[.word 5, .word 7]]) ∧
    ∃ t, exec (.ori 28 1 0) (grouped [1, 2, 3, 4, 5, 6, 7, 8] (given [(1, 7)])) = .next t ∧ t.self.st = .parked .queueFull := by
  refine ⟨⟨_, (h.1 _ (.add 8 4 5) [] [5] 4 rfl (by decide) (by decide +kernel) rfl).1 (.inl (by decide +kernel)), by decide +kernel⟩,
    ⟨_, (h.1 _ (.sel 8 4 5 6) [4, 5] [] 6 rfl (by decide) (by decide +kernel) (by decide +kernel)).1 (.inl (by decide +kernel)), by decide +kernel⟩,
    ⟨_, (h.1 _ (.sel 8 4 5 6) [4] [6] 5 rfl (by decide) (by decide +kernel) (by decide +kernel)).2 (by decide +kernel) (by decide +kernel)
      (by decide +kernel) (fun m hm => ⟨0, by rw [List.mem_singleton.mp hm]; decide +kernel⟩) (by decide +kernel), by decide +kernel⟩,
    ?_, ⟨_, (h.2 (grouped [] base) 28 0 _ 0 (by decide) rfl rfl).2.1 (.inl (by decide +kernel)), by decide +kernel⟩, ?_,
    ⟨_, ((h.2 (grouped [1, 2, 3, 4, 5, 6, 7, 8] (given [(1, 7)])) 28 0 _ 7 (by decide) rfl rfl).2.2 (by decide +kernel) (by decide +kernel)).2
      (by decide +kernel), by decide +kernel⟩⟩
  · obtain ⟨t, ht, hg, -⟩ := (h.2 (grouped [5, 6] base) 28 0 _ 5 (by decide) rfl rfl).1 [.word 6] rfl
    exact ⟨t, ht, hg⟩
  · obtain ⟨t, ht, -, hp⟩ :=
      ((h.2 (grouped [5] (given [(1, 7)])) 28 0 _ 7 (by decide) rfl rfl).2.2 (by decide +kernel) (by decide +kernel)).1 (by decide +kernel)
    exact ⟨t, ht, by rw [hp]; decide +kernel⟩

theorem test_meets_RegisterFormsLeaveMemory (h : Obligations.RegisterFormsLeaveMemory) :
    ∃ t, exec (.add 8 4 5) (having (inState 4 .empty)) = .next t ∧ sameOthers (having (inState 4 .empty)) t := by
  obtain ⟨t, ht⟩ := is_next (o := exec (.add 8 4 5) (having (inState 4 .empty))) (by decide +kernel)
  exact ⟨t, ht, (h _ _ t rfl ht).2.2 (by decide +kernel) (by decide +kernel)⟩

/-- Bytes of this device's memory, checked one by one. -/
theorem inMemory_of {s : State} {pa n : Nat} (h : ((List.range n).all fun i => decide (devOf (pa + i) = s.devid.toNat) &&
    match regionOf (localOf (pa + i)) with | .dram _ _ | .cxl _ => true | .spad _ off => decide (off < 0x80000) | _ => false) = true) :
    inMemory s pa n := by
  intro i hi
  have := List.all_eq_true.mp h i (List.mem_range.mpr hi)
  simp only [Bool.and_eq_true, decide_eq_true_eq] at this
  refine ⟨this.1, ?_⟩
  have h2 := this.2
  split at h2 <;> simp_all

/-- A store FIFO entry. -/
def entry (va pa : Nat) (p : Place) (data : List Byte) : FifoEntry := ⟨va, 0, ⟨pa, p, 0, false⟩, data, none, false, false, none⟩

/-- The scratchpad of core 0. -/
abbrev pad : Nat := 0x100000000000

/-- A strand with entries in its store FIFO. -/
def storing (es : List FifoEntry) (x : Strand) : Strand := { x with fifo := es }

def loading : State := (given [(4, 0x30012), (5, 0x40000)]).homePut (pad + 0x10) [0xFE, 0xFF]
/-- A page whose leaf names the own core as home of its lines. -/
def nearLine : State := (given [(10, 0x60000)]).modCore 0 fun k => { k with tlb := [page 0x10000 0x10000, ⟨0, 0x60000, 0, w64 (0x20004DF)⟩] }
/-- A page of DRAM whose leaf names core 512, of die 1, as home of its lines; the die of the strand holds bytes of one line. -/
def overDie : State := ((given [(10, 0x60040)]).modCore 0 fun k => { k with tlb := [page 0x10000 0x10000, ⟨0, 0x60000, 0, w64 0x30020004DF⟩] })
def inRdc : State := overDie.modDie 0 fun d => { d with rdc := [((accAt overDie 0x60040).pa / 256, ⟨512, [(64, 5)], [(65, 6)], 1, false⟩)] }
def covered : State := having (holding [(4, 0x30010)] ∘ storing [entry 0x30010 (pad + 0x10) (.core 0) [1, 2, 3, 4]])

theorem test_meets_LoadsGiveTheirBytes (h : Obligations.LoadsGiveTheirBytes) :
    (∃ t, exec (.ldh 8 4 0xFFFE) loading = .next t ∧ vget t.self.g 8 = Reg.full (w64 (2 ^ 64 - 2))) ∧
    (∃ t, exec (.ldb 8 10 0) nearLine = .next t ∧ vget t.self.hpm 5 = 1) ∧
    (∃ t, exec (.ldhn 8 4 0) covered = .next t ∧ vget t.self.g 8 = Reg.full 0x201) ∧
    (∃ t, exec (.ldd 8 4 0) covered = .next t ∧ t.self.st = .parked (.covered (pad + 0x10) 8)) ∧
    (∃ t, exec (.ldb 8 5 0) loading = .next t ∧ vget t.self.hpm 2 = 1) ∧
    (∃ t, exec (.ldhn 8 10 0) inRdc = .next t ∧ vget t.self.g 8 = Reg.full 0x605) ∧
    (∃ t, exec (.ldb 8 10 0) overDie = .next t ∧ vget t.self.hpm 6 = 1 ∧ vget t.self.hpm 5 = 1) ∧
    (∃ t, exec (.remoteWordAccess 0 0) (having fun x => { x with st := .parked (.memory (.read ⟨pad + 0x900000, .core 9, 0, false⟩ 32 (.v 3) [])) }) =
        .next t ∧ (t.strand 0 0).st = .parked (.memory (.read ⟨pad + 0x900000, .core 9, 0, false⟩ 32 (.v 3) (List.replicate 8 0)))) ∧
    ∃ t, exec (.remoteWordAccess 0 0)
        ((having fun x => { x with st := .parked (.memory (.read ⟨pad + 0x900000, .core 9, 0, false⟩ 1 (.g 8 1 true) [])) }).homePut (pad + 0x900000) [0x80]) =
        .next t ∧ vget (t.strand 0 0).g 8 = Reg.full (w64 (2 ^ 64 - 128)) ∧ (t.strand 0 0).pc = 0x10004 := by
  refine ⟨?_, ?_, ?_, ⟨_, (h.1 covered (rgOf covered) (.ldd 8 4 0) _ _ _ (accAt covered 0x30010) [] (by exact rfl) (by decide +kernel)
      (by decide +kernel) (by decide +kernel)).2.2 ⟨0, by decide +kernel⟩ ⟨4, by decide +kernel⟩, by decide +kernel⟩, ?_, ?_, ?_, ?_, ?_⟩
  · obtain ⟨t, ht, -, hx⟩ := (h.1 loading (rgOf loading) (.ldh 8 4 0xFFFE) 0x30010 2 (.g 8 2 true) (accAt loading 0x30010) [0xFE, 0xFF]
      (by decide +kernel) (by decide +kernel) (by decide +kernel) (by decide +kernel)).1 (by decide +kernel) rfl (by decide +kernel) (by decide +kernel)
    exact ⟨t, ht, by rw [hx]; dsimp only; decide +kernel⟩
  · obtain ⟨t, ht, -, hx⟩ := (h.1 nearLine (rgOf nearLine) (.ldb 8 10 0) 0x60000 1 (.g 8 1 true) (accAt nearLine 0x60000) [0]
      (by decide +kernel) (by decide +kernel) (by decide +kernel) (by decide +kernel)).1 (by decide +kernel) rfl (by decide +kernel) (by decide +kernel)
    exact ⟨t, ht, by rw [hx]; dsimp only; decide +kernel⟩
  · obtain ⟨t, ht, -, hx⟩ := (h.1 covered (rgOf covered) (.ldhn 8 4 0) 0x30010 2 (.g 8 2 false) (accAt covered 0x30010) [1, 2]
      (by decide +kernel) (by decide +kernel) (by decide +kernel) (by decide +kernel)).2.1 rfl (by decide +kernel)
    exact ⟨t, ht, by rw [hx]; dsimp only; decide +kernel⟩
  · obtain ⟨t, ht, -, hx⟩ := h.2.1.1 loading (rgOf loading) (.ldb 8 5 0) 0x40000 1 (.g 8 1 true) (accAt loading 0x40000) 9
      (by decide +kernel) (by decide +kernel) (by decide +kernel) (by decide +kernel) (by decide) (by decide) (by decide +kernel) rfl
      (.inr (by decide +kernel))
    exact ⟨t, ht, by rw [hx]; dsimp only; decide +kernel⟩
  · have g := (h.2.2 inRdc (rgOf inRdc) (.ldhn 8 10 0) 0x60040 2 (.g 8 2 false) (accAt overDie 0x60040) 512)
    iterate 6 specialize g (by decide +kernel)
    obtain ⟨t, ht, -, hx⟩ := (g (by decide +kernel) rfl (.inr (by decide +kernel)) rfl).1 ⟨512, [(64, 5)], [(65, 6)], 1, false⟩ [5, 6] (by decide +kernel) rfl (by decide +kernel)
    exact ⟨t, ht, by rw [hx]; dsimp only; decide +kernel⟩
  · have g := (h.2.2 overDie (rgOf overDie) (.ldb 8 10 0) 0x60040 1 (.g 8 1 true) (accAt overDie 0x60040) 512)
    iterate 6 specialize g (by decide +kernel)
    obtain ⟨t, l, ht, -, -, hx, -⟩ := (g (by decide +kernel) rfl (.inr (by decide +kernel)) rfl).2 (List.replicate 64 0) (by decide +kernel) (by decide +kernel)
      (by decide +kernel)
    exact ⟨t, ht, by rw [hx]; dsimp only; decide +kernel⟩
  · exact ⟨_, (h.2.1.2 _ 0 0 _ 32 9 _ [] (List.replicate 8 0) rfl (by decide) rfl (by decide +kernel) (by decide +kernel) (by decide +kernel)
      (by decide +kernel) (by decide +kernel)).1 (by decide), by decide +kernel⟩
  · exact ⟨_, (h.2.1.2 _ 0 0 _ 1 9 _ [] [0x80] rfl (by decide) rfl (by decide +kernel) (by decide +kernel) (by decide +kernel) (by decide +kernel)
      (by decide +kernel)).2 (by decide) (by decide +kernel), by decide +kernel⟩

/-- Addresses that are misaligned, not canonical, unmapped, read-only, of the CXL window, of DRAM and of the scratchpad. -/
def checking : State := given [(4, 0x30012), (5, w64 (2 ^ 57)), (6, 0x80000), (7, 0x70000), (9, 0x60000), (10, 0x10000), (11, 0x30010)]

def pegged : State := checking.modCore 0 fun k => { k with pegs := vset k.pegs 3 (some ⟨false, 0, 0x30000, 0x20, 0⟩) }

/-- The page of 0x70000 with D clear, or a page of tile space. -/
def unset : State := checking.modCore 0 fun k => { k with tlb := [⟨0, 0x70000, 0, w64 (pad + 0x5F)⟩] }
def tiled : State := checking.modCore 0 fun k => { k with tlb := [page 0x70000 0x200000000000] }

theorem test_meets_AccessesAreCheckedFirst (h : Obligations.AccessesAreCheckedFirst) :
    (∃ t, exec (.ldd 8 4 0) checking = .next t ∧ t.self.cause = 3 ∧ t.self.einfo = 0x30012) ∧
    (∃ t, exec (.stb 8 5 0) checking = .next t ∧ t.self.cause = 6 ∧ t.self.einfo = w64 (2 ^ 57)) ∧
    (∃ t, exec (.ldd 8 6 0) checking = .next t ∧ t.self.st = .parked (.walk 0x80000 .load false false) ∧ (t.die 0).walks.length = 1) ∧
    (∃ t, exec (.stb 4 7 0) checking = .next t ∧ t.self.st = .parked (.fault 0 0 0x70000 .store false)) ∧
    (∃ t, exec (.stb 4 7 0) unset = .next t ∧ t.self.st = .parked (.walk 0x70000 .store false true)) ∧
    (∃ t, exec (.ldw 8 7 0) tiled = .next t ∧ t.self.cause = 3 ∧ t.self.einfo = 0x70000) ∧
    (∃ t, exec (.ldb 8 10 0) { checking with failed := 4 } = .next t ∧ t.self.cause = 6 ∧ t.self.einfo = 0x10000) ∧
    (∃ t, exec (.ldb 8 9 0) { checking with extents := [] } = .next t ∧ t.self.cause = 0x11 ∧ t.self.einfo = 0x300000000000) ∧
    ∃ t, exec (.stb 4 11 0) pegged = .next t ∧ t.self.cause = 7 ∧ t.self.einfo = 0x3000000000030010 := by
  have f (s : State) (i : Instr) := h s (rgOf s) (fun _ => 0) (fun _ => 0) i
  refine ⟨⟨_, (f checking (.ldd 8 4 0) 0x30012 8 .load (by decide +kernel) (by decide +kernel)).1 (by decide), by decide +kernel⟩,
    ⟨_, (f checking (.stb 8 5 0) (w64 (2 ^ 57)) 1 .store (by decide +kernel) (by decide +kernel)).2.1 (by decide) (by decide), by decide +kernel⟩,
    ⟨_, ((f checking (.ldd 8 6 0) 0x80000 8 .load (by decide +kernel) (by decide +kernel)).2.2.1 (by decide) (by decide)).1 (by decide +kernel),
      by decide +kernel⟩,
    ⟨_, (((f checking (.stb 4 7 0) 0x70000 1 .store (by decide +kernel) (by decide +kernel)).2.2.1 (by decide) (by decide)).2
      ⟨0, 0x70000, 0, w64 (pad + 0xCB)⟩ (by decide +kernel)).1 (by decide), by decide +kernel⟩,
    ⟨_, (((f unset (.stb 4 7 0) 0x70000 1 .store (by decide +kernel) (by decide +kernel)).2.2.1 (by decide) (by decide)).2
      ⟨0, 0x70000, 0, w64 (pad + 0x5F)⟩ (by decide +kernel)).2 (by decide) (by decide), by decide +kernel⟩,
    ⟨_, ((f tiled (.ldw 8 7 0) 0x70000 4 .load (by decide +kernel) (by decide +kernel)).2.2.2.1
      (page 0x70000 0x200000000000) (accAt tiled 0x70000) (by decide) (by decide) (by decide +kernel) (by decide) (by decide) (by decide +kernel)).1
      (by decide +kernel) (by decide), by decide +kernel⟩,
    ⟨_, (((f { checking with failed := 4 } (.ldb 8 10 0) 0x10000 1 .load (by decide +kernel) (by decide +kernel)).2.2.2.1 (page 0x10000 0x10000)
      (accAt base 0x10000) (by decide) (by decide) (by decide +kernel) (by decide) (by decide) (by decide +kernel)).2 (.inl (by decide +kernel))
      (by decide +kernel)).1 (by decide +kernel), by decide +kernel⟩,
    ⟨_, (((f { checking with extents := [] } (.ldb 8 9 0) 0x60000 1 .load (by decide +kernel) (by decide +kernel)).2.2.2.1
      (page 0x60000 0x300000000000) (accAt base 0x60000) (by decide) (by decide) (by decide +kernel) (by decide) (by decide) (by decide +kernel)).2
      (.inl (by decide +kernel)) (by decide +kernel)).2 (by decide +kernel) (by decide +kernel), by decide +kernel⟩,
    ⟨_, (f pegged (.stb 4 11 0) 0x30010 1 .store (by decide +kernel) (by decide +kernel)).2.2.2.2 (accAt base 0x30010) 3 false (by decide +kernel)
      (by decide +kernel), by decide +kernel⟩⟩

def full8 : List FifoEntry := List.replicate 8 (entry 0x30010 (pad + 0x10) (.core 0) [1])

theorem test_meets_StoresEnterTheirFifo (h : Obligations.StoresEnterTheirFifo) :
    (∃ t, exec (.sth 4 11 0xFFFE) checking = .next t ∧ t.self.fifo.map (fun e => (e.va, e.data)) = [(0x3000E, [0x12, 0])]) ∧
    (∃ t, exec (.stb 4 11 0) (checking.become (storing full8 checking.self)) = .next t ∧ t.self.st = .parked .fifoFull) ∧
    (∃ t, exec (.stt 4 11 5 2) checking = .next t ∧ t.self.fifo.map (fun e => (e.va, e.data, e.timed)) =
      [(0x30010, [0x12, 0, 3, 0], some (w64 (2 ^ 57)))]) ∧
    ∃ t, exec (.stt 4 11 5 2) (checking.become (storing full8 checking.self)) = .next t ∧ t.self.st = .parked .fifoFull := by
  refine ⟨?_, ⟨_, (h.1 (checking.become (storing full8 checking.self)) (rgOf checking) (fun _ => 0) (fun _ => 0) (.stb 4 11 0) 0x30010 1 0x30012
      (accAt base 0x30010) (by decide +kernel) (by decide +kernel) (by decide +kernel) (.inl (by decide +kernel))).2 (by decide +kernel), by decide +kernel⟩, ?_,
    ⟨_, (h.2 (checking.become (storing full8 checking.self)) (rgOf checking) 4 11 5 2 (accAt base 0x30010) (by decide +kernel) (by decide +kernel)
      (by decide +kernel) (by decide +kernel)).2 (by decide +kernel), by decide +kernel⟩⟩
  case' refine_2 =>
    obtain ⟨t, ht, -, hx⟩ := (h.2 checking (rgOf checking) 4 11 5 2 (accAt base 0x30010) (by decide +kernel) (by decide +kernel) (by decide +kernel)
      (by decide +kernel)).1 (by decide +kernel)
    exact ⟨t, ht, by rw [hx]; dsimp only; decide +kernel⟩
  obtain ⟨t, ht, -, hx⟩ := (h.1 checking (rgOf checking) (fun _ => 0) (fun _ => 0) (.sth 4 11 0xFFFE) 0x3000E 2 0x30012 (accAt base 0x3000E)
    (by decide +kernel) (by decide +kernel) (by decide +kernel) (.inl (by decide +kernel))).1 (by decide +kernel)
  exact ⟨t, ht, by rw [hx]; dsimp only; decide +kernel⟩

/-- Core 0's slot 0 with one store. -/
def draining (va pa : Nat) (p : Place) (data : List Byte) : State := having (storing [entry va pa p data])

theorem test_meets_StoresDrainInOrder (h : Obligations.StoresDrainInOrder) :
    (∃ t, exec (.storeDrain 0 0) (draining 0x40000 (pad + 0x900000) (.core 9) (List.replicate 32 7)) = .next t ∧
      byteAt t (pad + 0x900007) = 7 ∧ byteAt t (pad + 0x900008) = 0 ∧ (t.strand 0 0).fifo.map (fun e => (e.va, e.data.length)) = [(0x40008, 24)]) ∧
    (∃ t, exec (.storeDrain 0 0) (draining 0x30000 pad (.core 0) (List.replicate 32 7)) = .next t ∧
      byteAt t (pad + 31) = 7 ∧ (t.strand 0 0).fifo = []) ∧
    (∃ t, exec (.storeDrain 0 0) (draining 0x60000 0x300000000800 (.core 512) [1]) = .next t ∧ (t.strand 0 0).fifo = []) ∧
    (∃ t, exec (.storeDrain 0 0) (draining 0x50000 0x400000010000 (.device 1 0) [1]) = .next t ∧ (t.strand 0 0).exits = 1) ∧
    ∃ t, exec (.storeDrain 0 0) (draining 0x90000 (pad + 0x20000000) (.core 512) [1]) = .next t ∧ (t.strand 0 0).fifo = [] := by
  refine ⟨?_, ?_, ?_, ?_, ?_⟩
  · obtain ⟨t, ht, hs, -, hx, -⟩ := (h (draining 0x40000 (pad + 0x900000) (.core 9) (List.replicate 32 7)) 0 0 _ [] rfl rfl).1 9 (by decide +kernel) rfl
      rfl (by decide +kernel) (by decide +kernel) (by decide +kernel) (inMemory_of (by decide +kernel))
    refine ⟨t, ht, by rw [hs]; decide +kernel, by rw [hs]; decide +kernel, by rw [hx]; decide +kernel⟩
  · obtain ⟨t, ht, hs, -, hx, -⟩ := (h (draining 0x30000 pad (.core 0) (List.replicate 32 7)) 0 0 _ [] rfl rfl).1 0 (by decide +kernel) rfl
      rfl (by decide +kernel) (by decide +kernel) (by decide +kernel) (inMemory_of (by decide +kernel))
    refine ⟨t, ht, by rw [hs]; decide +kernel, by rw [hx]; decide +kernel⟩
  · obtain ⟨t, q, ht, -, hx, -⟩ := (h (draining 0x60000 0x300000000800 (.core 512) [1]) 0 0 _ [] rfl rfl).2.1 512 rfl (by decide) (by decide +kernel)
      (by decide +kernel) (by decide +kernel)
    exact ⟨t, ht, by rw [hx]⟩
  · obtain ⟨t, ht, -, -, hx⟩ := (h (draining 0x50000 0x400000010000 (.device 1 0) [1]) 0 0 _ [] rfl rfl).2.2 (.inl ⟨1, 0, rfl⟩)
    exact ⟨t, ht, by rw [hx]; decide +kernel⟩
  · obtain ⟨t, ht, -, -, hx⟩ := (h (draining 0x90000 (pad + 0x20000000) (.core 512) [1]) 0 0 _ [] rfl rfl).2.2
      (.inr ⟨512, rfl, by decide, by decide +kernel⟩)
    exact ⟨t, ht, by rw [hx]; decide +kernel⟩

/-- Time 100 on die 0. -/
def at100 (s : State) : State := s.modDie 0 fun d => { d with tu := 1000000 }

def timedLoad (arrived : Bool) (t : Word) : SlotState := .parked (.timedLoad (.timedRead ⟨pad + 8, .core 0, 0, false⟩ 8 t (.g 8 8 false) arrived))

/-- A timed store to the scratchpad. -/
def timed (t : Word) (pol sent : Bool) (late : Option Bool) : FifoEntry :=
  ⟨0x30008, 0, ⟨pad + 8, .core 0, 0, false⟩, [5], some t, pol, sent, late⟩

/-- A calendar of 64 entries, and one more timed store that arrives. -/
def sixtyFour : State := (at100 (having (storing [timed 101 false true none]))).modCore 0 fun k => { k with
  cal := List.replicate 64 ⟨102, ⟨pad + 8, .core 0, 0, false⟩, 0x30008, 0, [5], false, 0, 0, 1⟩ }

theorem test_meets_TimedAccessesMeetTheirTime (h : Obligations.TimedAccessesMeetTheirTime) :
    (∃ t, exec (.ldt 8 11 5 0 3) checking = .next t ∧ t.self.st =
      .parked (.timedLoad (.timedRead ⟨pad + 0x10, .core 0, 0, false⟩ 8 (w64 (2 ^ 57)) (.g 8 8 true) false))) ∧
    (∃ t, exec (.timedLoadArrival 0 0) (at100 (having fun x => { x with st := timedLoad false 101 })) = .next t ∧
      (t.core 0).loads.map (fun w => w.t) = [101]) ∧
    (∃ t, exec (.timedLoadArrival 0 0) (at100 (having fun x => { x with st := timedLoad false 100 })) = .next t ∧ (t.strand 0 0).st = .ready) ∧
    (∃ t, exec (.storeDrain 0 0) (at100 (having (storing [timed 101 false false none]))) = .next t ∧ (t.strand 0 0).fifo.map (·.sent) = [true]) ∧
    (∃ t, exec (.timedStoreArrival 0 0) (at100 (having (storing [timed 101 false true none]))) = .next t ∧ (t.core 0).cal.map (·.t) = [101]) ∧
    (∃ t, exec (.timedStoreArrival 0 0) sixtyFour = .next t ∧ (t.core 0).calWait.length = 1) ∧
    (∃ t, exec (.timedStoreArrival 0 0) (at100 (having (storing [timed 100 true true none]))) = .next t ∧ (t.die 0).late = 1) ∧
    (∃ t, exec (.calendarApply 0) ((at100 base).modCore 0 fun k => { k with cal := [⟨100, ⟨pad + 8, .core 0, 0, false⟩, 0x30008, 0, [5], false, 0, 0, 1⟩] }) =
      .next t ∧ byteAt t (pad + 8) = 5) ∧
    ∃ t, exec (.verdictReturn 0 0) (at100 (having (storing [timed 100 false true (some true)]))) = .next t ∧ (t.strand 0 0).report = some 100 := by
  refine ⟨?_, ?_, ?_,
    ⟨_, h.2.1 (at100 (having (storing [timed 101 false false none]))) 0 0 _ [] 101 rfl rfl rfl (by decide +kernel), by decide +kernel⟩, ?_, ?_, ?_, ?_,
    ⟨_, h.2.2.2.2 (at100 (having (storing [timed 100 false true (some true)]))) 0 0 _ [] 100 true rfl rfl rfl (by decide +kernel), by decide +kernel⟩⟩
  · obtain ⟨t, ht, -, hx⟩ := h.1.1 checking (rgOf checking) 8 11 5 0 3 ⟨pad + 0x10, .core 0, 0, false⟩ (by decide +kernel) (by decide +kernel)
      (by decide +kernel) (by decide +kernel) (by decide +kernel)
    exact ⟨t, ht, by rw [hx]; dsimp only; decide +kernel⟩
  · obtain ⟨t, ht, -, -, hl⟩ := (h.1.2 (at100 (having fun x => { x with st := timedLoad false 101 })) 0 0 _ _ 8 101 _ rfl rfl (by decide)
      (by decide +kernel) (by decide +kernel)).1 (by decide +kernel)
    exact ⟨t, ht, by rw [show (t.core 0).loads = _ from hl]; decide +kernel⟩
  · exact ⟨_, (h.1.2 (at100 (having fun x => { x with st := timedLoad false 100 })) 0 0 _ _ 8 100 _ rfl rfl (by decide) (by decide +kernel)
      (by decide +kernel)).2 (List.replicate 8 0) (by decide +kernel) (by decide +kernel) (by decide +kernel) (by decide +kernel) (.inl ⟨0, rfl⟩)
      (by decide +kernel) (by decide +kernel),
      by decide +kernel⟩
  · obtain ⟨t, ht, -, -, hc⟩ := (h.2.2.1 (at100 (having (storing [timed 101 false true none]))) 0 0 0 _ [] 101 rfl rfl rfl rfl rfl (by decide +kernel)
      (by decide +kernel) (by decide +kernel) (by decide +kernel) (by decide +kernel)).1 (by decide +kernel) (by decide +kernel)
    exact ⟨t, ht, by rw [hc]; decide +kernel⟩
  · obtain ⟨t, ht, -, -, -, hw⟩ := (h.2.2.1 sixtyFour 0 0 0 (timed 101 false true none) [] 101 (by decide +kernel) rfl rfl rfl rfl (by decide +kernel)
      (by decide +kernel) (by decide +kernel) (by decide +kernel) (by decide +kernel)).2.1 (by decide +kernel) (by decide +kernel)
    exact ⟨t, ht, by rw [hw]; rfl⟩
  · obtain ⟨t, ht, -, -, hl, -⟩ := (h.2.2.1 (at100 (having (storing [timed 100 true true none]))) 0 0 0 _ [] 100 rfl rfl rfl rfl rfl (by decide +kernel)
      (by decide +kernel) (by decide +kernel) (by decide +kernel) (by decide +kernel)).2.2 (by decide +kernel) (by decide +kernel) (inMemory_of (by decide +kernel))
    exact ⟨t, ht, by rw [show dieOf 0 = 0 from rfl] at hl; rw [hl]; decide +kernel⟩
  · obtain ⟨t, ht, hs, -⟩ := h.2.2.2.1 ((at100 base).modCore 0 fun k => { k with
        cal := [⟨100, ⟨pad + 8, .core 0, 0, false⟩, 0x30008, 0, [5], false, 0, 0, 1⟩] }) 0 _ (by decide +kernel) rfl (by decide +kernel) (by decide +kernel)
      (by decide +kernel) (by decide +kernel) (by decide +kernel) (inMemory_of (by decide +kernel))
    exact ⟨t, ht, by rw [hs]; decide +kernel⟩

/-- A dirty byte in the home cache of core 0, in a word that has gone bad. -/
def spoilt : State := { checking.homePut 0x300000000003 [7] with badWords := [(none, 0x60000000000)] }

theorem test_meets_UncorrectableReadsTrap (h : Obligations.UncorrectableReadsTrap) :
    (∃ t, exec (.ldd 8 11 0) { checking with badSectors := [pad] } = .next t ∧ t.self.cause = 0x0E ∧ t.self.einfo = w64 pad ∧ (t.die 0).srue = 1) ∧
    ∃ t, exec (.ldd 8 9 0) spoilt = .next t ∧ t.self.cause = 0x0E ∧ t.self.einfo = 0x300000000000 ∧ (t.die 0).srue = 1 := by
  refine ⟨?_, ?_⟩
  · have e := h { checking with badSectors := [pad] } (rgOf checking) (.ldd 8 11 0) 0x30010 8 (.g 8 8 false) (accAt checking 0x30010) 0
    iterate 10 specialize e (by decide +kernel)
    obtain ⟨t, ht, ⟨hx, -⟩, -, hc⟩ := e.1 (by decide +kernel) (by decide +kernel) rfl rfl (by decide)
    refine ⟨t, ht, by rw [hx]; decide +kernel, by rw [hx]; decide +kernel, ?_⟩
    have := hc 0 0x10 (by decide +kernel)
    exact this.trans (by decide +kernel)
  · have e := h spoilt (rgOf checking) (.ldd 8 9 0) 0x60000 8 (.g 8 8 false) (accAt checking 0x60000) 3
    iterate 10 specialize e (by decide +kernel)
    obtain ⟨t, ht, ⟨hx, -⟩, hc⟩ := e.2 (by decide +kernel) (by decide +kernel) (by decide +kernel)
    exact ⟨t, ht, by rw [hx]; decide +kernel, by rw [hx]; decide +kernel, hc.trans (by decide +kernel)⟩

theorem test_meets_AtomicsUpdateTheirHome (h : Obligations.AtomicsUpdateTheirHome) :
    (∃ t, exec (.amoadd 8 11 4 1 1 1) (checking.homePut (pad + 0x10) [0xFF]) = .next t ∧ (vget t.self.g 8).val = 0xFF ∧
      byteAt t (pad + 0x10) = 0x11 ∧ byteAt t (pad + 0x11) = 1) ∧
    (∃ t, exec (.amocas 6 11 4 0 0 0) (checking.homePut (pad + 0x10) [0, 0, 8]) = .next t ∧ (vget t.self.g 6).val = 0x80000 ∧
      byteAt t (pad + 0x10) = 0x12) ∧
    ∃ t, exec (.amofadd 8 11 4 0 0 0) (checking.become { checking.self with dl := 1 }) = .next t ∧ t.selfCore.oab.length = 1 := by
  refine ⟨?_, ?_, ?_⟩
  · have e := h.1 (checking.homePut (pad + 0x10) [0xFF]) (rgOf checking) (.amoadd 8 11 4 1 1 1) _ _ _ _ _ _ _ (accAt base 0x30010)
      [0xFF, 0, 0, 0, 0, 0, 0, 0] (by decide +kernel) rfl (by decide) (by decide +kernel) (by decide +kernel) (by decide)
    iterate 5 specialize e (by decide +kernel)
    obtain ⟨t, ht, -, hx, hs, -⟩ := e (fun _ => ⟨by decide +kernel, by decide +kernel, fun _ => by decide +kernel, by decide⟩) (by decide +kernel)
      (by decide +kernel) (by decide +kernel) (inMemory_of (by decide +kernel))
    exact ⟨t, ht, by rw [hx]; dsimp only; decide +kernel, by rw [hs]; decide +kernel, by rw [hs]; decide +kernel⟩
  · have e := h.1 (checking.homePut (pad + 0x10) [0, 0, 8]) (rgOf checking) (.amocas 6 11 4 0 0 0) _ _ _ _ _ _ _ (accAt base 0x30010) [0, 0, 8, 0]
      (by decide +kernel) rfl
    iterate 9 specialize e (by decide +kernel)
    obtain ⟨t, ht, -, hx, hs, -⟩ := e (fun h => absurd h (by decide)) (by decide +kernel) (by decide +kernel) (by decide +kernel)
      (inMemory_of (by decide +kernel))
    exact ⟨t, ht, by rw [hx]; dsimp only; decide +kernel, by rw [hs]; decide +kernel⟩
  · obtain ⟨t, ht, -, -, -, ho⟩ := h.2 (checking.become { checking.self with dl := 1 }) (rgOf checking) (.amofadd 8 11 4 0 0 0) _ _ _ _ _ _ _
      (accAt base 0x30010) rfl rfl (by decide +kernel) (by decide +kernel) (by decide +kernel) (by decide +kernel) (by decide) (by decide +kernel)
      (by decide +kernel) (fun h => absurd h (by decide)) (by decide +kernel)
    exact ⟨t, ht, by rw [ho]; decide +kernel⟩

/-- Barrier unit 5 of die 0, of core 0's launch, with `n` parties of which `k` have arrived, in phase `p`. -/
def barred (n k : Nat) (p : BitVec 32) : State :=
  (given [(4, 5), (5, 0x200000003), (6, 0xFFFFFFFF), (7, 7)]).setBarrier 5 ⟨probeLaunch.key, 0, 2, n, k, p⟩

theorem barredHere (n k : Nat) (p : BitVec 32) (h : (barred n k p).barrier 5 = some ⟨(barred n k p).self.launch, 0, 2, n, k, p⟩)
    (hc : (barred n k p).cur = (0, 0)) : barrierHere (barred n k p) 5 ⟨(barred n k p).self.launch, 0, 2, n, k, p⟩ :=
  ⟨by decide, h, rfl, by rw [hc]; exact (by decide : scopeOf 0 0 ≤ 2)⟩

/-- A strand back at the BAR whose arrival was counted in phase 6, with the barrier unit in phase `p`. -/
def cameBack (p : BitVec 32) : State :=
  (barred 3 0 p).become { (barred 3 0 p).self with counted := some (0x10000, 5, 6) }

theorem test_meets_BarriersCountArrivals (h : Obligations.BarriersCountArrivals) :
    (∃ t, exec (.binit 4 5) (barred 9 0 4) = .next t ∧ (t.barrier 5).map (fun b => (b.scope, b.count, b.phase)) = some (2, 3, 0)) ∧
    (∃ t, exec (.arrive 8 4) (barred 3 2 0xFFFFFFFF) = .next t ∧ (t.barrier 5).map (fun b => (b.arrived, b.phase)) = some (0, 0)) ∧
    (∃ t, exec (.bar 4) (barred 3 1 0xFFFFFFFF) = .next t ∧ t.self.st = .parked (.barArrived 5 0xFFFFFFFF)) ∧
    (∃ t, exec (.bar 4) (cameBack 7) = .next t ∧ t.self.pc = 0x10004) ∧
    (∃ t, exec (.bar 4) (cameBack 6) = .next t ∧ t.self.st = .parked (.barArrived 5 6)) ∧
    (∃ t, exec (.waitb 4 6) (barred 3 0 0) = .next t ∧ t.self.pc = 0x10004) ∧
    ∃ t, exec (.waitb 4 7) (barred 3 0 7) = .next t ∧ t.self.st = .parked (.barrier 5 7) := by
  refine ⟨?_, ?_, ?_, ?_, ?_, ?_, ?_⟩
  · have e := h.1 (barred 9 0 4) (rgOf (barred 9 0 4)) 4 5
    iterate 8 specialize e (by decide +kernel)
    obtain ⟨t, ht, -, -, -, hb⟩ := e (fun x hx => by
        have : ((barred 9 0 4).barrier (rgOf (barred 9 0 4) 4).toNat).all (fun x => x.owner == (barred 9 0 4).self.launch && x.arrived == 0) = true := by
          decide +kernel
        rw [hx] at this; simpa using this)
    exact ⟨t, ht, by rw [show (rgOf (barred 9 0 4) 4).toNat = 5 by decide +kernel] at hb; rw [hb]; decide +kernel⟩
  · obtain ⟨t, ht, -, hb⟩ := (h.2.1 (barred 3 2 0xFFFFFFFF) 4 8 5 _ (by decide +kernel) (barredHere 3 2 0xFFFFFFFF (by decide +kernel) (by decide +kernel))
      ⟨by decide +kernel, by decide +kernel, by decide, by decide⟩ (by decide +kernel) fun _ => by decide +kernel).1
    exact ⟨t, ht, by rw [show (5 : Word).toNat = 5 from rfl] at hb; rw [hb]; decide⟩
  · obtain ⟨t, ht, -, -, hx⟩ := (h.2.1 (barred 3 1 0xFFFFFFFF) 4 8 5 _ (by decide +kernel)
      (barredHere 3 1 0xFFFFFFFF (by decide +kernel) (by decide +kernel))
      ⟨by decide +kernel, by decide +kernel, by decide, by decide⟩ (by decide +kernel) fun _ => by decide +kernel).2 (by decide +kernel)
    exact ⟨t, ht, by rw [hx fun hl => absurd hl (by decide)]; decide +kernel⟩
  · obtain ⟨t, ht, hx, -⟩ := (h.2.2.1 (cameBack 7) 4 5 6 _ (by decide +kernel) rfl).1 (by decide +kernel)
    exact ⟨t, ht, by rw [hx]; decide +kernel⟩
  · exact ⟨_, (h.2.2.1 (cameBack 6) 4 5 6 _ (by decide +kernel) rfl).2 (by decide +kernel), by decide +kernel⟩
  · obtain ⟨t, ht, hx, -⟩ := (h.2.2.2 (barred 3 0 0) (fun n => if n = 4 then 5 else 0xFFFFFFFF) 4 6 _ (by decide +kernel) (by decide +kernel)
      (barredHere 3 0 0 (by decide +kernel) (by decide +kernel))).1 (by decide)
    exact ⟨t, ht, by rw [hx]; decide +kernel⟩
  · exact ⟨_, (h.2.2.2 (barred 3 0 7) (fun n => if n = 4 then 5 else 7) 4 7 _ (by decide +kernel) (by decide +kernel)
      (barredHere 3 0 7 (by decide +kernel) (by decide +kernel))).2 (by decide), by decide +kernel⟩

theorem test_meets_FencesOrderAccesses (h : Obligations.FencesOrderAccesses) :
    (∃ t, exec (.rel 5) (having (storing full8)) = .next t ∧ t.self.st = .parked (.release 5)) ∧
    ∃ t, exec (.fence 5) base = .next t ∧ t.self.pc = 0x10004 := by
  refine ⟨⟨_, ((h (having (storing full8)) 5).1 (by decide +kernel)).1, by decide +kernel⟩, ?_⟩
  obtain ⟨t, ht, hx, -⟩ := (h base 5).2.2.2 ⟨by decide +kernel, by decide +kernel, fun _ => by decide +kernel, fun _ => by decide +kernel⟩
  exact ⟨t, ht, by rw [hx]; decide +kernel⟩

def cached9 : State := checking.homePut 0x10000 [9]

/-- A strand beside the performing one with a store that it has not drained. -/
def owing : State := checking.setStrand 0 1 (storing [entry 0x10000 0x10000 (.core 256) [1]] (checking.strand 0 1))

/-- A line of device 1 with a byte that held 0x5A before a write since its last write-back. -/
def farLined : State := { given [(10, 0x50000)] with farOld := [(0x400000010000, [0x5A])] }

theorem test_meets_CacheControlsAct (h : Obligations.CacheControlsAct) :
    (∃ t, exec (.cctlWb 10) cached9 = .next t ∧ mget t.mem 0x10000 = 9) ∧
    (∃ t, exec (.cctlInv 10) cached9 = .next t) ∧
    (∃ t, exec (.cctlDrop 10) cached9 = .next t ∧ t.homeByte 0x10000 = 0) ∧
    (∃ t, exec (.cctlDrop 10) farLined = .next t ∧ t.self.pc = 0x10004) ∧
    (∃ t, exec (.cctlWb 11) (checking.become (storing full8 checking.self)) = .next t ∧ t.self.st = .parked .fifoEmpty) ∧
    (∃ t, exec (.cctlInv 11) checking = .next t ∧ t.self.pc = 0x10004) ∧
    (∃ t, exec .cctlFlash checking = .next t ∧ t.self.pc = 0x10004) ∧
    (∃ t, exec .cctlIinv checking = .next t ∧ t.selfCore.fetchBuf = []) ∧
    (∃ t, exec (.tlbinv 10 0 1 0) checking = .next t ∧ t.self.pc = 0x10004) ∧
    (∃ t, exec (.tlbinv 10 0 0 2) owing = .next t ∧ t.self.pc = 0x10000) ∧
    (∃ t, exec (.tlbinv 10 0 0 0) (checking.become (storing full8 checking.self)) = .next t ∧ t.self.st = .parked .fifoEmpty) ∧
    ∃ t, exec (.tlbinv 5 0 0 3) checking = .next t ∧ t.self.cause = 6 ∧ t.self.einfo = w64 (2 ^ 57) := by
  have hc := h.1 cached9 10 0x10000 (accAt base 0x10000) 256 (by decide +kernel) rfl (by decide +kernel) (by decide +kernel) (by decide +kernel)
    (by decide +kernel)
  have hw := hc.1 (by decide +kernel) (fun l hl => nomatch hl) (by decide +kernel) (fun q hq => nomatch hq) (fun w hw => nomatch hw) fun _ _ => rfl
  refine ⟨?_, ?_, ?_, ?_, ⟨_, ((h.2.2.1 _ 11 0x30010 (by decide +kernel)).1 (by decide +kernel)).1, by decide +kernel⟩,
    ⟨_, (((h.2.2.1 checking 11 0x30010 (by decide +kernel)).2.2 (accAt base 0x30010) (by decide +kernel) (by decide +kernel)).1 (by decide +kernel)).2,
      by decide +kernel⟩, ?_, ⟨_, ((h.2.2.2.1 checking).1 (by decide +kernel)).2, by decide +kernel⟩, ?_, ?_,
    ⟨_, (h.2.2.2.2 (checking.become (storing full8 checking.self)) (rgOf checking) 10 0 0 0 (by decide) (fun _ => by decide +kernel) (by decide +kernel)).1
      (by decide +kernel) (fun _ => by decide +kernel) (by decide +kernel), by decide +kernel⟩,
    ⟨_, ((h.2.2.2.2 checking (rgOf checking) 5 0 0 3 (by decide) (fun _ => by decide +kernel) (by decide +kernel)).2.2 (by decide +kernel)).2
      (by decide +kernel) (.inr rfl) (by decide +kernel), by decide +kernel⟩⟩
  · obtain ⟨t, ht, -, hm, -⟩ := hw
    exact ⟨t, ht, (hm 0 (by decide)).1.trans (by decide +kernel)⟩
  · obtain ⟨t, -, -, -, -, -, -, -, -, ht⟩ := hw
    exact ⟨_, ht⟩
  · obtain ⟨t, ht, -, -, hb, -⟩ := hc.2 (by decide +kernel) (by decide +kernel)
    exact ⟨t, ht, by rw [hb]; decide +kernel⟩
  · have e := h.2.1 farLined 10 0x50000 (accAt farLined 0x50000) 1 0
    iterate 9 specialize e (by decide +kernel)
    obtain ⟨t, ht, hx, -⟩ := e
    exact ⟨t, ht, by rw [hx]; decide +kernel⟩
  · obtain ⟨t, ht, hx, -⟩ := ((h.2.2.2.1 checking).1 (by decide +kernel)).1
    exact ⟨t, ht, by rw [hx]; decide +kernel⟩
  · obtain ⟨t, ht, hx, -⟩ := ((h.2.2.2.2 checking (rgOf checking) 10 0 1 0 (by decide) (fun _ => by decide +kernel) (by decide +kernel)).2.1
      (by decide +kernel) (fun _ => by decide +kernel) ⟨by decide +kernel, by decide +kernel, fun _ => by decide +kernel, by decide⟩).1 (by decide +kernel)
    exact ⟨t, ht, by rw [hx]; decide +kernel⟩
  · obtain ⟨t, ht, -, -, v, -, hx⟩ := ((h.2.2.2.2 owing (rgOf owing) 10 0 0 2 (by decide) (fun _ => by decide +kernel) (by decide +kernel)).2.1
      (by decide +kernel) (fun h => absurd h (by decide)) ⟨by decide +kernel, by decide +kernel, fun _ => by decide +kernel, by decide⟩).2 (by decide +kernel)
    exact ⟨t, ht, by rw [hx]; dsimp only; decide +kernel⟩

theorem test_meets_WaitsEndAtTheirEvent (h : Obligations.WaitsEndAtTheirEvent) :
    (∃ t, exec (.waitev 8 0) base = .next t ∧ (vget t.self.g 8).val = 0) ∧
    (∃ t, exec (.waitev 8 4) (having fun x => { holding [(4, 0x3F)] x with latch := 5 }) = .next t ∧ (vget t.self.g 8).val = 5 ∧ t.self.latch = 0) ∧
    (∃ t, exec (.waitev 8 4) (having fun x => { holding [(4, 2)] x with latch := 5 }) = .next t ∧ t.self.st = .parked (.latch 2)) ∧
    (∃ t, exec (.tsleep 4) (at100 (given [(4, 100)])) = .next t ∧ t.self.pc = 0x10004) ∧
    (∃ t, exec (.tsleep 4) (at100 (given [(4, 101)])) = .next t ∧ t.self.st = .parked (.sleep 101)) ∧
    ∃ t, exec (.tsleepWake 0 0) (at100 (having fun x => { x with st := .parked (.sleep 100) })) = .next t ∧ (t.strand 0 0).pc = 0x10004 :=
  ⟨⟨_, (h.1 base 8 0 0 (by decide +kernel) (by decide +kernel)).1 rfl, by decide +kernel⟩,
   ⟨_, (h.1 (having fun x => { holding [(4, 0x3F)] x with latch := 5 }) 8 4 0x3F (by decide +kernel) (by decide +kernel)).2.1 (by decide +kernel),
     by decide +kernel⟩,
   ⟨_, (h.1 (having fun x => { holding [(4, 2)] x with latch := 5 }) 8 4 2 (by decide +kernel) (by decide +kernel)).2.2 (by decide) (by decide +kernel),
     by decide +kernel⟩,
   ⟨_, (h.2.1 (at100 (given [(4, 100)])) 4 100 (by decide +kernel)).1 (by decide +kernel), by decide +kernel⟩,
   ⟨_, (h.2.1 (at100 (given [(4, 101)])) 4 101 (by decide +kernel)).2 (by decide +kernel), by decide +kernel⟩,
   ⟨_, h.2.2 (at100 (having fun x => { x with st := .parked (.sleep 100) })) 0 0 100 rfl (by decide +kernel), by decide +kernel⟩⟩

/-- A page of DRAM whose leaf has LC 01, beside those of `base`. -/
def rowed : State := (given [(4, 0xA0000)]).modCore 0 fun k => { k with tlb := k.tlb ++ [⟨0, 0xA0000, 0, w64 (0x10000 + 0x1DF)⟩] }

/-- The row of that page. -/
def row0 : RowAt := (rowOf 0x10000).getD ⟨0, 0, 0, 0, 0⟩

/-- `rowed` with that row resident and dirty. -/
def resident : State := rowed.modChan row0.ch fun c => c.setSub row0 ⟨[(0, ⟨row0.frow, true, false, false, 0⟩)], 1⟩

/-- Core 0's launch on cores 0 to 15. -/
def wide (f : Strand → Strand) : State :=
  let s : State := { having f with launches := tset base.launches probeLaunch.key.toNat { probeLaunch with logn := 4 } }
  (s.modCore 9 fun k => { k with launch := some probeLaunch.key }).modCore 1 fun k => { k with launch := some probeLaunch.key }

/-- A context on its way from core 0 to slot 2 of core 9. -/
def leaping : State :=
  { (wide id).modCore 9 fun k => { k with slots := vset k.slots 2 { vget k.slots 2 with st := .reserved } } with
    leaps := [⟨0, 9, 2, { base.self with pc := 0x10044 }, some 8, 0, 0⟩] }

theorem test_meets_RowsAndPlacementAreControlled (h : Obligations.RowsAndPlacementAreControlled) :
    (∃ t, exec (.promote 8 4 0) rowed = .next t ∧ (vget t.self.g 8).val = 0) ∧
    (∃ t, exec (.demote 8 4) rowed = .next t ∧ (vget t.self.g 8).val = 4) ∧
    (∃ t, exec (.demote 8 4) resident = .next t ∧ (vget t.self.g 8).val = 0x200) ∧
    (∃ t, exec (.pref 4) rowed = .next t ∧ t.self.pc = 0x10004) ∧
    (∃ t, exec (.leap 8 11) checking = .next t ∧ (vget t.self.g 8).val = 1) ∧
    (∃ t, exec (.pref 4) (having (inState 4 .empty)) = .next t ∧ t.self.pc = 0x10004) ∧
    (∃ t, exec (.leap 8 5) (wide (holding [(5, 0x40000)])) = .next t ∧ t.self.st = .free) ∧
    ∃ t, exec (.leapArrival 9 2) leaping = .next t ∧ (t.strand 9 2).pc = 0x10044 ∧ (vget (t.strand 9 2).g 8).val = 0 := by
  have hr := h.1 rowed 8 4 0xA0000 (by decide +kernel)
  have hr1 := hr.1 (accAt rowed 0xA0000) row0 (by decide +kernel) (by decide) (fun e n => by
    rw [show (accAt rowed 0xA0000).place = .core 256 by decide +kernel]; exact Place.noConfusion) (by decide +kernel)
  refine ⟨?_, ?_, ?_, ?_, ?_, ?_, ?_, ?_⟩
  · obtain ⟨t, ht, hx, -⟩ := hr1.1 0 (by decide +kernel) (by decide +kernel) (by decide +kernel) ⟨0, by decide +kernel⟩
    exact ⟨t, ht, by rw [hx]; decide +kernel⟩
  · obtain ⟨t, ht, hx, -⟩ := hr1.2.1 (by decide +kernel)
    exact ⟨t, ht, by rw [hx]; decide +kernel⟩
  · obtain ⟨t, ht, hx, -⟩ := ((h.1 resident 8 4 0xA0000 (by decide +kernel)).1 (accAt rowed 0xA0000) row0 (by decide +kernel) (by decide) (fun e n => by
      rw [show (accAt rowed 0xA0000).place = .core 256 by decide +kernel]; exact Place.noConfusion) (by decide +kernel)).2.2 0
      ⟨row0.frow, true, false, false, 0⟩ (by decide +kernel) (by decide +kernel)
    exact ⟨t, ht, by rw [hx]; decide +kernel⟩
  · obtain ⟨t, ht, hx, -⟩ := hr.2.1
    exact ⟨t, ht, by rw [hx]; dsimp only; decide +kernel⟩
  · exact ⟨_, (h.1 checking 8 11 0x30010 (by decide +kernel)).2.2 (accAt base 0x30010) (by decide +kernel) (by decide +kernel) (by decide +kernel)
      (by decide +kernel), by decide +kernel⟩
  · exact ⟨_, h.2.1 (having (inState 4 .empty)) 4 (by decide) (by decide +kernel) (.inl (by decide +kernel)), by decide +kernel⟩
  · have e := h.2.2.1 (wide (holding [(5, 0x40000)])) 8 5 0x40000 (accAt base 0x40000) 9 0
    iterate 7 specialize e (by decide +kernel)
    obtain ⟨t, ht, hx, -⟩ := e ⟨by decide +kernel, by decide +kernel, fun _ => by decide +kernel, by decide⟩
    exact ⟨t, ht, hx⟩
  · obtain ⟨t, ht, -, -, -, hx⟩ := h.2.2.2 leaping 9 2 _ (by decide) rfl rfl rfl (by decide +kernel) (by decide +kernel)
    exact ⟨t, ht, congrArg Strand.pc hx, by rw [hx]; dsimp only; decide +kernel⟩

/-- The sixteen doublewords of a watchpoint on eight bytes at 0x30200, laid out at 0x30080. -/
def watching : State := (given [(4, 0x30080), (5, 0)]).homePut (pad + 0x80) (natLe 0x30200 8 ++ natLe 8 8)

def watchWords : List Word := [0x30200, 8, 0, 0, 0, 0, 0, 0, 0, 0, 0, 0, 0, 0, 0, 0]

/-- Words of a block at the strand's own core, checked one by one. -/
theorem reads_all {s : State} {va : Word} {w : Nat → Word} {n : Nat} (h : ∀ i < n, let v := va + BitVec.ofNat 64 (8 * i); let a := accAt s v
    s.reaches v 8 .load a = true ∧ a.place = .core s.cur.1 ∧ s.uncovered a.pa 8 = true ∧ s.homeRead a.pa 8 = some (natLe (w i).toNat 8)) :
    ∀ i, i < n → reads8 s (va + BitVec.ofNat 64 (8 * i)) (w i) := fun i hi => ⟨_, h i hi⟩

theorem test_meets_WatchpointsAreSetAndCleared (h : Obligations.WatchpointsAreSetAndCleared) :
    (∃ t w, exec (.wpset 8 4) watching = .next t ∧ tget (t.die 0).wps 0 = some w ∧ w.lo = pad + 0x200 ∧ w.len = 8) ∧
    ∃ t, exec (.wpclr 5) (watching.modDie 0 fun d => { d with wps := [(0, ⟨probeLaunch.key, 0, 0, 8, 0, 0, 0, false, plainRec 0 [] 0, true, false⟩)] }) =
      .next t ∧ t.self.pc = 0x10004 := by
  refine ⟨?_, ?_⟩
  · have hr := reads_all (s := watching) (va := 0x30080) (w := fun i => watchWords.getD i 0) (n := 16) (by decide +kernel)
    have e := h.1 watching 8 4 0x30080 (fun i => watchWords.getD i 0) (accAt base 0x30200) 0 0 (by decide +kernel) (by decide) hr
    iterate 21 specialize e (by decide +kernel)
    obtain ⟨t, p, ht, -, -, hw, -, -, hlo, hlen, -⟩ := e
    exact ⟨t, p, ht, hw, hlo.trans (by decide +kernel), hlen⟩
  · obtain ⟨t, ht, hx, -⟩ := h.2 (watching.modDie 0 fun d => { d with
        wps := [(0, ⟨probeLaunch.key, 0, 0, 8, 0, 0, 0, false, plainRec 0 [] 0, true, false⟩)] }) 5 0 _ (by decide +kernel) (by decide) rfl
        (by decide +kernel) (by decide +kernel) (by decide +kernel)
    exact ⟨t, ht, by rw [hx]; decide +kernel⟩

/-! Strands, messages, registers and joins -/

/-- A fill address: g register 8 of slot 3, generation 1, of core 9. -/
def fillAddr : Word := w64 (8 * 2 ^ 34 + 9 * 2 ^ 12 + 3 * 2 ^ 8 + 1)

/-- The launch of `wide` with operands: a start address, core 9, and a fill address. -/
def sending : State := wide (holding [(4, 0x12340), (5, 9), (6, 0), (7, fillAddr)])

/-- Four operations of the strand to core 9 that it has not accepted. -/
def crowded : State :=
  { sending with posted := List.replicate 4 ⟨0, 0, sending.self.gen, probeLaunch.key, .msg (plainRec 0 [] probeLaunch.key) 9 2⟩ }

theorem sendingMine (s : State) (h : s.launchOf s.cur.1 = some { probeLaunch with logn := 4 }) : mine s 9 := ⟨by decide, _, h, by decide⟩

theorem sendingFill (s : State) (h : s.launchOf s.cur.1 = some { probeLaunch with logn := 4 }) (hd : s.devid = 0) : fillOk s fillAddr :=
  ⟨by decide, by decide, by rw [hd]; decide, _, h, by decide⟩

theorem test_meets_PostedFormsArePlaced (h : Obligations.PostedFormsArePlaced) :
    (∃ t, exec (.msg 4 5) sending = .next t ∧ t.posted.map (·.op) =
      [.msg (plainRec 0x12340 [0x12340, 9, 0, fillAddr] probeLaunch.key) 9 2]) ∧
    (∃ t, exec (.spawnq 4 5 0) sending = .next t ∧ t.self.tbm = 2) ∧
    (∃ t, exec (.msg 4 5) crowded = .next t ∧ t.self.st = .parked (.path 9)) ∧
    (∃ t, exec (.fill 0 7 5) sending = .next t ∧ t.posted.length = 1) ∧
    ∃ t, exec (.fill 8 7 5) sending = .next t ∧ t.posted.length = 1 := by
  have f (s : State) (a : BitVec 5) := h s (rgOf s) a 5 0
  have hs := (f sending 4 (by decide +kernel) (by decide +kernel) (by decide +kernel)).1 (by decide +kernel) (by unfold payloadPlain; decide +kernel)
    (by rw [show rgOf sending 5 = 9 by decide +kernel]; exact sendingMine _ (by decide +kernel))
    ⟨by decide +kernel, by decide +kernel, fun h => absurd h (by decide +kernel), fun h => absurd h (by decide +kernel)⟩
  have hf := (f sending 7 (by decide +kernel) (by decide +kernel) (by decide +kernel)).2
    (by rw [show rgOf sending 7 = fillAddr by decide +kernel]; exact sendingFill _ (by decide +kernel) (by decide +kernel))
    ⟨by decide +kernel, by decide +kernel, fun h => absurd h (by decide +kernel), fun h => absurd h (by decide +kernel)⟩ (by decide +kernel)
  refine ⟨?_, ?_, ?_, ?_, ?_⟩
  · obtain ⟨t, ht, -, -, hp, -⟩ := hs.1 (by decide +kernel)
    exact ⟨t, ht, by rw [hp]; decide +kernel⟩
  · obtain ⟨t, ht, -, -, -, hx⟩ := hs.2.1 (by decide +kernel) (by decide +kernel) (by decide +kernel)
      ⟨by decide +kernel, by decide +kernel, fun h => absurd h (by decide +kernel), fun h => absurd h (by decide +kernel)⟩
    exact ⟨t, ht, by rw [hx]; decide +kernel⟩
  · exact ⟨_, ((f crowded 4 (by decide +kernel) (by decide +kernel) (by decide +kernel)).1 (by decide +kernel) (by unfold payloadPlain; decide +kernel)
      (by rw [show rgOf crowded 5 = 9 by decide +kernel]; exact sendingMine _ (by decide +kernel))
      ⟨by decide +kernel, by decide +kernel, fun h => absurd h (by decide +kernel), fun h => absurd h (by decide +kernel)⟩).2.2 (by decide +kernel),
      by decide +kernel⟩
  · obtain ⟨t, rep, ht, -, -, hp, -⟩ := hf 0 (by decide +kernel)
    exact ⟨t, ht, by rw [hp, List.length_append, show sending.posted = [] by decide +kernel]; rfl⟩
  · obtain ⟨t, rep, ht, -, -, hp, -⟩ := hf 8 (by decide +kernel)
    exact ⟨t, ht, by rw [hp, List.length_append, show sending.posted = [] by decide +kernel]; rfl⟩

/-- Operations arriving at core 9. -/
def arriving (op : PostedOp) : State := { wide id with posted := [⟨0, 0, 1, probeLaunch.key, op⟩] }

/-- A SPAWNQ of core 0's slot 0 that waits for room at core 9. -/
def owed (s : State) : State := { s with pushes := [⟨9, plainRec 0x12340 [] probeLaunch.key, none, true, some (0, 0, 1)⟩] }

/-- Core 9 with a message, and slot 3 with an EMPTY register 8. -/
def messaged (m : Msg) : State :=
  (wide id).modCore 9 fun k => { k with msgs := [m], slots := vset k.slots 3 { inState 8 .empty (vget k.slots 3) with st := .ready, gen := 1 } }

theorem runs_of {s : State} {c : Nat} {key : BitVec 24} (h : (decide ((s.core c).launch = some key) &&
    match tget s.launches key.toNat with | some q => decide (q.abort = none) | none => false) = true) : runsOn s c key := by
  simp only [Bool.and_eq_true, decide_eq_true_eq] at h
  refine ⟨h.1, ?_⟩
  have h2 := h.2
  split at h2
  · exact ⟨_, ‹_›, of_decide_eq_true h2⟩
  · cases h2

theorem test_meets_PostedOperationsArrive (h : Obligations.PostedOperationsArrive) :
    (∃ t, exec (.postedAccept 0) (arriving (.msg (plainRec 0x12340 [] probeLaunch.key) 9 2)) = .next t ∧ (t.core 9).msgs.length = 1) ∧
    (∃ t, exec (.postedAccept 0) (arriving (.fill 9 3 1 0 8 77 2 none)) = .next t ∧ (t.core 9).msgs = [.fill 3 1 0 8 77 2 none]) ∧
    (∃ t, exec (.messageStart 9) (messaged (.msg (plainRec 0x12340 [] probeLaunch.key) 2)) = .next t ∧ (t.strand 9 0).pc = 0x12340) ∧
    (∃ t, exec (.fillDelivery 9 0) (messaged (.fill 3 1 0 8 77 2 none)) = .next t ∧ vget (t.strand 9 3).g 8 = ⟨77, .full, some 2⟩) ∧
    exec (.postedAccept 0) (owed (arriving (.msg (plainRec 0x12340 [] probeLaunch.key) 9 2))) =
      .next (owed (arriving (.msg (plainRec 0x12340 [] probeLaunch.key) 9 2))) := by
  refine ⟨?_, ?_, ?_, ?_, (h.2.2.2 (owed (arriving (.msg (plainRec 0x12340 [] probeLaunch.key) 9 2))) _ [] _ rfl (by decide) (List.mem_singleton.mpr rfl)
    rfl).1 _ _ rfl⟩
  · obtain ⟨t, ht, -, hm, -⟩ := (h.1 (arriving (.msg (plainRec 0x12340 [] probeLaunch.key) 9 2)) _ [] 9 rfl (runs_of (by decide +kernel)) (by decide +kernel)
      fun q hq => nomatch hq).1 _ _ rfl
    exact ⟨t, ht, by rw [hm]; decide +kernel⟩
  · obtain ⟨t, ht, -, hm, -⟩ := (h.1 (arriving (.fill 9 3 1 0 8 77 2 none)) _ [] 9 rfl (runs_of (by decide +kernel)) (by decide +kernel)
      fun q hq => nomatch hq).2 _ _ _ _ _ _ _ rfl
    exact ⟨t, ht, by rw [hm]; decide +kernel⟩
  · obtain ⟨t, ht, -, -, hx, -⟩ := h.2.1 (messaged (.msg (plainRec 0x12340 [] probeLaunch.key) 2)) 9 0 2 _ [] _ rfl (by decide +kernel)
      (show _ = some { probeLaunch with logn := 4 } by decide +kernel) (by decide +kernel) (by decide +kernel)
    exact ⟨t, ht, by rw [hx]; decide +kernel⟩
  · obtain ⟨t, ht, -, -, hx⟩ := h.2.2.1 (messaged (.fill 3 1 0 8 77 2 none)) 9 3 8 2 1 77 [] rfl (by decide +kernel) (by decide) (by decide)
      (.inl (by decide +kernel)) (fun x hx => absurd (hx.symm.trans (show _ = none by decide +kernel)) nofun) (by decide +kernel)
    exact ⟨t, ht, by rw [hx]; decide +kernel⟩

def spawning : State := given [(4, 0x12340), (5, 0), (6, 0)]

/-- Every slot of core 0 in use. -/
def noSlot : State :=
  spawning.modCore 0 fun k => { k with slots := vset (k.slots.map fun x => { x with st := .ready }) 0 (vget k.slots 0) }

theorem test_meets_StrandsAreCreatedAndQuit (h : Obligations.StrandsAreCreatedAndQuit) :
    (∃ t, exec (.spawn 8 4 5) spawning = .next t ∧ (t.strand 0 1).pc = 0x12340) ∧
    (∃ t, exec (.spawn 8 4 5) noSlot = .next t ∧ (vget t.self.g 8).val = BitVec.allOnes 64) ∧
    (∃ t, exec (.fork 4 6) spawning = .next t ∧ t.selfCore.deque.length = 1) ∧
    (∃ t, exec .quit spawning = .next t ∧ t.self.st = .free) ∧
    ∃ t, exec .quit (having (storing full8)) = .next t ∧ t.self.st = .parked .fifoEmpty := by
  have f (s : State) (q : Launch) := h.1 s (rgOf s) 8 4 5 6 q
  have hs := f spawning probeLaunch (by decide +kernel) (by decide +kernel) (by decide +kernel) (by decide +kernel) (by unfold payloadPlain; decide +kernel)
  iterate 7 specialize hs (by decide +kernel)
  refine ⟨?_, ?_, ?_, ?_, ⟨_, (h.2 (having (storing full8))).2 (by decide +kernel), by decide +kernel⟩⟩
  · obtain ⟨t, ht, hx, -⟩ := hs.1 1 (by decide +kernel) (by decide +kernel)
    exact ⟨t, ht, by rw [show spawning.cur.1 = 0 by decide +kernel] at hx; rw [hx]; decide +kernel⟩
  · have e := f noSlot probeLaunch (by decide +kernel) (by decide +kernel) (by decide +kernel) (by decide +kernel) (by unfold payloadPlain; decide +kernel)
    iterate 7 specialize e (by decide +kernel)
    obtain ⟨t, ht, hx, -⟩ := e.2.1 (by decide +kernel)
    exact ⟨t, ht, by rw [hx]; decide +kernel⟩
  · obtain ⟨t, ht, hd, -⟩ := hs.2.2 (by decide +kernel)
      ⟨by decide +kernel, by decide +kernel, fun h => absurd h (by decide +kernel), fun h => absurd h (by decide +kernel)⟩ (by decide +kernel)
      (by decide +kernel) _ (.inl rfl)
    exact ⟨t, ht, by rw [hd, List.length_cons, show spawning.selfCore.deque = [] by decide +kernel]; rfl⟩
  · obtain ⟨t, ht, -, -, -, hx, -⟩ := (h.2 spawning).1 (by decide +kernel)
    exact ⟨t, ht, hx⟩

theorem test_meets_RegisterStatesAreHandled (h : Obligations.RegisterStatesAreHandled) :
    (∃ t, exec (.empty 4 0) spawning = .next t ∧ (vget t.self.g 4).st = .empty) ∧
    (∃ t, exec (.take 8 4 0) spawning = .next t ∧ (vget t.self.g 8).val = 0x12340 ∧ (vget t.self.g 4).st = .empty) ∧
    (∃ t, exec (.rstate 8 4 0) (having (inState 4 .empty)) = .next t ∧ (vget t.self.g 8).val = 1) ∧
    (∃ t, exec (.await 8 4) (given [(4, 0x30)]) = .next t ∧ (vget t.self.g 8).val = 0x30) ∧
    (∃ t, exec (.await 8 4) (having (inState 5 .empty ∘ holding [(4, 0x20)])) = .next t ∧ t.self.st = .parked (.await 0x20)) ∧
    (∃ t, exec (.ftest 8 4) (having (inState 4 .empty)) = .next t ∧ (vget t.self.g 8).val = BitVec.allOnes 64) ∧
    ∃ t, exec (.fcancel 4) spawning = .next t ∧ t.self.pc = 0x10004 := by
  have f (s : State) (k : BitVec 2) (hk : k.toNat < 3) (h2 : k ≠ 2) := h s 8 4 k hk (.inl h2) (.inl h2)
  exact ⟨⟨_, (h spawning 4 4 0 (by decide) (.inl (by decide)) (.inl (by decide))).1 (by decide +kernel), by decide +kernel⟩,
    ⟨_, ((f spawning 0 (by decide) (by decide)).2.1 (by decide +kernel) (by decide +kernel)).1 0x12340 rfl (by decide +kernel), by decide +kernel⟩,
    ⟨_, (f (having (inState 4 .empty)) 0 (by decide) (by decide)).2.2.1 (by decide +kernel), by decide +kernel⟩,
    ⟨_, ((f (given [(4, 0x30)]) 0 (by decide) (by decide)).2.2.2.1 0x30 (by decide +kernel) (by decide +kernel) (by decide +kernel)).2.1 (by decide +kernel),
      by decide +kernel⟩,
    ⟨_, ((f (having (inState 5 .empty ∘ holding [(4, 0x20)])) 0 (by decide) (by decide)).2.2.2.1 0x20 (by decide +kernel) (by decide +kernel)
      (by decide +kernel)).2.2 (by decide) (by decide +kernel), by decide +kernel⟩,
    ⟨_, ((f (having (inState 4 .empty)) 0 (by decide) (by decide)).2.2.2.2.1 (by decide +kernel) (by decide +kernel)).2 (by decide)
      (.inl (by decide +kernel)), by decide +kernel⟩,
    ⟨_, (f spawning 0 (by decide) (by decide)).2.2.2.2.2 (.inr fun t => by
      rw [show (vget spawning.self.g (4 : BitVec 5).toNat).st = .full by decide +kernel]; exact RState.noConfusion), by decide +kernel⟩⟩

/-- `sending` with g4 PENDING on a handle. -/
def handled : State := sending.become (inState 4 (.pending 0x123 false) sending.self)

theorem test_meets_HandlesAndGroupsAct (h : Obligations.HandlesAndGroupsAct) :
    (∃ t, exec (.fcancel 4) handled = .next t ∧ t.self.pc = 0x10004) ∧
    (∃ t, exec (.fwd 0 4 7) sending = .next t ∧ t.posted.length = 1) ∧
    (∃ t, exec (.fwd 0 4 7) handled = .next t ∧ (vget t.self.g 4).st = .dead) ∧
    (∃ t, exec (.fwd 0 4 7) (handled.become (storing full8 handled.self)) = .next t ∧ t.self.hold = some (0x123, 4)) ∧
    ∃ t, exec (.pipe 8 4) (given [(4, 1)]) = .next t ∧ t.selfCore.pipes.map (·.mask) = [1] := by
  refine ⟨?_, ?_, ?_, ⟨_, (h.1 (handled.become (storing full8 handled.self)) 4 7 fillAddr 0x123 (by decide)).2.2 (by decide +kernel)
    (sendingFill _ (by decide +kernel) (by decide +kernel)) (by decide) (by decide +kernel) (by decide +kernel) (by decide +kernel)
    (by decide +kernel), by decide +kernel⟩, ?_⟩
  · obtain ⟨t, ht, hx, -⟩ := (h.1 handled 4 7 fillAddr 0x123 (by decide)).1 (by decide +kernel)
    exact ⟨t, ht, by rw [hx]; decide +kernel⟩
  · obtain ⟨t, ht, -, hp, -⟩ := ((h.1 sending 4 7 fillAddr 0 (by decide)).2.1 (by decide +kernel) (sendingFill _ (by decide +kernel) (by decide +kernel))
      (by decide) (by decide +kernel) ⟨by decide +kernel, by decide +kernel, fun h => absurd h (by decide +kernel), fun h => absurd h (by decide +kernel)⟩
      (by decide +kernel)).1 0x12340 (by decide +kernel) (by decide +kernel)
    exact ⟨t, ht, by rw [hp, List.length_append, show sending.posted = [] by decide +kernel]; rfl⟩
  · obtain ⟨t, ht, -, hg, -⟩ := ((h.1 handled 4 7 fillAddr 0x123 (by decide)).2.1 (by decide +kernel) (sendingFill _ (by decide +kernel) (by decide +kernel))
      (by decide) (by decide +kernel) ⟨by decide +kernel, by decide +kernel, fun h => absurd h (by decide +kernel), fun h => absurd h (by decide +kernel)⟩
      (by decide +kernel)).2 (.inl ⟨by decide +kernel, by decide +kernel⟩) (by decide +kernel)
    exact ⟨t, ht, hg⟩
  · have e := h.2 (given [(4, 1)]) 8 4 1
    iterate 7 specialize e (by decide +kernel)
    obtain ⟨t, ht, -, -, -, -, hp⟩ := e
    exact ⟨t, ht, by rw [hp]; decide +kernel⟩

/-- A record of two operands at 0x30400 with a state, a PMASK, a WMASK and producer words, and operands in registers. -/
def record (st p w : Nat) (pw : List Nat) : Join := ⟨w * 2 ^ 52 + p * 2 ^ 44 + st * 2 ^ 42 + 2 ^ 38, [0, 30, 0, 0], 0x12340, pw⟩

def joined (j : Join) : State :=
  (given [(4, 0x30400), (5, 0x40), (6, 0x12340), (7, 0x400), (9, w64 (2 ^ 36)), (10, 12)]).homePut (pad + 0x400) j.bytes

/-- `joinAt`, for records and places that can be compared. -/
theorem joinAt_of {s : State} {pa h : Nat} {j : Join} (e : s.canonical = true ∧ s.joinHome pa = some h ∧ s.upToDate h = true ∧
    s.getJoin pa = some j ∧ j.malformed = false) : joinAt s pa h j := e

theorem test_meets_JoinFormsActOnTheirRecord (h : Obligations.JoinFormsActOnTheirRecord) :
    (∃ t, exec (.jnew 8 4 5 6) (joined ⟨0, [0, 0, 0, 0], 0, [0, 0, 0, 0]⟩) = .next t ∧ (vget t.self.g 8).val = 0x400) ∧
    (∃ t, exec (.jnew 8 4 5 6) (joined (record 1 0 0 [0, 0, 0, 0])) = .next t ∧ (vget t.self.g 8).val = BitVec.allOnes 64) ∧
    (∃ t, exec (.jreg 8 7 9 0) (joined (record 1 0 0 [0, 0, 0, 0])) = .next t ∧ (vget t.self.g 8).val = w64 (pad + 0x404)) ∧
    (∃ t, exec (.jval 8 7 10 0) (joined (record 1 0 0 [0, 0, 0, 0])) = .next t ∧ (vget t.self.g 8).val = 0) ∧
    (∃ t, exec (.jval 8 7 10 0) (joined (record 2 0 3 [0, 0, 0, 0])) = .next t ∧ (vget t.self.g 8).val = 2) ∧
    (∃ t, exec (.jval 8 7 10 0) (joined (record 1 2 0 [0, 0, 0, 0])) = .next t ∧ (vget t.self.g 8).val = 1) ∧
    (∃ t, exec (.jdrop 8 7 0) (joined (record 1 0 0 [2 ^ 29, 0, 0, 0])) = .next t ∧ (vget t.self.g 8).val = 0) ∧
    (∃ t, exec (.jdrop 8 7 0) (joined (record 1 0 0 [0, 0, 0, 0])) = .next t ∧ (vget t.self.g 8).val = 5) ∧
    (∃ t, exec (.wchk 8 7 1) (joined (record 1 2 0 [0, 0, 0, 0])) = .next t ∧ (vget t.self.g 8).val = 4) ∧
    (∃ t, exec (.wchk 8 7 1) (joined (record 2 0 2 [0, 0, 0, 0])) = .next t ∧ (vget t.self.g 8).val = 1) ∧
    (∃ t, exec (.wchk 8 7 1) (joined (record 1 0 0 [0, 0, 0, 0])) = .next t ∧ (vget t.self.g 8).val = 0) ∧
    (∃ t, exec (.jfree 8 7) (joined (record 1 0 0 [2 ^ 29, 0, 0, 0])) = .next t ∧ (vget t.self.g 8).val = 1) ∧
    ∃ t, exec (.jfree 8 7) (joined (record 1 0 0 [2 ^ 30, 0, 0, 0])) = .next t ∧ t.self.pc = 0x10004 := by
  have f (j : Join) (hr : (joined j).readsG 7 0x400 = true ∧ (joined j).port 8 = false)
      (hj : joinAt (joined j) (joinPa (joined j).devid 0x400) (joined j).cur.1 j) := h.2 (joined j) 8 7 0x400 j hr.1 hr.2 ⟨by decide, by decide⟩ hj
  have n (j : Join) (hr : (joined j).readsG 4 0x30400 = true ∧ (joined j).readsG 5 0x40 = true ∧ (joined j).readsG 6 0x12340 = true ∧ (joined j).port 8 = false)
      (hm : (joined j).maps 0x30400 1 .store (accAt base 0x30400) = true) (hl : (joined j).launchOf (joined j).cur.1 = some probeLaunch)
      (hh : probeLaunch.holds (joined j).cur.1 = true) (hj : joinAt (joined j) (accAt base 0x30400).pa (joined j).cur.1 j) :=
    h.1 (joined j) (fun n => if n = 4 then 0x30400 else if n = 5 then 0x40 else 0x12340) 8 4 5 6 (accAt base 0x30400) probeLaunch j hr.1 hr.2.1 hr.2.2.1
      hr.2.2.2 (by decide) hm hj hl hh (by decide) (by decide) (by decide)
  have g0 := f (record 1 0 0 [0, 0, 0, 0]) (by decide +kernel) (joinAt_of (by decide +kernel))
  have g2 := f (record 1 2 0 [0, 0, 0, 0]) (by decide +kernel) (joinAt_of (by decide +kernel))
  refine ⟨?_, ?_, ?_, ?_, ?_, ?_, ?_, ?_, ?_, ?_, ?_, ?_, ?_⟩
  · obtain ⟨t, ht, hx, -⟩ := n ⟨0, [0, 0, 0, 0], 0, [0, 0, 0, 0]⟩ (by decide +kernel) (by decide +kernel) (by decide +kernel) (by decide +kernel)
      (joinAt_of (by decide +kernel)) _ _ rfl
    exact ⟨t, ht, by rw [hx]; decide +kernel⟩
  · obtain ⟨t, ht, hx, -⟩ := n (record 1 0 0 [0, 0, 0, 0]) (by decide +kernel) (by decide +kernel) (by decide +kernel) (by decide +kernel)
      (joinAt_of (by decide +kernel)) _ _ rfl
    exact ⟨t, ht, by rw [hx]; decide +kernel⟩
  · obtain ⟨t, ht, hx, -⟩ := g0.1 9 (w64 (2 ^ 36)) (by decide +kernel) (by decide) (.inl (by decide)) _ _ rfl
    exact ⟨t, ht, by rw [hx]; decide +kernel⟩
  · obtain ⟨t, ht, hx, -⟩ := g0.2.1 10 12 0 (by decide +kernel) ⟨by decide +kernel, by decide +kernel, fun h => absurd h (by decide), fun h => absurd h (by decide)⟩ _ _ rfl
    exact ⟨t, ht, by rw [hx]; decide +kernel⟩
  · obtain ⟨t, ht, hx, -⟩ := (f (record 2 0 3 [0, 0, 0, 0]) (by decide +kernel) (joinAt_of (by decide +kernel))).2.1 10 12 0 (by decide +kernel)
      ⟨by decide +kernel, by decide +kernel, fun h => absurd h (by decide), fun h => absurd h (by decide)⟩ _ _ rfl
    exact ⟨t, ht, by rw [hx]; decide +kernel⟩
  · obtain ⟨t, ht, hx, -⟩ := (g2.2.2.2.2 (by decide) (by decide)).2 10 12 0 (by decide +kernel)
      ⟨by decide +kernel, by decide +kernel, fun h => absurd h (by decide), fun h => absurd h (by decide)⟩ (by decide) (by decide) (by decide) (by decide)
      (by decide) (by decide) (by decide +kernel) (by decide +kernel) (fun q hq => by
        rw [show (joined (record 1 2 0 [0, 0, 0, 0])).launchOf _ = some probeLaunch by decide +kernel] at hq; cases hq; rfl)
    exact ⟨t, ht, by rw [hx]; decide +kernel⟩
  · obtain ⟨t, ht, hx, -⟩ := ((f (record 1 0 0 [2 ^ 29, 0, 0, 0]) (by decide +kernel) (joinAt_of (by decide +kernel))).2.2.1 0).1 _ _ rfl
    exact ⟨t, ht, by rw [hx]; decide +kernel⟩
  · obtain ⟨t, ht, hx, -⟩ := (g0.2.2.1 0).1 _ _ rfl
    exact ⟨t, ht, by rw [hx]; decide +kernel⟩
  · obtain ⟨t, ht, hx, -⟩ := (g2.2.2.1 1).2 _ _ rfl
    exact ⟨t, ht, by rw [hx]; decide +kernel⟩
  · obtain ⟨t, ht, hx, -⟩ := ((f (record 2 0 2 [0, 0, 0, 0]) (by decide +kernel) (joinAt_of (by decide +kernel))).2.2.1 1).2 _ _ rfl
    exact ⟨t, ht, by rw [hx]; decide +kernel⟩
  · obtain ⟨t, ht, hx, -⟩ := (g0.2.2.1 1).2 _ _ rfl
    exact ⟨t, ht, by rw [hx]; decide +kernel⟩
  · obtain ⟨t, ht, hx, -⟩ := (f (record 1 0 0 [2 ^ 29, 0, 0, 0]) (by decide +kernel) (joinAt_of (by decide +kernel))).2.2.2.1 _ _ rfl
    exact ⟨t, ht, by rw [hx]; decide +kernel⟩
  · obtain ⟨t, v, ht, -, -, hx⟩ := ((f (record 1 0 0 [2 ^ 30, 0, 0, 0]) (by decide +kernel) (joinAt_of (by decide +kernel))).2.2.2.2 (by decide) (by decide)).1
    exact ⟨t, ht, by rw [hx]; decide +kernel⟩

/-- A record at its home, with slot 0 of core 0 awaiting an answer. -/
def awaiting : State := (joined (record 1 0 0 [0, 0, 0, 0])).become { base.self with st := .parked .answer }

/-- A WCHK carried for slot 0 of core 0. -/
def checkReq : JoinReq := ⟨0, 0, awaiting.self.gen, 8, 0x400, pad + 0x400, .chk 0, true, probeLaunch.key⟩

/-- A record whose first producer is a strand that had another identity, and the event that tells the join its place. -/
def moved : State := { joined (record 1 0 0 [2 ^ 30 + 5, 0, 0, 0]) with
  joins := [⟨0, 0, base.self.gen, 0, 0x400, pad + 0x400, .rereg 5 (whoStrand 0 0 base.self.gen), false, probeLaunch.key⟩] }

theorem test_meets_AnswersAndNoticesArrive (h : Obligations.AnswersAndNoticesArrive) :
    (∃ t, exec (.joinEvent 0) { awaiting with joins := [checkReq] } = .next t ∧
      (t.strand 0 0).pc = 0x10004) ∧
    (∃ t, exec (.joinReregistration 0 0) moved = .next t ∧ (t.getJoin (pad + 0x400)).map (fun j => j.who 0) = some (whoStrand 0 0 1)) ∧
    (∃ t, exec (.withdrawalNotice 0) { base with notices := [⟨0, 0, base.self.gen, pad + 0x400, 1, probeLaunch.key⟩] } = .next t ∧ t.notices = []) ∧
    (∃ t, exec (.spawnRequest 0) { (wide fun x => { x with st := .parked .answer }) with
        spawns := [⟨0, 0, base.self.gen, 8, 9, plainRec 0x12340 [] probeLaunch.key, 2⟩] } = .next t ∧ (t.strand 9 0).pc = 0x12340) ∧
    ∃ t, exec (.completionDelivery 0) { (having (inState 8 (.pending 0x123 false))) with
        comps := [⟨0, 0, base.self.gen, 8, 0x123, 77, some 2, probeLaunch.key⟩] } = .next t ∧ vget (t.strand 0 0).g 8 = ⟨77, .full, some 2⟩ := by
  refine ⟨?_, ?_, ?_, ?_, ?_⟩
  · obtain ⟨t, ht, -, -, hx⟩ := h.1 { awaiting with joins := [checkReq] } checkReq [] 0 (record 1 0 0 [0, 0, 0, 0]) _ _ rfl rfl (by decide +kernel)
      (joinAt_of (by decide +kernel)) rfl (by decide +kernel) (by decide)
    exact ⟨t, ht, by rw [show checkReq.core = 0 from rfl, show checkReq.slot = 0 from rfl] at hx; rw [hx]; decide +kernel⟩
  · obtain ⟨t, ht, -, hj, -⟩ := h.2.1 moved _ [] 0 0 5 0 (record 1 0 0 [2 ^ 30 + 5, 0, 0, 0]) rfl (by decide) (by decide) (by decide +kernel)
      (by decide +kernel) (joinAt_of (by decide +kernel))
    exact ⟨t, ht, by rw [hj]; decide +kernel⟩
  · obtain ⟨t, ht, hn, -⟩ := h.2.2.1 { base with notices := [⟨0, 0, base.self.gen, pad + 0x400, 1, probeLaunch.key⟩] } _ [] rfl
      (runs_of (by decide +kernel)) (by decide +kernel)
    exact ⟨t, ht, hn⟩
  · obtain ⟨t, ht, -, -, hx, -⟩ := h.2.2.2.1 { (wide fun x => { x with st := .parked .answer }) with
        spawns := [⟨0, 0, base.self.gen, 8, 9, plainRec 0x12340 [] probeLaunch.key, 2⟩] } _ [] { probeLaunch with logn := 4 } 0 rfl
        (runs_of (by decide +kernel)) (by decide +kernel) (by decide +kernel) (by decide +kernel) (by decide) (by decide)
    exact ⟨t, ht, by dsimp only at hx; rw [hx]; decide +kernel⟩
  · obtain ⟨t, ht, -, -, hx⟩ := h.2.2.2.2 { (having (inState 8 (.pending 0x123 false))) with
        comps := [⟨0, 0, base.self.gen, 8, 0x123, 77, some 2, probeLaunch.key⟩] } _ [] false rfl (runs_of (by decide +kernel)) (by decide +kernel)
        (by decide +kernel) (by decide +kernel)
    exact ⟨t, ht, by dsimp only at hx; rw [hx]; decide +kernel⟩

/-! Floating point, vectors and streams -/

/-- What the f and v registers of the performing strand hold. -/
def rfOf (s : State) (n : BitVec 5) : Word := (vget s.self.f n.toNat).val
def rvOf (s : State) (n : Nat) : VWord := (vget s.self.v n).val

/-- A strand with values in f and v registers, an s.efmt and an s.fcr. -/
def floating (fs : List (Nat × Word)) (vs : List (Nat × VWord)) (efmt fcr : Word) (x : Strand) : Strand :=
  { x with
    f := fs.foldl (fun r p => vset r p.1 (Reg.full p.2)) x.f
    v := vs.foldl (fun r p => vset r p.1 (Reg.full p.2)) x.v
    efmt := efmt, fcr := fcr }

theorem test_meets_RoundingPicksTheNeighbour (h : Obligations.RoundingPicksTheNeighbour) :
    ((roundAt 2 0 false 5 2 0 fun _ => true).1 : ℚ) * (2 : ℚ) ^ (0 : Int) ≥ (5 : Nat) / (2 : Nat) ∧
    (((roundAt 0 0 false 5 2 0 fun k => k % 2 == 0).1 : ℚ) = 2 ∧ ((roundAt 4 0 false 5 2 0 fun k => k % 2 == 0).1 : ℚ) = 3) ∧
    ((roundAt 0 0 false 7 2 0 fun k => k % 2 == 0).1 : ℚ) = 4 := by
  have a := (h 0 false 5 2 0 (fun _ => true) (by decide)).2.2.2.2.2
  have b := (h 0 false 5 2 0 (fun k => k % 2 == 0) (by decide)).2.2.2.2.1 2 (by norm_num)
  have c := (h 0 false 7 2 0 (fun k => k % 2 == 0) (by decide)).2.2.2.2.1 3 (by norm_num)
  refine ⟨by simpa using a.1, ⟨?_, ?_⟩, ?_⟩
  · exact b.1.trans (by norm_num)
  · exact b.2.trans (by norm_num)
  · exact c.1.trans (by norm_num)

/-- 1.0 and 1.5, with every trap disabled; and 1.0 and 3.0, with every trap enabled. -/
def summing : State := having (floating [(2, 0x3FF0000000000000), (3, 0x3FF8000000000000)] [] 0x802 0)
def trapping : State := having (floating [(2, 0x3FF0000000000000), (3, 0x4008000000000000)] [] 0x802 0x1F00)

theorem test_meets_ScalarFloatsRoundOnce (h : Obligations.ScalarFloatsRoundOnce) :
    (∃ t, exec (.fadd 1 2 3 0) summing = .next t ∧ (vget t.self.f 1).val = 0x4004000000000000) ∧
    ∃ t, exec (.fdiv 1 2 3 0) trapping = .next t ∧ t.self.cause = 0x10 ∧ vget t.self.f 1 = vget trapping.self.f 1 :=
  ⟨⟨_, (h summing (rgOf summing) (rfOf summing) (.fadd 1 2 3 0) _ rfl (by decide +kernel) (by decide +kernel) rfl).1 (by decide +kernel),
      by decide +kernel⟩,
   ⟨_, (h trapping (rgOf trapping) (rfOf trapping) (.fdiv 1 2 3 0) _ rfl (by decide +kernel) (by decide +kernel) rfl).2 (by decide +kernel)
      (by decide +kernel), by decide +kernel⟩⟩

/-- Lanes of eight bits. -/
def bytes8 : State := having (floating [] [(1, 0x80FF), (2, 0x0201)] 0x808 0 ∘ holding [(4, 33)])

theorem test_meets_LanesAreMoved (h : Obligations.LanesAreMoved) :
    (∃ t, exec (.vperm 3 1 2) bytes8 = .next t ∧ (vget t.self.v 3).val % 0x1000000 = 0xFF0080) ∧
    (∃ t, exec (.vextr 8 1 4) bytes8 = .next t ∧ (vget t.self.g 8).val = w64 (2 ^ 64 - 128)) ∧
    ∃ t, exec (.vzip 3 1 2 0) bytes8 = .next t ∧ (vget t.self.v 3).val = 0x028001FF :=
  ⟨⟨_, (h bytes8 (rgOf bytes8) (rvOf bytes8) (.vperm 3 1 2) _ rfl (by decide +kernel) (by decide +kernel) rfl).1 (by decide +kernel), by decide +kernel⟩,
   ⟨_, (h bytes8 (rgOf bytes8) (rvOf bytes8) (.vextr 8 1 4) _ rfl (by decide +kernel) (by decide +kernel) rfl).1 (by decide +kernel), by decide +kernel⟩,
   ⟨_, (h bytes8 (rgOf bytes8) (rvOf bytes8) (.vzip 3 1 2 0) _ rfl (by decide +kernel) (by decide +kernel) rfl).1 (by decide +kernel), by decide +kernel⟩⟩

/-- Lanes of binary32: 1.0 and 2.0 in lane 0. -/
def singles : State := having (floating [] [(1, 0x3F800000), (2, 0x40000000)] 0x802 0)

/-- An s.efmt whose primary descriptor is sc8. -/
def noLanes : State := having (floating [] [] 0x812 0)

theorem test_meets_LaneFormsWorkLaneByLane (h : Obligations.LaneFormsWorkLaneByLane) :
    (∃ t, exec (.vadd 3 1 2) singles = .next t ∧ (vget t.self.v 3).val = 0x40400000) ∧
    (∃ t, exec (.vredsum 8 1) bytes8 = .next t ∧ (vget t.self.g 8).val = w64 (2 ^ 64 - 129)) ∧
    (∃ t, exec (.vsqrt 3 1) bytes8 = .next t ∧ t.self.cause = 1) ∧
    (∃ t, exec (.vshl 3 1 2) singles = .next t ∧ t.self.cause = 1) ∧
    (∃ t, exec (.vfma 3 1 2 0) noLanes = .next t ∧ t.self.cause = 1) ∧
    (∃ t, exec (.vredmax 8 1) noLanes = .next t ∧ t.self.cause = 1) ∧
    ∃ t, exec (.vlog2 3 1) (having (floating [] [] 0x801 0)) = .next t ∧ t.self.cause = 1 := by
  refine ⟨⟨_, (h.1 singles (rvOf singles) (.vadd 3 1 2) _ rfl (by decide +kernel) (by decide +kernel) rfl).1 (by decide +kernel), by decide +kernel⟩,
    ⟨_, (h.1 bytes8 (rvOf bytes8) (.vredsum 8 1) _ rfl (by decide +kernel) (by decide +kernel) rfl).1 (by decide +kernel), by decide +kernel⟩,
    ⟨_, h.2 bytes8 (.vsqrt 3 1) _ (by decide +kernel) rfl (.inl ⟨rfl, fun f hf => ?_⟩), by decide +kernel⟩,
    ⟨_, h.2 singles (.vshl 3 1 2) _ (by decide +kernel) rfl (.inr (.inl ⟨rfl, fun n b hf => ?_⟩)), by decide +kernel⟩,
    ⟨_, h.2 noLanes (.vfma 3 1 2 0) _ (by decide +kernel) rfl (.inr (.inr (.inl ⟨rfl, by decide +kernel⟩))), by decide +kernel⟩,
    ⟨_, h.2 noLanes (.vredmax 8 1) _ (by decide +kernel) rfl (.inr (.inr (.inl ⟨rfl, by decide +kernel⟩))), by decide +kernel⟩,
    ⟨_, h.2 (having (floating [] [] 0x801 0)) (.vlog2 3 1) _ (by decide +kernel) rfl (.inr (.inr (.inr ⟨⟨3, 1, .inr rfl⟩, by decide +kernel⟩))),
      by decide +kernel⟩⟩
  · have : (match (primary bytes8.self.efmt).lanes with | some (.fl _) => true | _ => false) = false := by decide +kernel
    rw [hf] at this; cases this
  · have : (match (primary singles.self.efmt).lanes with | some (.int _ _) => true | _ => false) = false := by decide +kernel
    rw [hf] at this; cases this

/-- One entry of value 1.0 and index 7, and one of value 2.0 and index 9. -/
def merging : State := having (floating [(1, 0)] [(2, 0x3F800000), (3, 7), (4, 0x40000000), (5, 9)] 0x802 0)

/-- A binary16 1.0 in lane 8 of v2, widened to lane 0 by part 1; and a binary32 1.0 narrowed to lane 8, beside what lane 0 held. -/
def widening : State := having (floating [] [(2, 0x3C00 * 2 ^ 128)] 0xC02 0)
def narrowing : State := having (floating [] [(1, 0x1234), (2, 0x3F800000)] 0x803 0)

/-- Binary8 elements of precision 4 on both sides: 1.0 in element 0 of each, and scales of 2 and 1. -/
def scaled : State := having (floating [(1, 0x80808081)] [(1, 0), (2, 0x40), (3, 0x40)] 0x21485 0)

theorem test_meets_DotMergeAndConvert (h : Obligations.DotMergeAndConvert) :
    (∃ t, exec (.vmergek 0 2 4) merging = .next t ∧ (vget t.self.v 0).val % 2 ^ 64 = 0x3F80000040000000 ∧ (vget t.self.v 1).val % 2 ^ 64 = 0x700000009) ∧
    (∃ t, exec (.vcvt 1 2 0) merging = .next t ∧ (vget t.self.v 1).val = 0x3F800000) ∧
    (∃ t, exec (.vcvt 1 2 1) widening = .next t ∧ (vget t.self.v 1).val = 0x3F800000) ∧
    (∃ t, exec (.vcvt 1 2 1) narrowing = .next t ∧ (vget t.self.v 1).val = 0x1234 + 0x3C00 * 2 ^ 128) ∧
    (∃ t, exec (.vdot 1 3 5 1 8) merging = .next t ∧ (vget t.self.v 1).val = 63) ∧
    (∃ t, exec (.vdot 1 2 3 1 0) scaled = .next t ∧ (vget t.self.v 1).val = 0x40000000) ∧
    ∃ t, exec (.vdot 1 2 4 1 3) merging = .next t ∧ t.self.pc = 0x10004 :=
  ⟨⟨_, h.1 merging (rvOf merging) 0 2 (by decide) (by decide) 4 (by decide) (by decide +kernel) (by decide +kernel) (by decide +kernel) (by decide +kernel)
      (by decide +kernel) (by decide +kernel), by decide +kernel⟩,
   ⟨_, (h.2 merging (rfOf merging) (rvOf merging) (.vcvt 1 2 0) _ rfl (by decide +kernel) (by decide +kernel) rfl).1 (by decide +kernel), by decide +kernel⟩,
   ⟨_, (h.2 widening (rfOf widening) (rvOf widening) (.vcvt 1 2 1) _ rfl (by decide +kernel) (by decide +kernel) rfl).1 (by decide +kernel), by decide +kernel⟩,
   ⟨_, (h.2 narrowing (rfOf narrowing) (rvOf narrowing) (.vcvt 1 2 1) _ rfl (by decide +kernel) (by decide +kernel) rfl).1 (by decide +kernel), by decide +kernel⟩,
   ⟨_, (h.2 merging (rfOf merging) (rvOf merging) (.vdot 1 3 5 1 8) _ rfl (by decide +kernel) (by decide +kernel) rfl).1 (by decide +kernel), by decide +kernel⟩,
   ⟨_, (h.2 scaled (rfOf scaled) (rvOf scaled) (.vdot 1 2 3 1 0) _ rfl (by decide +kernel) (by decide +kernel) rfl).1 (by decide +kernel), by decide +kernel⟩,
   ⟨_, (h.2 merging (rfOf merging) (rvOf merging) (.vdot 1 2 4 1 3) _ rfl (by decide +kernel) (by decide +kernel) rfl).1 (by decide +kernel), by decide +kernel⟩⟩

/-- A stream of three doublewords at 0x30200, read, with a binding and a position. -/
def stream (wr : Bool) (b : Option (Nat × Nat)) (pos : BitVec 32) : Stream := ⟨0x30200, 8, 3, 1, wr, true, false, pos, b, [], none⟩

def streaming (wr : Bool) (b : Option (Nat × Nat)) (pos : BitVec 32) (st : RState) (v : Word) : State :=
  (having fun x => { holding [(4, 0x30100), (5, 77)] x with
    streams := vset x.streams 1 (stream wr b pos), f := vset x.f 2 ⟨v, st, none⟩ }).homePut (pad + 0x100)
      (natLe 0x30200 8 ++ natLe 8 8 ++ natLe 3 8 ++ natLe 0x100 8)

def configuring : State := streaming false none 0 .empty 0

theorem test_meets_StreamsFeedRegisters (h : Obligations.StreamsFeedRegisters) :
    (∃ t, exec (.scfg 4 3) configuring = .next t ∧ vget t.self.streams 3 = stream false none 0) ∧
    (∃ t, exec (.sbind 2 0 1) (streaming false none 0 .full 9) = .next t ∧ (vget t.self.f 2).st = .empty) ∧
    (∃ t, exec (.sunbind 2 0) (streaming false none 0 .full 9) = .next t ∧ (vget t.self.f 2).st = .full) ∧
    (∃ t, exec (.sunbind 2 0) (streaming false (some (1, 2)) 0 .empty 0) = .next t ∧ (vget t.self.f 2).st = .dead) ∧
    (∃ t, exec (.sstat 8 1) (streaming false (some (1, 2)) 2 .empty 0) = .next t ∧ (vget t.self.g 8).val = w64 (2 ^ 39 + 2 ^ 37 + 2 ^ 34 + 2)) ∧
    (∃ t, exec (.streamElementLoad 0 0 1) ((streaming false (some (1, 2)) 2 .empty 0).homePut (pad + 0x210) [5]) = .next t ∧
      vget (t.strand 0 0).f 2 = Reg.full 5) ∧
    (∃ t, exec (.fmvfg 8 2) (streaming false (some (1, 2)) 2 .full 9) = .next t ∧ (vget t.self.g 8).val = 9 ∧ (vget t.self.f 2).st = .dead) ∧
    ∃ t, exec (.fmvgf 2 5) (streaming true (some (1, 2)) 2 .empty 0) = .next t ∧ t.self.fifo.map (fun e => (e.va, e.data.headD 0)) = [(0x30210, 77)] := by
  refine ⟨?_, ⟨_, (h.2.1 (streaming false none 0 .full 9) 2 0 1).1 (by decide +kernel) (by decide +kernel) (by decide +kernel) (by decide +kernel)
      (by decide +kernel), by decide +kernel⟩,
    ⟨_, (h.2.1 (streaming false none 0 .full 9) 2 0 1).2.1 (by decide +kernel), by decide +kernel⟩,
    ⟨_, (h.2.1 (streaming false (some (1, 2)) 0 .empty 0) 2 0 1).2.2.1 1 (by decide +kernel), by decide +kernel⟩,
    ⟨_, (h.2.1 (streaming false (some (1, 2)) 2 .empty 0) 2 0 1).2.2.2 8 (by decide +kernel), by decide +kernel⟩, ?_,
    ⟨_, (h.2.2.2 (streaming false (some (1, 2)) 2 .full 9) 8 2 9 1).1 (by decide +kernel) (by decide +kernel) (by decide +kernel) (by decide +kernel),
      by decide +kernel⟩,
    ⟨_, (h.2.2.2 (streaming true (some (1, 2)) 2 .empty 0) 2 5 77 1).2 (accAt base 0x30210) (by decide +kernel) (by decide +kernel) (by decide +kernel)
      (by decide +kernel) (by decide +kernel) (by decide +kernel) (by decide +kernel), by decide +kernel⟩⟩
  · obtain ⟨u, hu, -, hx⟩ := h.1 configuring 4 3 0x30100 (fun i => [0x30200, 8, 3, 0x100].getD i 0) (stream false none 0) (by decide +kernel) (by decide)
      (reads_all (by decide +kernel)) (by decide +kernel) (by decide +kernel) (by decide +kernel)
    exact ⟨u, hu, by rw [hx]; dsimp only; decide +kernel⟩
  · have e := h.2.2.1 ((streaming false (some (1, 2)) 2 .empty 0).homePut (pad + 0x210) [5]) 0 0 1 2 (accAt base 0x30210) [5, 0, 0, 0, 0, 0, 0, 0]
    iterate 14 specialize e (by decide +kernel)
    obtain ⟨u, hu, -, hx⟩ := e
    exact ⟨u, hu, by rw [hx]; decide +kernel⟩

/-! Tiles, rings and engines -/

/-- Core 0 with tile-table entries and rings. -/
def withTiles (ts rs : List (Nat × Word)) (s : State) : State :=
  s.modCore 0 fun k => { k with
    tiles := ts.foldl (fun t p => vset t p.1 p.2) k.tiles, rings := rs.foldl (fun t p => vset t p.1 p.2) k.rings }

/-- A tile of 1024 bytes in a state. -/
def tileIn (base st : Nat) : Word := w64 (base + 1024 * 2 ^ 20 + st * 2 ^ 40)

/-- A ring of tiles from `first`, with a HEAD and a TAIL. -/
def ringOf (first count head tail : Nat) : Word := w64 (first + count * 2 ^ 6 + head * 2 ^ 13 + tail * 2 ^ 20)

/-- Tiles 0 to 2 in the states EMPTY, FILLING and READY; ring 1 of tiles 2 to 3 with its READY head, and ring 2 of tile 0 with nothing claimed. -/
def tables (v : Word) : State := withTiles [(0, tileIn 0 0), (1, tileIn 1024 1), (2, tileIn 2048 2)] [(1, ringOf 2 2 0 1), (2, ringOf 0 1 0 0)] (given [(4, v)])

theorem test_meets_TilesAndRingsAct (h : Obligations.TilesAndRingsAct) :
    (∃ t, exec (.eset 4 0x081) (tables 9) = .next t ∧ vget t.self.eregs 7 = 9) ∧
    (∃ t, exec (.tset 4 5) (tables (tileIn 4096 0)) = .next t ∧ t.self.pc = 0x10004) ∧
    (∃ t, exec (.tstate 8 2) (tables 0) = .next t ∧ (vget t.self.g 8).val = tileIn 2048 2) ∧
    (∃ t, exec (.twait 4 2) (tables 2) = .next t ∧ t.self.pc = 0x10004) ∧
    (∃ t, exec (.twait 4 2) (tables 0) = .next t ∧ t.self.st = .parked (.tile 2)) ∧
    (∃ t, exec (.tmark 4 0) (tables 1) = .next t ∧ t.self.pc = 0x10004) ∧
    (∃ t, exec (.tmark 4 1) (tables 6) = .next t ∧ t.self.pc = 0x10004) ∧
    (∃ t, exec (.tmark 4 2) (tables 0) = .next t ∧ t.self.pc = 0x10004) ∧
    (∃ t, exec (.vldt 3 4 2) (tables 992) = .next t ∧ t.self.pc = 0x10004) ∧
    (∃ t, exec (.vstt 3 4 2) (tables 992) = .next t ∧ t.self.pc = 0x10004) ∧
    (∃ t, exec (.tring 4 3) (tables (ringOf 4 2 0 0)) = .next t ∧ t.self.pc = 0x10004) ∧
    (∃ t, exec (.ringhd 8 4 1) (tables 0) = .next t ∧ (vget t.self.g 8).val = ringReport (ringOf 2 2 0 1) 0) ∧
    (∃ t, exec (.ringhd 8 4 1) (tables 1) = .next t ∧ tileState (t.selfCore.tile 2) = 0) ∧
    ∃ t, exec (.ringtl 8 4 2) (tables 1) = .next t ∧ tileState (t.selfCore.tile 0) = 1 := by
  have f (v : Word) (t : BitVec 6) (hv : (tables v).readsG 4 v = true) := h.1.2.1 (tables v) 8 4 t v hv rfl
    ⟨by rfl, by rfl⟩
  have g (v : Word) (r : BitVec 4) (hv : (tables v).readsG 4 v = true) := h.2 (tables v) 8 4 r v hv rfl ⟨by rfl, by rfl⟩
  have e := h.1.2.2 (tables 992) 3 4 2 992 (by decide +kernel) (by decide +kernel) (by decide) (by decide +kernel) (by decide +kernel)
  refine ⟨⟨_, (h.1.1 (tables 9) 8 4 0x081 9 (by decide +kernel) (by decide +kernel)).1, by decide +kernel⟩, ?_,
    ⟨_, (f 0 2 (by decide +kernel)).2.1 (by decide +kernel), by decide +kernel⟩,
    ⟨_, (f 2 2 (by decide +kernel)).2.2.1 (by decide +kernel) (by decide +kernel), by decide +kernel⟩,
    ⟨_, (f 0 2 (by decide +kernel)).2.2.2.1 (by decide +kernel) (by decide +kernel), by decide +kernel⟩, ?_, ?_, ?_, ?_, ?_, ?_,
    ⟨_, ((g 0 1 (by decide +kernel)).2.1 (by decide +kernel) (by decide)).1, by decide +kernel⟩, ?_, ?_⟩
  · obtain ⟨t, ht, hp, -⟩ := (f (tileIn 4096 0) 5 (by decide +kernel)).1 (by decide +kernel) (by decide +kernel) (by decide +kernel)
    exact ⟨t, ht, hp.trans (by decide +kernel)⟩
  · obtain ⟨t, ht, hp, -⟩ := ((f 1 0 (by decide +kernel)).2.2.2.2 (by decide +kernel) (by decide +kernel)).1 (by decide +kernel) (by decide +kernel)
    exact ⟨t, ht, hp.trans (by decide +kernel)⟩
  · obtain ⟨t, ht, hp, -⟩ := ((f 6 1 (by decide +kernel)).2.2.2.2 (by decide +kernel) (by decide +kernel)).2.2 (by decide +kernel) (by decide +kernel)
      (by decide +kernel)
    exact ⟨t, ht, hp.trans (by decide +kernel)⟩
  · obtain ⟨t, ht, hp, -⟩ := ((f 0 2 (by decide +kernel)).2.2.2.2 (by decide +kernel) (by decide +kernel)).2.1 (by decide +kernel) (by decide +kernel)
    exact ⟨t, ht, hp.trans (by decide +kernel)⟩
  · obtain ⟨t, ht, -, hx⟩ := e.1 (List.replicate 32 0) (by decide +kernel) (by decide +kernel) (by decide +kernel) (by decide +kernel) (by decide +kernel)
    exact ⟨t, ht, by rw [hx]; dsimp only; decide +kernel⟩
  · obtain ⟨t, _, ht, -, hx, -⟩ := e.2 0 (by decide +kernel) (by decide +kernel)
    exact ⟨t, ht, by rw [hx]; dsimp only; decide +kernel⟩
  · obtain ⟨t, ht, hp, -⟩ := (g (ringOf 4 2 0 0) 3 (by decide +kernel)).1 (by decide +kernel)
    exact ⟨t, ht, hp.trans (by decide +kernel)⟩
  · obtain ⟨t, ht, -, -, hs, -⟩ := (g 1 1 (by decide +kernel)).2.2.1 (by decide +kernel) (by decide) (by decide +kernel) (by decide +kernel) (by decide +kernel)
    rw [show (tables 1).selfCore.headTile (1 : BitVec 4).toNat = 2 by decide +kernel] at hs
    exact ⟨t, ht, hs⟩
  · obtain ⟨t, ht, -, -, hs, -⟩ := (g 1 2 (by decide +kernel)).2.2.2 (by decide +kernel) (by decide) (by decide +kernel) (by decide +kernel) (by decide +kernel)
    rw [show ringTile ((tables 1).selfCore.ring (2 : BitVec 4).toNat) (ringTail ((tables 1).selfCore.ring (2 : BitVec 4).toNat)) = 0 by decide +kernel] at hs
    exact ⟨t, ht, hs⟩

/-- Engine registers that every command's checks accept, the length of TOPK's rows apart. -/
def engineRegs (len : Nat) : List (Nat × Word) :=
  [(0, 0x321000), (1, 32), (2, 1), (3, 64), (4, 0x30000), (5, 2),
   (6, w64 (2 * 2 ^ 37 + 2 * 2 ^ 32 + 2 * 2 ^ 16)), (7, 4), (8, 2), (16, 16), (24, 16), (32, 0x30800),
   (33, w64 (2 ^ 32 + len * 2 ^ 16 + 2 * 2 ^ 11 + 2 ^ 4)),
   (36, w64 (2 ^ 32 + 2 ^ 16 + 2 * 2 ^ 8 + 4)), (37, 0x30A00), (38, 4), (39, 7),
   (41, w64 (2 ^ 32)), (43, 0x10001)]

/-- A strand ready to issue engine commands. -/
def engined (len : Nat) : State :=
  withTiles [(2, tileIn 2048 2)] [(0, ringOf 0 2 0 0), (1, ringOf 2 2 0 1), (2, ringOf 4 2 0 0), (3, ringOf 6 2 0 0)]
    (having fun x => { holding [(4, 0x30000), (5, 0x31000), (6, 1)] x with
      eregs := (engineRegs len).foldl (fun r p => vset r p.1 p.2) x.eregs })

/-- What a command issues. -/
def issuedAs (s : State) (i : Instr) : Bool × BitVec 5 × EngOp × List Range × Option Nat :=
  (issueForm s (rgOf s) i).getD (false, 0, snap s 0 0 0 0 0, [], none)

/-- Each of the engine commands passes its checks somewhere. -/
theorem test_commands_pass_their_checks :
    ([.mma 8 6 3, .mmv 8 4 5, .mclr 8 6, .mld 8 6 6, .mst 8 6 6, .copy 8 4 5, .fillt 8 4 5, .gather 8 4 5, .scatter 8 4 5, .topk 8 4 5,
      .allred 8 4 5, .bcast 8 4 5, .tjins 8, .tjapp 8 0 5, .tjcls 8 0 6, .tjsmp 8 4 5, .tjget 8 4 6, .tjpri 8 0 6, .tjevi 8 0, .tjver 8 6 6,
      .tjstat 8 5] : List Instr).all (fun i => (issuedAs (engined 4) i).1) = true ∧ (issuedAs (engined 0) (.mergel 8 4 5)).1 = true := by
  decide +kernel

/-- `engined` with sixteen copies. -/
def busy : State := (engined 4).modCore 0 fun k => { k with ops := List.replicate 16 (snap (engined 4) 1 0 0 0 0) }

theorem test_meets_EngineCommandsAreQueued (h : Obligations.EngineCommandsAreQueued) :
    (∃ t, exec (.copy 8 4 5) (engined 4) = .next t ∧ t.selfCore.ops.length = 1) ∧
    ∃ t, exec (.copy 8 4 5) busy = .next t ∧ t.self.st = .parked .engine := by
  refine ⟨?_, ⟨_, (h busy (rgOf busy) (.copy 8 4 5) _ _ _ _ rfl (show issueForm busy (rgOf busy) (.copy 8 4 5) = some (true, (issuedAs busy (.copy 8 4 5)).2)
      by decide +kernel) (by decide +kernel) ⟨by decide +kernel, by decide +kernel, fun h => absurd h (by decide +kernel), fun h => absurd h (by decide +kernel)⟩).2
      (by decide +kernel), by decide +kernel⟩⟩
  let p := issuedAs (engined 4) (.copy 8 4 5)
  obtain ⟨t, _, ht, -, -, ho, -⟩ := (h (engined 4) (rgOf (engined 4)) (.copy 8 4 5) p.2.1 p.2.2.1 p.2.2.2.1 p.2.2.2.2 rfl
    (show issueForm (engined 4) (rgOf (engined 4)) (.copy 8 4 5) = some (true, (issuedAs (engined 4) (.copy 8 4 5)).2) by decide +kernel) (by decide +kernel)
    ⟨by decide +kernel, by decide +kernel, fun h => absurd h (by decide +kernel), fun h => absurd h (by decide +kernel)⟩).1 (by decide +kernel) (by decide +kernel)
    (by decide +kernel) (fun r hr => absurd ((show p.2.2.2.2 = none by decide +kernel).symm.trans hr) (Option.some_ne_none r).symm)
  exact ⟨t, ht, by rw [ho, List.length_append, show (engined 4).selfCore.ops = [] by decide +kernel]; rfl⟩

/-- An operation of an engine, not begun or begun. -/
def opOf (eng cmd : Nat) (ga gb : Word) (st : OpState) (step : Nat) : EngOp :=
  { snap (engined 4) eng cmd ga gb 0 with st := st, step := step, dest := 8, tag := 5 }

/-- Core 0 with one operation. -/
def operating (o : EngOp) (s : State) : State := s.modCore 0 fun k => { k with ops := [o] }

/-- Both operand rings of an MMA with READY heads. -/
def multiplying : State :=
  operating (opOf 0 3 16 0 .begun 0) (withTiles [(0, tileIn 0 2), (2, tileIn 2048 2)] [(0, ringOf 0 2 0 1), (1, ringOf 2 2 0 1)] base)

def combining : State := operating (opOf 3 0 0x30000 0x31000 .queued 0) base

/-- The same step under way, its operand tiles taken. -/
def draining2 : State :=
  operating { opOf 0 3 16 0 .begun 0 with takes := [0, 1] }
    (withTiles [(0, tileIn 0 3), (2, tileIn 2048 3)] [(0, ringOf 0 2 0 1), (1, ringOf 2 2 0 1)] base)

/-- Where an engine operation reaches an address, when `engLands` says that it does. -/
def landsAt (s : State) (c : Nat) (o : EngOp) (tile : Option Nat) (va : Nat) (kind : Kind) : Option Nat :=
  match tile with
  | some t => some (s.tileAddr c t va)
  | none => (s.tlbFind c o.ctx va).bind fun e => (s.accessOf e va).bind fun a =>
    if va < 2 ^ 57 ∧ leafAllows e.leaf kind o.user = true ∧ leafStale e.leaf kind = false ∧ devOf a.pa = s.devid.toNat ∧ s.refused a.pa = false ∧
      s.gone a.pa = false ∧ inControl a.pa = false ∧ s.current a.place = true then some a.pa else none

theorem engLands_of {s : State} {c : Nat} {o : EngOp} {tile : Option Nat} {va : Nat} {kind : Kind} {pa : Nat}
    (h : landsAt s c o tile va kind = some pa) : engLands s c o tile va kind pa := by
  cases tile with
  | some t => exact (Option.some.inj h).symm
  | none =>
    obtain ⟨e, he, h⟩ := Option.bind_eq_some_iff.mp h
    obtain ⟨a, ha, h⟩ := Option.bind_eq_some_iff.mp h
    split at h
    · rename_i g
      obtain ⟨hv, hl, hs, hd, hr, hg, hc, hp⟩ := g
      cases h
      exact ⟨hv, e, a, he, hl, hs, ha, rfl, hd, hr, hg, hc, hp⟩
    · cases h

theorem engSees_of {s : State} {c : Nat} {o : EngOp} {R : Nat → Bool} {tile : Option Nat} {va : Nat} {bs : List Byte}
    (h : (match tile with
      | some t => decide (s.homeRead (s.tileAddr c t va) bs.length = some bs) && (List.range bs.length).all fun i => R (s.tileAddr c t va + i)
      | none => (chunks (bs.length / 8 + 2) va bs.length).all fun p => match landsAt s c o none p.1 .engineRead with
        | some pa => decide (s.homeRead pa p.2 = some ((bs.drop (p.1 - va)).take p.2)) && (List.range p.2).all fun i => R (pa + i)
        | none => false) = true) : engSees s c o R tile va bs := by
  cases tile with
  | some t =>
    simp only [Bool.and_eq_true, decide_eq_true_eq, List.all_eq_true, List.mem_range] at h
    exact h
  | none =>
    intro p hp
    have := List.all_eq_true.mp h p hp
    split at this
    · rename_i pa he
      simp only [Bool.and_eq_true, decide_eq_true_eq, List.all_eq_true, List.mem_range] at this
      exact ⟨pa, engLands_of he, this⟩
    · cases this

theorem mmaAt_of {s : State} {c : Nat} {o : EngOp} (h : (s.core c).ops = [o] ∧ o.eng = 0 ∧ o.cmd ≤ 11 ∧ isMmaPair o.cmd = true ∧ o.st = .begun ∧
    o.owes = [] ∧ (s.core c).ringWd = [] ∧ o.mmaRings.Nodup) : mmaAt s c o := h

/-- An MMA with NS set whose A tile at the head is all zeros, and the same step under way. -/
def sparse (takes : List Nat) (st : Nat) : State :=
  operating { opOf 0 3 16 0 .begun 0 with takes := takes, regs := [0x321080, 32, 1, 64, 0, 2] }
    (withTiles [(0, tileIn 0 st + w64 (2 ^ 42)), (2, tileIn 2048 2)] [(0, ringOf 0 2 0 1), (1, ringOf 2 2 0 1)] base)

theorem test_meets_EngineOperationsRun (h : Obligations.EngineOperationsRun) :
    (∃ t, exec (.engineOpBegin 0 0) (operating (opOf 0 0x12 1 2 .queued 0) (engined 4)) = .next t ∧ (t.core 0).owned 2 = true) ∧
    (∃ t, exec (.mmaStep 0) multiplying = .next t ∧ (t.core 0).ops.map (·.takes) = [[0, 1]]) ∧
    (∃ t, exec (.mmaStep 0) (sparse [] 2) = .next t ∧ (t.core 0).ops.map (·.takes) = [[0]]) ∧
    (∃ t, exec (.mmaStep 0) draining2 = .next t ∧ (t.core 0).ops.map (·.step) = [1]) ∧
    (∃ t, exec (.mmaStep 0) (sparse [0] 3) = .next t ∧ (t.core 0).ops.map (·.step) = [1]) ∧
    (∃ t, exec (.engineOpComplete 0 5) (operating (opOf 1 0 0x30000 0x31000 .begun 8) base) = .next t ∧ (t.core 0).ops = []) ∧
    ∃ t, exec (.collectiveCombine 7 []) combining = .next t ∧ (t.core 0).ops.length = 1 := by
  refine ⟨?_, ?_, ?_, ?_, ?_, ?_, ?_⟩
  · obtain ⟨t, ht, -, -, -, ho⟩ := h.1 (operating (opOf 0 0x12 1 2 .queued 0) (engined 4)) 0 _ rfl rfl rfl rfl rfl rfl rfl (by decide +kernel)
      (by decide +kernel) (by decide +kernel)
    exact ⟨t, ht, ho⟩
  · obtain ⟨t, ht, -, ho, -⟩ := (h.2.1 multiplying 0 (opOf 0 3 16 0 .begun 0) (mmaAt_of (by decide +kernel))).1 rfl rfl (by decide +kernel)
      (by decide +kernel) (by decide +kernel) (by decide +kernel)
    exact ⟨t, ht, by rw [ho]; decide +kernel⟩
  · obtain ⟨t, ht, -, ho, -⟩ := (h.2.1 (sparse [] 2) 0 _ (mmaAt_of (o := { opOf 0 3 16 0 .begun 0 with regs := [0x321080, 32, 1, 64, 0, 2] })
      (by decide +kernel))).1 rfl rfl (by decide +kernel) (by decide +kernel) (by decide +kernel) (by decide +kernel)
    exact ⟨t, ht, by rw [ho]; decide +kernel⟩
  · obtain ⟨t, ht, -, -, ho, -⟩ := (h.2.1 draining2 0 { opOf 0 3 16 0 .begun 0 with takes := [0, 1] } (mmaAt_of (by decide +kernel))).2.1
      (List.replicate 1024 0) (List.replicate 1024 0) [] [] (by decide +kernel) (by decide +kernel) (by decide +kernel) (by decide +kernel) rfl rfl
    exact ⟨t, ht, by rw [ho]; rfl⟩
  · obtain ⟨t, q, ht, -, -, ho, hs, -⟩ := (h.2.1 (sparse [0] 3) 0 _ (mmaAt_of (o := { opOf 0 3 16 0 .begun 0 with
      takes := [0], regs := [0x321080, 32, 1, 64, 0, 2] }) (by decide +kernel))).2.2 (by decide +kernel) (by decide +kernel) (by decide +kernel)
    exact ⟨t, ht, by rw [ho, List.map_cons, hs]; rfl⟩
  · obtain ⟨t, ht, -, ho, -⟩ := h.2.2.1 (operating (opOf 1 0 0x30000 0x31000 .begun 8) base) 0 _ rfl rfl rfl rfl rfl (by decide +kernel) rfl rfl rfl rfl rfl
      rfl (by decide) (by decide +kernel) (fun h => absurd h (by decide +kernel))
    exact ⟨t, ht, ho⟩
  · obtain ⟨t, q, ht, ho, -⟩ := h.2.2.2 combining 0 (opOf 3 0 0x30000 0x31000 .queued 0) (List.replicate 16 0) (by decide +kernel) rfl rfl rfl rfl rfl rfl
      (by decide +kernel) (by decide +kernel) (engSees_of (by decide +kernel)) (by decide +kernel) (engSees_of (by decide +kernel))
    exact ⟨t, ht, by rw [ho]; rfl⟩

/-! Walks, faults, channels, paths -/

/-- What holds of a core after reset and of every listed core holds of every core. -/
theorem core_of {P : Core → Prop} {s : State} (h0 : P Core.reset) (h : ∀ p ∈ s.cores, P p.2) (c : Nat) : P (s.core c) := by
  have {t : Tab Core} : (∀ p ∈ t, P p.2) → P ((tget t c).getD Core.reset) := by
    induction t with
    | nil => exact fun _ => h0
    | cons p t ih =>
      intro ht
      obtain ⟨n, k⟩ := p
      rw [tget]
      split
      · exact ht (n, k) (List.mem_cons_self ..)
      · split
        · exact h0
        · exact ih fun p hp => ht p (List.mem_cons_of_mem _ hp)
  exact this h

/-- With no calendars and no waiting loads, every core is up to date. -/
theorem upToDate_of {s : State} (h : s.cores.all (fun p => p.2.cal.isEmpty && p.2.calWait.isEmpty && p.2.loads.isEmpty) = true) (c : Nat) :
    s.upToDate c = true := by
  obtain ⟨⟨h1, h2⟩, h3⟩ := core_of (P := fun k => (k.cal = [] ∧ k.calWait = []) ∧ k.loads = []) (s := s) ⟨⟨rfl, rfl⟩, rfl⟩
    (fun p hp => by simpa using List.all_eq_true.mp h p hp) c
  simp [State.upToDate, State.current, State.calOf, h1, h2, h3]

/-- What a check says of every die holds of a die by any number. -/
theorem die_of {s : State} {f : Die → Bool} (h : s.dies.toList.all f = true) (d : Nat) : f (s.die d) = true :=
  List.all_eq_true.mp h _ (Vector.mem_toList_iff.mpr (Vector.getElem_mem _))

/-- What a check says of the strands of the listed cores holds of every strand. -/
theorem strand_of {s : State} {f : Strand → Bool} (h0 : f Strand.reset = true) (h : s.cores.all (fun p => p.2.slots.toList.all f) = true)
    (c l : Nat) : f (s.strand c l) = true := by
  have := core_of (P := fun k => k.slots.toList.all f = true) (s := s) (by simp [Core.reset, h0]) (fun p hp => List.all_eq_true.mp h p hp) c
  exact List.all_eq_true.mp this _ (Vector.mem_toList_iff.mpr (Vector.getElem_mem _))

/-- Core 0's slot 0 waiting for a walk of a store to 0xA0000. -/
def walking (s : State) : State :=
  (s.become { s.self with st := .parked (.walk 0xA0000 .store false false) }).modDie 0 fun d => { d with
    walks := [⟨0, 0, none, 0xA0000, .store, false, false, 0, false⟩] }

/-- Tables of context 0 from physical address 0: pointers at levels 4 and 3, and a leaf of level 2 with every right but neither A nor D. -/
def mapped : State := walking (((base.homePut 0 (natLe 0x1001 8)).homePut 0x1000 (natLe 0x2001 8)).homePut 0x2000 (natLe 0x1F 8))

def unmapped : State := walking base

/-- A fault that waits for a free entry, and the strand that waits with it. -/
def waitingFault : State :=
  (having fun x => { x with st := .parked (.faultWait 0 0xA0000 .store 0 4 false) }).modDie 0 fun d => { d with
    fqWait := [⟨newFault 0 0 1 0 0xA0000 .store 0 4 false⟩] }

/-- A walk whose tables lie at device 1, while routes are recomputed. -/
def rerouted : State := { unmapped with reroute := true, ctxTab := [(0, 0x400000000000)] }

theorem test_meets_WalksFillOrFault (h : Obligations.WalksFillOrFault) :
    (∃ t, exec (.tableWalk 0) mapped = .next t ∧ t.homeRead 0x2000 8 = some (natLe 0xDF 8)) ∧
    (∃ t, exec (.tableWalk 0) unmapped = .next t ∧ (t.die 0).fqHead = 1) ∧
    exec (.tableWalk 0) rerouted = .next rerouted ∧
    (∃ t, exec (.faultPostDeferred 0) waitingFault = .next t ∧ (t.strand 0 0).st = .parked (.fault 0 0 0xA0000 .store false)) ∧
    ∃ t, exec (.fqTail 0 1) (unmapped.modDie 0 fun d => { d with fqHead := 2 }) = .next t ∧ (t.die 0).fqTail = 1 := by
  refine ⟨?_, ?_, h.2.1 rerouted 0 _ rfl (by decide +kernel), ?_, ⟨_, h.2.2.2 _ 0 1, by decide +kernel⟩⟩
  · obtain ⟨t, ht, -, -, hr, -⟩ := (h.1 mapped 0 _ rfl rfl (by decide) (by decide +kernel) (by decide +kernel)).1 0x1F 0x2000 2
      (.inr ⟨0x1001, ⟨by decide +kernel, by decide +kernel, by decide +kernel, by decide +kernel, by decide +kernel⟩,
        .inr ⟨0x2001, ⟨by decide +kernel, by decide +kernel, by decide +kernel, by decide +kernel, by decide +kernel⟩,
          .inr ⟨0x1F, ⟨by decide +kernel, by decide +kernel, by decide +kernel, by decide +kernel, by decide +kernel⟩, rfl⟩⟩⟩)
      (by decide) (by decide) (by decide +kernel) ⟨0, 0x2000, by decide +kernel⟩
    exact ⟨t, ht, hr⟩
  · obtain ⟨t, _, ht, -, -, -, hq, -⟩ := (h.1 unmapped 0 _ rfl rfl (by decide) (by decide +kernel) (by decide +kernel)).2 0 4
      (.inl (.inr ⟨0, ⟨by decide +kernel, by decide +kernel, by decide +kernel, by decide +kernel, by decide +kernel⟩, rfl⟩))
      (by decide +kernel) (by decide +kernel) (by decide +kernel)
    exact ⟨t, ht, hq⟩
  · obtain ⟨t, ht, -, -, hw⟩ := h.2.2.1 waitingFault 0 _ [] rfl (by decide +kernel) (fun r hr => absurd
      ((show tget (waitingFault.die 0).fq ((waitingFault.die 0).fqHead.toNat % 1024) = none by decide +kernel).symm.trans hr) nofun)
    exact ⟨t, ht, by rw [hw 0 0 0xA0000 .store 0 4 false (by decide +kernel) (by decide +kernel) (by decide +kernel)]; decide +kernel⟩

/-- Core 0's slot 0 waiting on record 3 of die 0, which is outstanding or not. -/
def faulted (o : Bool) : State :=
  (having fun x => { x with st := .parked (.fault 0 3 0xA0000 .store false) }).modDie 0 fun d => { d with
    fq := [(3, { newFault 0 0 1 0 0xA0000 .store 0 4 false with open_ := o })], fqHead := 4, fqTail := 3 }

theorem test_meets_FaultsAreResolved (h : Obligations.FaultsAreResolved) :
    exec (.fqReplayFail 0 3) (faulted false) = .next (faulted false) ∧
    (∃ t, exec (.fqReplayReplay 0 3) (faulted true) = .next t ∧ (t.strand 0 0).st = .ready ∧ (t.strand 0 0).pc = 0x10000) ∧
    ∃ t, exec (.fqReplayDeny 0 3) (faulted true) = .next t ∧ (t.strand 0 0).cause = 6 ∧ (t.strand 0 0).einfo = 0xA0000 ∧ (t.strand 0 0).pc = 0x20000 := by
  refine ⟨((h (faulted false) 0 3 _ rfl).1 rfl) _ (by simp), ?_, ?_⟩
  · obtain ⟨t, ht, -, -, hw⟩ := ((h (faulted true) 0 3 _ rfl).2 rfl).1
    rw [show (3 : BitVec 10).toNat = 3 from rfl] at hw
    exact ⟨t, ht, by rw [hw 0 0 0xA0000 .store false (by decide) (by decide +kernel)]; exact ⟨rfl, by decide +kernel⟩⟩
  · have hs (c l va : Nat) (k : Kind) (ras : Bool) (hp : ((faulted true).strand c l).st = .parked (.fault 0 (3 : BitVec 10).toNat va k ras)) :
        ((faulted true).strand c l).tvec ≠ 0 ∧ (k = .fetch → ((faulted true).strand c l).bm = true →
          ((faulted true).strand c l).pc ≠ ((faulted true).strand c l).tvec) := by
      have := strand_of (s := faulted true) (f := fun x => match x.st with
        | .parked (.fault _ _ _ k _) => decide (x.tvec ≠ 0) && decide (k ≠ .fetch)
        | _ => true) rfl (by decide +kernel) c l
      rw [hp] at this
      simp only [Bool.and_eq_true, decide_eq_true_eq] at this
      exact ⟨this.1, fun hk => absurd hk this.2⟩
    obtain ⟨t, ht, -, hw⟩ := ((h (faulted true) 0 3 _ rfl).2 rfl).2 hs (.fqReplayDeny 0 3) 6 (by simp)
    exact ⟨t, ht, by rw [hw 0 0 0xA0000 .store false (by decide) (by decide +kernel)]; exact ⟨by decide +kernel, by decide +kernel, by decide +kernel⟩⟩

/-- The channel of 0x10000 with a remembered row, a promotion waiting, and a full window of codes. -/
def channeled : State := base.modChan row0.ch fun c => { (c.modBank row0.bank fun b => { b with mem := some (5, false), pend := [row0.m] }) with
  shadow := [9, 3, 7, 5] }

/-- The same channel with its row named as a candidate, and the row not expected to stay open. -/
def candidate : State := base.modChan row0.ch fun c => { (c.modBank row0.bank fun b => { b with cands := [(row0.m, 0)] }) with
  pred := [(row0.bank * 65536 + row0.m, 0)] }

def windowed : State := channeled.modChan row0.ch fun c => { c with beats := 2 ^ 20, cur := 2 }

/-- An access on its way to the controller of 0x10000. -/
def queueing (wr : Bool) (s : State) : State := { s with dram := [⟨0x10000, 2, wr, [0xFF]⟩] }

/-- Channel 65 with a near copy of its row 3. -/
def nearRow : State := base.modChan 65 fun c => c.setSub (rowAt 65 3) ⟨[(0, ⟨(rowAt 65 3).frow, false, false, false, 0⟩)], 1⟩

theorem test_meets_ChannelsKeepTheirTables (h : Obligations.ChannelsKeepTheirTables) :
    (∃ t, exec (.dramAccess 0x10000 true 2) (queueing true base) = .next t ∧ (t.chan row0.ch).beats = 4 ∧ (t.chan row0.ch).shadow.take 3 = [600, 289, 579]) ∧
    (∃ t, exec (.dramAccess 0x10000 false 2) (queueing false candidate) = .next t ∧ ((t.chan row0.ch).bank row0.bank).pend = [row0.m]) ∧
    (∃ t, exec (.dramAccess 0x10000 true 2) (queueing true channeled) = .next t ∧ (t.chan row0.ch).counter row0.bank 5 = 1) ∧
    (∃ t, exec (.autoPromotion row0.ch row0.bank) channeled = .next t ∧ (t.chan row0.ch).prom = 1) ∧
    (∃ t, exec (.refresh row0.ch row0.bank) channeled = .next t ∧ ((t.chan row0.ch).bank row0.bank).mem = none) ∧
    (∃ t, exec (.busCodeWindowEnd row0.ch) windowed = .next t ∧ (t.chan row0.ch).streak = some 1 ∧ (t.chan row0.ch).pend = none) ∧
    (∃ t, exec (.patrolScrub 65 3 7 [2]) base = .next t ∧ 0x3000000000 + 3 * 2 ^ 17 + 2 ^ 11 + 128 ∈ t.badSectors) ∧
    (∃ t, exec (.patrolScrub 65 3 7 []) { base with badSectors := [0x3000060880] } = .next t ∧ (t.chan 65).ue = 1) ∧
    (∃ t, exec (.patrolScrub 65 3 7 [2, 34]) nearRow = .next t ∧ t.badFar = [0x3000060880]) ∧
    ∃ t, exec (.chcodePin 5 1) base = .next t ∧ (t.chan 5).pend = some 1 := by
  refine ⟨?_, ?_, ?_, ?_, ?_, ?_, ?_, ?_, ?_, ⟨_, (h.2.2.2.2.2 base 5 1 0 0).1, by decide +kernel⟩⟩
  · obtain ⟨t, ht, -, -, -, hs, hb, -⟩ := h.1 (queueing true base) 0x10000 true 2 row0 [0xFF] (by decide +kernel) (by decide +kernel) (by decide +kernel) (by decide +kernel)
    exact ⟨t, ht, hb.trans (by decide +kernel), by rw [hs]; decide +kernel⟩
  · obtain ⟨t, ht, -, -, -, -, -, -, -, -, -, -, -, hc⟩ := h.1 (queueing false candidate) 0x10000 false 2 row0 [0xFF] (by decide +kernel) (by decide +kernel)
      (by decide +kernel) (by decide +kernel)
    have := (hc (by decide +kernel) rfl (by decide +kernel)).1 0 (by decide +kernel)
    rw [if_neg (by decide +kernel), if_pos (by decide +kernel)] at this
    exact ⟨t, ht, this.2.trans (by decide +kernel)⟩
  · obtain ⟨t, ht, -, -, -, -, -, -, -, -, hc, -⟩ := h.1 (queueing true channeled) 0x10000 true 2 row0 [0xFF] (by decide +kernel) (by decide +kernel) (by decide +kernel)
      (by decide +kernel)
    exact ⟨t, ht, (hc 5 false (by decide +kernel)).trans (by decide +kernel)⟩
  · obtain ⟨t, _, ht, -, -, -, hp, -⟩ := h.2.1 channeled row0.ch row0.bank row0.m [] (by decide +kernel) (by decide +kernel) (by decide +kernel)
      ⟨0, by decide, by decide +kernel⟩
    exact ⟨t, ht, hp.trans (by decide +kernel)⟩
  · obtain ⟨t, ht, -, -, -, -, hm, -⟩ := h.2.2.1 channeled row0.ch row0.bank
    exact ⟨t, ht, hm⟩
  · obtain ⟨t, ht, -, hc⟩ := h.2.2.2.1 windowed row0.ch 1 (by decide +kernel) (by decide) (by decide +kernel) (by decide +kernel)
    exact ⟨t, ht, by rw [hc]; exact ⟨by decide +kernel, by decide +kernel⟩⟩
  · obtain ⟨t, ht, -, hs, -⟩ := (h.2.2.2.2.1 base 65 3 7 2 (by decide) (by decide) (by decide)).1 (by decide +kernel)
    exact ⟨t, ht, (show base.devid.toNat * 2 ^ 46 + 65 / 64 * 0x3000000000 + 3 * 2 ^ 17 + 65 % 64 * 2 ^ 11 + 64 * 2 =
      0x3000000000 + 3 * 2 ^ 17 + 2 ^ 11 + 128 by decide +kernel) ▸ hs⟩
  · obtain ⟨t, ht, -, -, hs⟩ := ((h.2.2.2.2.1 { base with badSectors := [0x3000060880] } 65 3 7 2 (by decide) (by decide) (by decide)).2.1
      (by decide +kernel) (by decide +kernel)).1
    exact ⟨t, ht, by rw [hs]; decide +kernel⟩
  · obtain ⟨t, ht, -, -, hf, -⟩ := (h.2.2.2.2.1 nearRow 65 3 7 2 (by decide) (by decide) (by decide)).2.2 (by decide +kernel) (by decide +kernel) (by decide +kernel)
    exact ⟨t, ht, hf.trans (by decide +kernel)⟩

/-- A far store of core 0's slot 0 on its way. -/
def farStore (p : Place) : State :=
  { (having fun x => { x with exits := 1, fifo := [] }) with
    posted := [⟨0, 0, base.self.gen, base.self.launch, .store (entry 0x30010 (pad + 0x10) p [7, 8])⟩] }

/-- Core 0's slot 0 in a release at system scope, with one path to hear from. -/
def releasing : State := having fun x => { x with st := .parked (.release 5), tbm := 8 }

/-- Die 0's cache with a line of memory at 0x10000, one byte of it dirty. -/
def cachingLine : State := base.modDie 0 fun d => { d with rdc := [(0x100, ⟨256, [(4, 1)], [(5, 0xAB)], 1, false⟩)] }

/-- That line with its dirty byte in a word that has gone bad. -/
def spoiltLine : State := { cachingLine with badWords := [(some 0, 0x2000)] }

theorem test_meets_PathsAndCachesEmpty (h : Obligations.PathsAndCachesEmpty) :
    (∃ t, exec (.farStoreAck 0) (farStore (.core 0)) = .next t ∧ byteAt t (pad + 0x11) = 8 ∧ (t.strand 0 0).exits = 0) ∧
    (∃ t, exec (.farStoreAck 0) (farStore (.device 7 0)) = .next t ∧ t.linkErr = 1 ∧ (t.strand 0 0).exits = 0) ∧
    (∃ t, exec (.probeEcho 0 0 3) releasing = .next t ∧ (t.strand 0 0).tbm = 0) ∧
    (∃ t, exec (.probeEcho 0 0 3) (having fun x => { x with st := .parked (.relKept 5), tbm := 8 }) = .next t ∧ (t.strand 0 0).tbm = 0) ∧
    exec (.probeEcho 0 0 (if dieOf 9 = dieOf 0 then groupOf 9 else 63)) (owed releasing) = .next (owed releasing) ∧
    (∃ t, exec (.rdcWriteback 0 0x100 false) cachingLine = .next t ∧ t.homeByte 0x10005 = 0xAB) ∧
    (∃ t, exec (.rdcWriteback 0 0x100 false) spoiltLine = .next t ∧ t.homeByte 0x10005 = 0 ∧ (t.die 0).srue = 1) ∧
    ∃ t, exec (.rdcWriteback 0 0x100 true) cachingLine = .next t ∧ tget (t.die 0).rdc 0x100 = none := by
  have line (o : Nat) (ho : o < 256) : devOf (0x100 * 256 + o) = cachingLine.devid.toNat ∧ (regionOf (localOf (0x100 * 256 + o))).cached = true ∧
      cachingLine.refused (0x100 * 256 + o) = false ∧ cachingLine.gone (0x100 * 256 + o) = false := by
    have : ((List.range 256).all fun o => decide (devOf (0x100 * 256 + o) = cachingLine.devid.toNat ∧ (regionOf (localOf (0x100 * 256 + o))).cached = true ∧
      cachingLine.refused (0x100 * 256 + o) = false ∧ cachingLine.gone (0x100 * 256 + o) = false)) = true := by decide +kernel
    simpa using List.all_eq_true.mp this o (List.mem_range.mpr ho)
  have write := h.2.2.2 cachingLine 0 0x100 _ (by rfl) (by decide +kernel) (by decide +kernel) (by decide +kernel) line
    (upToDate_of (s := cachingLine) (by decide +kernel) 256)
  refine ⟨?_, ?_, ⟨_, h.2.1 releasing 0 0 5 3 (.inl (by decide +kernel)) (by decide +kernel) (by decide) (.inl (by decide)) (by decide +kernel)
    (fun q hq => nomatch hq) (fun h => absurd h (by decide)), by decide +kernel⟩,
    ⟨_, h.2.1 (having fun x => { x with st := .parked (.relKept 5), tbm := 8 }) 0 0 5 3 (.inr (by decide +kernel)) (by decide +kernel) (by decide)
      (.inl (by decide)) (by decide +kernel) (fun q hq => nomatch hq) (fun h => absurd h (by decide)), by decide +kernel⟩,
    h.2.2.1 (owed releasing) 0 0 _ (List.mem_singleton.mpr rfl) (by decide +kernel), ?_, ?_, ?_⟩
  · obtain ⟨t, ht, -, hs, hx⟩ := (h.1 (farStore (.core 0)) _ _ [] rfl rfl (by decide +kernel) (by decide +kernel) (by decide)).1 0 rfl
      (upToDate_of (by decide +kernel) 0) (by decide +kernel) (inMemory_of (by decide +kernel)) (by decide +kernel) (by decide +kernel)
    exact ⟨t, ht, by rw [hs]; decide +kernel, by rw [hx]; decide +kernel⟩
  · obtain ⟨t, ht, -, -, hl, hx⟩ := (h.1 (farStore (.device 7 0)) _ _ [] rfl rfl (by decide +kernel) (by decide +kernel) (by decide)).2 7 0 rfl
      (by decide +kernel)
    exact ⟨t, ht, hl.trans (by decide +kernel), by rw [hx]; decide +kernel⟩
  · obtain ⟨t, ht, hb, -⟩ := write false
    exact ⟨t, ht, by rw [hb]; decide +kernel⟩
  · obtain ⟨t, ht, hb, hc, -⟩ := h.2.2.2 spoiltLine 0 0x100 _ (by rfl) (by decide +kernel) (by decide +kernel) (by decide +kernel) line
      (upToDate_of (s := spoiltLine) (by decide +kernel) 256) false
    exact ⟨t, ht, by rw [hb]; decide +kernel, hc.trans (by decide +kernel)⟩
  · obtain ⟨t, ht, -, -, hn, -⟩ := write true
    exact ⟨t, ht, hn rfl⟩

/-! Packets and launches -/

/-- Queue 3 with one packet of some words, its rings in host memory. -/
def queued (ws : List Word) (s : State) : State :=
  { s with hostMem := mwrite [] 0x1000 (ws.flatMap fun (w : Word) => natLe w.toNat 8) }.modQueue 3 fun x => { x with
    base := w64 (2 ^ 63 + 0x1000), comp := w64 (2 ^ 63 + 0x2000), cfg := 0x10204, tail := 1 }

/-- A LAUNCH of slots 0 and 1 of cores 16 to 31, id 7. -/
def launchWords : List Word :=
  [w64 (3 * 2 ^ 48 + 7 * 2 ^ 32 + 1), w64 (0x802 * 2 ^ 16 + 4 * 2 ^ 11 + 16), 0x12343, 0x99, w64 (12 * 2 ^ 57 + 0x100000), 0x20000, 5, 0x1000000]

/-- That launch with its packet taken up, in some state of its life. -/
def launched (st : LaunchSt) (ab : Option (Word × Word × Word × Word)) : Launch :=
  { launchOf 3 0 0 2 0 1 launchWords with st := st, abort := ab, nabort := 5 }

/-- A device whose time is LOCKED, with that launch. -/
def hosting (q : Launch) : State :=
  { queued launchWords base with launches := tset base.launches q.key.toNat q, ready := true, taken := 1 }.modQueue 3 fun x => { x with busy := some 0 }

/-- Its cores hold it. -/
def occupied (q : Launch) : State := q.cores_.foldl (fun s c => s.modCore c fun k => { k with launch := some q.key }) (hosting q)

def accepting : State := { queued launchWords base with ctxTab := [(0, 1)] }

/-- A strand of that launch has quit, and a join that lists it is still to be told. -/
def settlingJoin : State := { occupied (launched .running none) with
  joins := [⟨16, 0, 1, 0, 0x400, pad + 0x400, .settle 16 0 1, false, (launched .running none).key⟩] }

theorem test_meets_LaunchesStartAndEnd (h : Obligations.LaunchesStartAndEnd) :
    (∃ t, exec (.launch 3) accepting = .next t ∧ tget t.gens 7 = some 1 ∧ (t.queue 3).busy = some 0) ∧
    (∃ t, exec (.launch 3) (queued launchWords base) = .next t ∧ mread t.hostMem 0x2000 8 = [2, 1, 7, 0, 0, 0, 0, 0]) ∧
    (∃ t, exec (.launchStart (launched .waiting none).key.toNat) (hosting (launched .waiting none)) = .next t ∧
      (t.strand 17 1).pc = 0x12340 ∧ (t.strand 17 1).lane = 3 ∧ (t.strand 17 2).st = .free) ∧
    exec (.launchEnd (launched .running none).key.toNat) settlingJoin = .next settlingJoin ∧
    (∃ t, exec (.launchEnd (launched .running none).key.toNat) (occupied (launched .running none)) = .next t ∧
      mread t.hostMem 0x2000 8 = [0, 0, 7, 0, 1, 0, 0, 0]) ∧
    ∃ t, exec (.launchEnd (launched .running (some (6, 0x10, 0x20, 0x30))).key.toNat) (occupied (launched .running (some (6, 0x10, 0x20, 0x30)))) = .next t ∧
      mread t.hostMem 0x2000 32 = [1, 6, 7, 0, 1, 5, 0, 0, 0x10, 0, 0, 0, 0, 0, 0, 0, 0x20, 0, 0, 0, 0, 0, 0, 0, 0x30, 0, 0, 0, 0, 0, 0, 0] := by
  have take8 {m : Memory} {l : List Byte} (hm : mread m 0x2000 32 = l) : mread m 0x2000 8 = l.take 8 := by
    rw [← hm, mread, mread, ← List.map_take, List.take_range]
    rfl
  refine ⟨?_, ?_, ?_, (h.2.2 settlingJoin (launched .running none) (by decide +kernel) (by decide +kernel) (by decide +kernel) (by decide +kernel)).1
    (by decide +kernel), ?_, ?_⟩
  · obtain ⟨t, ht, -, -, hg, hb, -⟩ := (h.1 accepting 3 0 launchWords (by decide +kernel) rfl (by decide) (by decide)).2.1 (by decide +kernel)
    exact ⟨t, ht, hg.trans (by decide +kernel), hb⟩
  · obtain ⟨t, ht, -, hn, -⟩ := (h.1 (queued launchWords base) 3 0 launchWords (by decide +kernel) rfl (by decide) (by decide)).2.2 1 (by decide +kernel)
    exact ⟨t, ht, (take8 (hn (by decide +kernel) (by decide +kernel))).trans (by decide +kernel)⟩
  · obtain ⟨t, ht, -, -, -, -, hc⟩ := (h.2.1 (hosting (launched .waiting none)) (launched .waiting none) (by decide +kernel) rfl).1 (by decide +kernel)
    obtain ⟨-, -, -, -, hs⟩ := hc 17 (by decide) (by decide)
    exact ⟨t, ht, by rw [hs 1 (by decide)]; decide +kernel, by rw [hs 1 (by decide)]; decide +kernel, by rw [hs 2 (by decide)]; decide +kernel⟩
  · obtain ⟨t, ht, -, hn⟩ := ((h.2.2 (occupied (launched .running none)) (launched .running none) (by decide +kernel) (by decide +kernel)
      (by decide +kernel) (by decide +kernel)).2 (by decide +kernel)).1 rfl rfl (fun c h1 h2 => (by decide +kernel : ∀ c, c < 32 → ((occupied (launched .running none)).core c).quiet = true ∨ c < 16) c h2
        |>.resolve_right (Nat.not_lt.mpr h1)) rfl rfl (by decide +kernel)
    exact ⟨t, ht, (take8 (hn (by decide +kernel) (by decide +kernel))).trans (by decide +kernel)⟩
  · obtain ⟨t, ht, -, hn⟩ := ((h.2.2 (occupied (launched .running (some (6, 0x10, 0x20, 0x30)))) (launched .running (some (6, 0x10, 0x20, 0x30)))
      (by decide +kernel) (by decide +kernel) (by decide +kernel) (by decide +kernel)).2 (by decide +kernel)).2 _ _ _ _ rfl
    exact ⟨t, ht, (hn (by decide +kernel) (by decide +kernel)).trans (by decide +kernel)⟩

/-- A launch of priority 2 waits for the cores of core 0's launch. -/
def outranking : State :=
  let q : Launch := { launched .waiting none with first := 0 }
  { (hosting (launched .waiting none)).become { base.self with st := .parked (.sleep 5) } with
    launches := tset base.launches q.key.toNat q }

/-- Core 0 stopped, and a byte in its scratchpad. Its save area is at 0x1000000. -/
def saving : State :=
  let q : Launch := { probeLaunch with st := .saving, save := 0x1000000 }
  ({ base with launches := tset base.launches q.key.toNat q }.modCore 0 fun k => { k with saving := true }).homePut (pad + 0x30) [0x5A]

/-- Core 0's launch saved, with its PC in its save area; the core is vacant. -/
def resuming : State :=
  let q : Launch := { probeLaunch with st := .saved, save := 0x1000000, cores := [(0, base.core 0)] }
  ({ base with launches := tset base.launches q.key.toNat q, ready := true }.modCore 0 Core.vacate).homePut 0x1090000 (natLe (slotWord (base.strand 0 0)).toNat 8 ++ [0x10, 0, 1])

/-- DRAM is not refused while no stack has failed and no store is configured (R8, R65, R357). -/
theorem dram_open {s : State} {pa : Nat} (hf : s.failed = 0) (hp : s.dies.toList.all (fun d => d.ponds.isEmpty) = true)
    (ho : devOf pa = s.devid.toNat) (h1 : devOf pa < 1536) (hl : localOf pa < 0xC000000000) : s.refused pa = false := by
  have hi : s.inPond (localOf pa) = false := by
    rw [State.inPond, List.any_eq_false]
    intro d hd
    simp [List.isEmpty_iff.mp (List.all_eq_true.mp hp d hd)]
  rw [State.refused, if_neg (Nat.not_le.mpr h1), if_neg (fun h => h ho), regionOf, if_pos hl]
  simp [hf, hi]

theorem test_meets_LaunchesArePreempted (h : Obligations.LaunchesArePreempted) :
    (∃ t, exec (.preempt probeLaunch.key.toNat) outranking = .next t ∧ (t.strand 0 0).st = .parked .stopped ∧ (t.core 0).saving = true) ∧
    (∃ t, exec (.saveComplete 0) saving = .next t ∧ t.homeByte 0x1000030 = 0x5A ∧ t.strand 0 0 = { Strand.reset with gen := 1 }) ∧
    ∃ t, exec (.resume probeLaunch.key.toNat) resuming = .next t ∧ (t.strand 0 0).pc = 0x10010 ∧ (t.strand 0 0).latch = 31 := by
  refine ⟨?_, ?_, ?_⟩
  · obtain ⟨t, ht, -, -, hc⟩ := h.1 outranking probeLaunch (by decide +kernel) rfl rfl (by decide +kernel)
    obtain ⟨hs, hl⟩ := hc 0 (by decide) (by decide)
    exact ⟨t, ht, (hl 0 (by decide)).2.1 (.sleep 5) (by decide +kernel) rfl, hs⟩
  · obtain ⟨t, ht, -, hv, hb, -⟩ := h.2.1 saving { probeLaunch with st := .saving, save := 0x1000000 } 0 (by decide +kernel) (by decide +kernel) (by decide)
      (by decide) rfl rfl (by decide +kernel) (by decide +kernel) ⟨upToDate_of (by decide +kernel), by decide +kernel, by decide⟩ (by decide +kernel)
      (by decide +kernel) (by decide +kernel) (fun n hn => dram_open (by decide +kernel) (by decide +kernel)
        (by rw [show saving.devid.toNat = 0 by decide +kernel, show Launch.block _ 0 = 0x1000000 by decide +kernel, devOf]; omega)
        (by rw [show Launch.block _ 0 = 0x1000000 by decide +kernel, devOf]; omega)
        (by rw [show Launch.block _ 0 = 0x1000000 by decide +kernel, localOf]; omega))
    exact ⟨t, ht, (hb 0x30 (by decide)).trans (by decide +kernel), (hv 0 (by decide)).trans (by decide +kernel)⟩
  · obtain ⟨t, ht, -, hc⟩ := h.2.2 resuming { probeLaunch with st := .saved, save := 0x1000000, cores := [(0, base.core 0)] } (by decide +kernel) rfl
      (by decide +kernel)
    obtain ⟨-, hl⟩ := hc 0 (base.core 0) (by decide) (by decide) rfl
    obtain ⟨-, hx, hr⟩ := hl 0 (by decide)
    have hr := hr rfl ⟨upToDate_of (by decide +kernel), by decide +kernel, by decide⟩ ⟨by decide +kernel, by decide +kernel, by decide +kernel,
      by decide +kernel, by decide +kernel⟩
    exact ⟨t, ht, (hr.2.1 (.inl (by decide +kernel))).2 0x10010 ⟨by decide +kernel, by decide +kernel, by decide +kernel, by decide +kernel,
      by decide +kernel⟩, hx⟩

/-- Core `c` with records in its deque. -/
def tasked (c : Nat) (rs : List TaskRec) (s : State) : State := s.modCore c fun k => { k with deque := rs }

/-- A record of the launch of core 0, and one of a launch that is gone. -/
def mine0 : TaskRec := plainRec 0x12340 [1, 2] probeLaunch.key
def stale0 : TaskRec := plainRec 0x12340 [] 9

/-- Core 1 of a launch on cores 0 to 15, in some state of its round as a thief. -/
def thieving (t : Thief) : State := (wide id).modCore 1 fun k => { k with thief := t }

theorem test_meets_WorkIsDispatchedAndStolen (h : Obligations.WorkIsDispatchedAndStolen) :
    (∃ t, exec (.dispatchPop 0) (tasked 0 [mine0] base) = .next t ∧ (t.strand 0 1).pc = 0x12340) ∧
    (∃ t, exec (.dispatchPop 0) (tasked 0 [stale0] base) = .next t ∧ (t.strand 0 1).st = .free) ∧
    (∃ t, exec (.remotePush 0) { base with pushes := [⟨0, mine0, none, false, none⟩] } = .next t ∧ (t.core 0).deque = [mine0]) ∧
    (∃ t, exec (.stealRequest 1) (tasked 2 [stale0, mine0] (thieving .idle)) = .next t ∧ (t.core 2).deque = [stale0]) ∧
    (∃ t, exec (.stealReply 1) (thieving (.got 0 none)) = .next t ∧ (t.core 1).thief = .waiting 0) ∧
    (∃ t, exec (.stealReply 1) (thieving (.got 2 (some mine0))) = .next t ∧ (t.strand 1 0).pc = 0x12340) ∧
    ∃ t, exec (.stealRetry 1) ((thieving (.waiting 3)).modCore 1 fun k => { k with cyc := 67 }) = .next t ∧ (t.core 1).thief = .idle := by
  refine ⟨?_, ?_, ?_, ?_, ⟨_, h.2.2.2.1 (thieving (.got 0 none)) 1 0 (by decide +kernel) (by decide +kernel) (by decide +kernel) (by decide +kernel),
    by decide +kernel⟩, ?_, ⟨_, h.2.2.2.2.2 ((thieving (.waiting 3)).modCore 1 fun k => { k with cyc := 67 }) 1 3 (by decide +kernel), by decide +kernel⟩⟩
  · obtain ⟨t, ht, -, -, hs, -⟩ := h.1 (tasked 0 [mine0] base) 0 1 mine0 [] probeLaunch (by decide +kernel) (by decide +kernel) (by decide +kernel)
      (by decide +kernel) (by decide +kernel) (by decide +kernel) (.inl rfl) (by decide +kernel)
    exact ⟨t, ht, by rw [(hs (by decide +kernel)).1]; decide +kernel⟩
  · obtain ⟨t, ht, -, -, -, hs⟩ := h.1 (tasked 0 [stale0] base) 0 1 stale0 [] probeLaunch (by decide +kernel) (by decide +kernel) (by decide +kernel)
      (by decide +kernel) (by decide +kernel) (by decide +kernel) (.inl rfl) (by decide +kernel)
    exact ⟨t, ht, by rw [hs (by decide +kernel) 1]; decide +kernel⟩
  · obtain ⟨t, ht, -, -, hd, -⟩ := h.2.1 { base with pushes := [⟨0, mine0, none, false, none⟩] } _ [] rfl (by decide +kernel) (runs_of (by decide +kernel)) (by decide +kernel)
    exact ⟨t, ht, hd.trans (by decide +kernel)⟩
  · obtain ⟨t, ht, -, -, hv⟩ := h.2.2.1 (tasked 2 [stale0, mine0] (thieving .idle)) 1 2 _ mine0 [stale0] (by decide +kernel) (by decide +kernel)
      (show _ = _ :: ((tasked 2 [stale0, mine0] (thieving .idle)).victims 1).drop 1 by decide +kernel) (by decide) (by decide +kernel) (by decide +kernel)
      (by decide +kernel) (.inl (by decide +kernel))
    exact ⟨t, ht, hv⟩
  · obtain ⟨t, ht, -, -, hs⟩ := h.2.2.2.2.1 (thieving (.got 2 (some mine0))) 1 0 2 mine0 { probeLaunch with logn := 4 } (by decide +kernel) (by decide +kernel)
      (by decide +kernel) (by decide +kernel) (by decide +kernel) rfl (by decide +kernel)
    exact ⟨t, ht, by rw [hs]; decide +kernel⟩

/-- A packet of queue 3 with words after the first. -/
def packet (w : Nat) (ws : List Word) : State := queued ((w64 w :: ws) ++ List.replicate (7 - ws.length) 0) base

def fencing (l : List Nat) : State := (packet 3 []).modQueue 3 fun x => { x with open_ := l }

/-- A SIGNAL of 0x1234 to 0x10008 with vector 6. -/
def signalling : State := packet (6 * 2 ^ 16 + 2 ^ 8 + 4) [0x10008, 0x1234]

/-- A WAITVAL at 0x10008 for a value of at least 2, taken up, with a value there. -/
def watchingValue (m : Nat) : State :=
  ((packet (2 * 2 ^ 8 + 5) [0x10008, 2, 0xFF]).modQueue 3 fun x => { x with busy := some 0 }).homePut 0x10008 (natLe m 8)

/-- A PONDCFG of store 2 of die 0: 16 slots of one step at 0x200000. -/
def pondWords (destroy : Bool) : Nat × List Word := (4 * 2 ^ 32 + 2 * 2 ^ 11 + (if destroy then 2 ^ 8 else 0) + 6, [64, 0x200000])
def ponding (destroy : Bool) : State := packet (pondWords destroy).1 (pondWords destroy).2
def newPond : Pond := ⟨0, 4, 1, 64, 0x200000, 0, 0, 0, 0, 0, 0, [], none, []⟩

/-- The store of that packet exists, and may be on its way out. -/
def havingPond (destroy : Bool) (dying : Option Nat) (s : State) : State :=
  (s.modDie 0 fun d => { d with ponds := [(2, { newPond with dying := dying })] }).modQueue 3 fun x => { x with
    busy := if dying.isSome && destroy then some 0 else none }

theorem test_meets_PacketsAreAnswered (h : Obligations.PacketsAreAnswered) :
    (∃ t, exec (.setlevel 3) (packet (2 ^ 10 + 2) []) = .next t ∧ (t.queue 3).level = 1) ∧
    (∃ t, exec (.qfence 3) (fencing []) = .next t ∧ (t.queue 3).head = 1) ∧
    exec (.qfence 3) (fencing [0]) = .next (fencing [0]) ∧
    (∃ t, exec (.signal 3) signalling = .next t ∧ t.homeRead 0x10008 8 = some (natLe 0x1234 8) ∧ t.msix = [6]) ∧
    (∃ t, exec (.waitval 3) (packet (2 * 2 ^ 8 + 5) [0x10008, 2, 0xFF]) = .next t ∧ (t.queue 3).busy = some 0) ∧
    (∃ t, exec (.waitvalSatisfied 3) (watchingValue 0x102) = .next t ∧ (t.queue 3).head = 1) ∧
    (∃ t, exec (.waitvalSatisfied 3) (watchingValue 0x101) = .next t ∧ (t.queue 3).busy = some 0) ∧
    (∃ t, exec (.pondcfg 3) (ponding false) = .next t ∧ t.pond 0 2 = some newPond) ∧
    (∃ t, exec (.pondcfg 3) (havingPond false none (ponding false)) = .next t ∧ mread t.hostMem 0x2000 32 = natLe 0x602 8 ++ List.replicate 24 0) ∧
    (∃ t, exec (.pondcfgDestroy 3) (ponding true) = .next t ∧ mread t.hostMem 0x2000 32 = natLe 0x702 8 ++ List.replicate 24 0) ∧
    (∃ t, exec (.pondcfgDestroy 3) (havingPond true none (ponding true)) = .next t ∧ (t.queue 3).busy = some 0) ∧
    (∃ t, exec (.pondDestroy 0 2) (havingPond true (some 3) (ponding true)) = .next t ∧ t.pond 0 2 = none) ∧
    ∃ t, exec (.resync 3) (packet 7 [w64 (2 ^ 63 + 0x3000)]) = .next t ∧
      mread t.hostMem 0x3000 (packet 7 [w64 (2 ^ 63 + 0x3000)]).summary.length = (packet 7 [w64 (2 ^ 63 + 0x3000)]).summary := by
  obtain ⟨hl, hq, hs, hw, hv, hp, hd, hr⟩ := h
  have dram (s : State) (h1 : devOf 0x10008 = s.devid.toNat ∧ s.refused 0x10008 = false ∧ s.gone 0x10008 = false ∧
      s.current (s.placeOf 0x10008 false) = true ∧ s.current (s.placeOf 0x10008 true) = true) : openDram s 0x10008 :=
    ⟨h1.1, by decide, by decide, h1.2.1, h1.2.2.1, ⟨0, 0x10008, by decide +kernel⟩, h1.2.2.2⟩
  have val (m : Nat) (hm : (watchingValue m).homeRead 0x10008 8 = some (natLe (w64 m).toNat 8))
      (ht : ((watchingValue m).modQueue 3 fun x => { x with busy := none }).typed 3 5 = some (0, [w64 (2 * 2 ^ 8 + 5), 0x10008, 2, 0xFF, 0, 0, 0, 0]))
      (hb : ((watchingValue m).queue 3).busy = some 0) (h1 : devOf 0x10008 = (watchingValue m).devid.toNat ∧ (watchingValue m).refused 0x10008 = false ∧
        (watchingValue m).gone 0x10008 = false ∧ (watchingValue m).current ((watchingValue m).placeOf 0x10008 false) = true ∧
        (watchingValue m).current ((watchingValue m).placeOf 0x10008 true) = true) :=
    hv (watchingValue m) 3 0 _ (w64 m) hb ht (dram _ h1) hm
  have pond (s : State) (b : Bool) (ht : s.typed 3 6 = some (0, w64 (pondWords b).1 :: (pondWords b).2 ++ [0, 0, 0, 0, 0])) (hb : pondBad (w64 (pondWords b).1 ::
      (pondWords b).2 ++ [0, 0, 0, 0, 0]) = false) (ho : pondOf (w64 (pondWords b).1 :: (pondWords b).2 ++ [0, 0, 0, 0, 0]) = (0, 2, newPond, true)) :=
    hp s 3 0 _ 0 2 newPond true ht hb ho
  refine ⟨?_, ?_, ?_, ?_, ⟨_, hw (packet (2 * 2 ^ 8 + 5) [0x10008, 2, 0xFF]) 3 0 [w64 (2 * 2 ^ 8 + 5), 0x10008, 2, 0xFF, 0, 0, 0, 0] (by decide +kernel)
    (by decide) (by decide +kernel) (by decide +kernel), by decide +kernel⟩, ?_, ?_, ?_, ?_, ?_, ?_, ?_, ?_⟩
  · obtain ⟨t, ht, -, hx⟩ := hl (packet (2 ^ 10 + 2) []) 3 0 [w64 (2 ^ 10 + 2), 0, 0, 0, 0, 0, 0, 0] (by decide +kernel) rfl rfl (by decide) rfl
    exact ⟨t, ht, hx⟩
  · obtain ⟨t, ht, -, -, hx⟩ := (hq (fencing []) 3 0 [3, 0, 0, 0, 0, 0, 0, 0] (by decide +kernel) rfl rfl).1 (by decide +kernel)
    exact ⟨t, ht, hx.trans (by decide +kernel)⟩
  · exact (hq (fencing [0]) 3 0 [3, 0, 0, 0, 0, 0, 0, 0] (by decide +kernel) rfl rfl).2 (by decide +kernel)
  · obtain ⟨t, ht, -, hx, hm⟩ := hs signalling 3 0 [w64 (6 * 2 ^ 16 + 2 ^ 8 + 4), 0x10008, 0x1234, 0, 0, 0, 0, 0] (by decide +kernel) rfl rfl rfl
      (dram _ (by decide +kernel))
      ⟨by decide +kernel, fun d => List.isEmpty_iff.mp (die_of (f := fun x => x.rdc.isEmpty) (show signalling.dies.toList.all (fun x => x.rdc.isEmpty) = true by decide +kernel) d),
        upToDate_of (by decide +kernel), by decide +kernel⟩ (by decide +kernel)
    exact ⟨t, ht, hx, hm.trans (by decide +kernel)⟩
  · obtain ⟨t, ht, -, -, hx⟩ := (val 0x102 (by decide +kernel) (by decide +kernel) (by decide +kernel) (by decide +kernel)).1 (by decide)
    exact ⟨t, ht, hx.trans (by decide +kernel)⟩
  · exact ⟨_, (val 0x101 (by decide +kernel) (by decide +kernel) (by decide +kernel) (by decide +kernel)).2 (by decide), by decide +kernel⟩
  · obtain ⟨t, q, ht, -, hx, -, hq⟩ := (pond (ponding false) false (by decide +kernel) (by decide) (by decide)).1 rfl rfl (by decide +kernel) (by decide +kernel)
    exact ⟨t, ht, hx.trans (congrArg some (hq rfl rfl (upToDate_of (by decide +kernel))))⟩
  · obtain ⟨t, ht, hn, -⟩ := (pond (havingPond false none (ponding false)) false (by decide +kernel) (by decide) (by decide)).2.1 rfl (by decide +kernel)
    exact ⟨t, ht, (hn (by decide +kernel) (by decide +kernel)).trans (by decide +kernel)⟩
  · obtain ⟨t, ht, hn, -⟩ := ((pond (ponding true) true (by decide +kernel) (by decide) (by decide)).2.2 rfl).1 (by decide +kernel)
    exact ⟨t, ht, (hn (by decide +kernel) (by decide +kernel)).trans (by decide +kernel)⟩
  · obtain ⟨t, ht, -, -, hx⟩ := ((pond (havingPond true none (ponding true)) true (by decide +kernel) (by decide) (by decide)).2.2 rfl).2 newPond
      (by decide +kernel) rfl
    exact ⟨t, ht, hx⟩
  · obtain ⟨t, ht, -, hx⟩ := hd (havingPond true (some 3) (ponding true)) 0 2 3 0 { newPond with dying := some 3 } (by decide +kernel) rfl (by decide +kernel)
      (by decide +kernel) (by decide +kernel)
    exact ⟨t, ht, hx⟩
  · obtain ⟨t, ht, -, hx, -⟩ := hr (packet 7 [w64 (2 ^ 63 + 0x3000)]) 3 0 [7, w64 (2 ^ 63 + 0x3000), 0, 0, 0, 0, 0, 0] (by decide +kernel) rfl rfl
      (by decide) (by decide) (by decide) (by decide +kernel) (by decide +kernel) (.inl (by decide +kernel))
    exact ⟨t, ht, hx⟩

/-! Registers, time, the service die, reports -/

/-- Die 0's time unit in some state of its lock. -/
def clocked (l : Lock) (good bad : Nat) (dom : Bool) : State :=
  { base with inDom := dom }.modDie 0 fun d => { d with lock := l, good := good, bad := bad, tu := 70000 }

/-- A device about to join a domain. -/
def joining (ref : Nat) : State := { State.reset with inDom := true, ref := ref }

theorem test_meets_RegistersAndTimeAreSet (h : Obligations.RegistersAndTimeAreSet) :
    (∃ t, exec (.qcfg 3 0x10205) base = .next t ∧ (t.queue 3).cfg = 0x10205) ∧
    (∃ t, exec (.qcfg 3 5) (queued [] base) = .next t ∧ (t.queue 3).cfg = 0x204) ∧
    (∃ t, exec (.registerWrite (0 * 2 ^ 46 + 0x2F0000010000 + 8 * 9) 0x55) base = .next t ∧ tget t.ctxTab 9 = some 0x55) ∧
    (∃ t, exec (.tcap 0 2) base = .next t ∧ (t.die 0).tstep = 2) ∧
    (∃ t, exec (.hostAccess true (pad + 0x20) [1, 2, 3]) base = .next t ∧ byteAt t (pad + 0x22) = 3) ∧
    (∃ t, exec (.hostAccess false (pad + 0x20) [1, 2, 3]) base = .next t ∧ t.hostReads = [(pad + 0x20, some [0, 0, 0])]) ∧
    (∃ t, exec (.hostAccess false (2 ^ 57 + 0x10000 + 64 * 3 + 8) (natLe 0 8)) (queued [] base) = .next t ∧
      t.hostReads = [(2 ^ 57 + 0x100C8, some [4, 2, 1, 0, 0, 0, 0, 0])]) ∧
    (∃ t, exec (.timeExchange 0 0 false) (clocked .locked 0 3 true) = .next t ∧ (t.die 0).lock = .holdover) ∧
    (∃ t, exec (.timeExchange 0 11 true) (clocked .locked 9 0 true) = .next t ∧ (t.die 0).lock = .free) ∧
    (∃ t, exec (.timeExchange 0 10 true) ({ clocked .free 7 0 true with ref := 60000, gm := true }) = .next t ∧ (t.die 0).lock = .locked) ∧
    (∃ t, exec (.domainJoin 5) (joining 20000) = .next t ∧ (t.die 1).tu = 30000) ∧
    (∃ t, exec (.domainJoin 5) (joining 70000) = .next t ∧ t.held = 20000) ∧
    (∃ t, exec (.timeExchange 4 18 true) ({ clocked .free 0 0 true with gmGood := 7, gmTaken := true }) = .next t ∧ t.gmLock = true) ∧
    (∃ t, exec (.timeExchange 4 0 false) ({ clocked .locked 0 0 true with gmBad := 3, gmLock := true }) = .next t ∧ (t.die 0).lock = .holdover) ∧
    (∃ t, exec (.timeExchange 4 101 true) ({ clocked .locked 0 0 true with gmLock := true }) = .next t ∧ t.gmLock = false) ∧
    ((clocked .free 0 0 true).die 0).tu ≤ (((clocked .free 0 0 true).die 0).advance 60000 25 (-9)).tu := by
  obtain ⟨hq, hc, ht, ha, hr, hv, he, h4, hj⟩ := h
  have rd := (hr (queued [] base) 3 0 (natLe 0 8) (by decide) (by decide)).1 (0x08, ((queued [] base).queue 3).cfg) (by simp)
  have st := ha base (pad + 0x20) [1, 2, 3] (upToDate_of (by decide +kernel)) (by decide +kernel) (inMemory_of (by decide +kernel))
    (fun i hi => (by decide +kernel : ∀ i, i < 3 → base.refused (pad + 0x20 + i) = false ∧ base.gone (pad + 0x20 + i) = false) i hi) (by decide)
  refine ⟨⟨_, (hq base 3 0x10205 (by decide)).2.1 (by decide +kernel) (by decide), by decide +kernel⟩,
    ⟨_, (hq (queued [] base) 3 5 (by decide)).2.2.1 (by decide +kernel), by decide +kernel⟩, ?_, ⟨_, (ht base 0 2 0).1, by decide +kernel⟩, ?_, ?_, ⟨_, rd, by decide +kernel⟩, ?_, ?_, ?_, ?_,
    ⟨_, (hj (joining 70000) 5 (by decide +kernel) rfl rfl).2.1 rfl (by decide), rfl⟩, ?_, ?_, ?_, (hv _ 60000 25 (-9) (by decide +kernel)).1⟩
  · obtain ⟨t, hx, -, hb⟩ := hc base 9 0x55 (by decide) (by decide +kernel)
    have := hb 9
    rw [if_pos rfl] at this
    rcases hw : tget t.ctxTab 9 with _ | w
    · exact absurd (hw ▸ this) (by decide)
    · exact ⟨t, hx, by rw [hw] at this; exact hw.trans (congrArg some this)⟩
  · obtain ⟨t, hx, hs⟩ := st.2
    exact ⟨t, hx, by rw [hs]; decide +kernel⟩
  · obtain ⟨t, hx, -, hs⟩ := st.1 (by decide +kernel) (by decide +kernel)
    exact ⟨t, hx, hs.trans (by decide +kernel)⟩
  · obtain ⟨t, _, hx, -, -, -, hb, -⟩ := he (clocked .locked 0 3 true) 0 0 (by decide)
    exact ⟨t, hx, (hb (by decide +kernel) (by decide +kernel)).1⟩
  · obtain ⟨_, t, -, hx, -, -, -, -, hb, -⟩ := he (clocked .locked 9 0 true) 0 11 (by decide)
    exact ⟨t, hx, hb (.inr (by decide))⟩
  · obtain ⟨_, t, -, hx, -, -, -, -, -, hb, -⟩ := he ({ clocked .free 7 0 true with ref := 60000, gm := true }) 0 10 (by decide)
    exact ⟨t, hx, (hb (by decide +kernel) (by decide +kernel) (by decide +kernel) (by decide +kernel) (by decide +kernel)).1⟩
  · obtain ⟨t, hx, -, -, -, -, hb⟩ := (hj (joining 20000) 5 (by decide +kernel) rfl rfl).1 rfl (by decide)
    exact ⟨t, hx, (hb.2 1).trans (by decide +kernel)⟩
  · obtain ⟨t, hx, -, hg, -⟩ := (h4 ({ clocked .free 0 0 true with gmGood := 7, gmTaken := true }) 18 (by decide +kernel) (by decide +kernel)).1
      (by decide +kernel) (by decide) rfl (by decide +kernel)
    exact ⟨t, hx, hg⟩
  · obtain ⟨t, hx, -, -, hl⟩ := (h4 ({ clocked .locked 0 0 true with gmBad := 3, gmLock := true }) 0 (by decide +kernel) (by decide +kernel)).2.2
      (by decide +kernel) rfl
    exact ⟨t, hx, hl 0 (by decide +kernel)⟩
  · obtain ⟨t, hx, -, -, hf⟩ := (h4 ({ clocked .locked 0 0 true with gmLock := true }) 101 (by decide +kernel) (by decide +kernel)).2.1
    exact ⟨t, hx, (hf (by decide)).1⟩

/-- The extent of the CXL window with a dirty byte, and perhaps a release of it under way or a store still to be performed there. -/
def extended (rel forced : Bool) (es : List FifoEntry) : State :=
  { having (storing es) with cxlRels := if rel then [⟨0, 0x10000, forced⟩] else [], homeDirty := [(0x300000000004, 9)] }

/-- A device alone, with a far store to device 1 under way. -/
def linked : State := farStore (.device 1 0)

/-- An alarm under the HALT policy. -/
def halting : State := { base with haltPolicy := true }

theorem test_meets_ServiceStepsAct (h : Obligations.ServiceStepsAct) :
    (∃ t, exec (.cxlRelease 0 0x10000) (extended false false []) = .next t ∧ t.masked 0x300000000004 = false ∧ t.cxlRels = [⟨0, 0x10000, false⟩]) ∧
    (∃ t, exec (.cxlReleaseAck 0 0x10000) (extended true false []) = .next t ∧ (0, 0x10000) ∉ t.extents) ∧
    exec (.cxlReleaseAck 0 0x10000) (extended true false [entry 0x60000 0x300000000000 (.core 0) [1]]) =
      .next (extended true false [entry 0x60000 0x300000000000 (.core 0) [1]]) ∧
    (∃ t, exec (.cxlForcedRelease 0 0x10000) (extended true false []) = .next t) ∧
    (∃ t, exec (.cxlForcedRelease 0 0x10000) (extended true true []) = .next t ∧ (0, 0x10000) ∉ t.extents) ∧
    exec (.cxlForcedRelease 0 0x10000) (extended true true [entry 0x60000 0x300000000000 (.core 0) [1]]) =
      .next (extended true true [entry 0x60000 0x300000000000 (.core 0) [1]]) ∧
    (∃ t, exec (.linkFailure (17, [1])) linked = .next t ∧ t.reroute = true ∧ t.links.getLsbD 17 = false ∧ t.reach = []) ∧
    exec (.linkFailure (3, [1])) ({ linked with links := 0x3FFF7 }) = .next ({ linked with links := 0x3FFF7 }) ∧
    (∃ t, exec (.domainBringup 77 [5] true) { State.reset with reach := [1] } = .next t ∧ t.devid = 77 ∧ t.reach = [5]) ∧
    (∃ t, exec .securityAlarm halting = .next t ∧ t.links = 0 ∧ t.keys = false ∧ ∀ p ∈ t.launches, p.2.abort.isSome = true) ∧
    ∃ bs, bs.take 32 = List.replicate 32 3 ∧ exec (.attestationRequest (List.replicate 32 3)) base =
      .next { base with attest := base.attest ++ [(bs, base.keys && !base.alarm)] } := by
  obtain ⟨hc, hl, -, hb, ha, ht, -, -⟩ := h
  have rdc (s : State) (hs : s.dies.toList.all (fun x => Tab.sorted x.rdc) = true) (d : Nat) : Tab.sorted (s.die d).rdc = true :=
    die_of (f := fun x => Tab.sorted x.rdc) hs d
  refine ⟨?_, ?_, ?_, ?_, ?_, ?_, ?_, (hl ({ linked with links := 0x3FFF7 }) 3 [1]).1 rfl, ?_, ?_, ht base _ rfl rfl⟩
  · obtain ⟨t, hx, ⟨hm, -⟩, -, hr, -⟩ := (hc (extended false false []) 0 0x10000 (by decide +kernel)).1 (by decide +kernel) (by decide +kernel)
      (rdc _ (by decide +kernel))
    exact ⟨t, hx, hm 0x300000000004 (by decide +kernel), hr⟩
  · obtain ⟨t, hx, -, -, he⟩ := ((hc (extended true false []) 0 0x10000 (by decide +kernel)).2.1 (by decide +kernel) (rdc _ (by decide +kernel))).1 (by decide +kernel)
    exact ⟨t, hx, he⟩
  · exact ((hc (extended true false [entry 0x60000 0x300000000000 (.core 0) [1]]) 0 0x10000 (by decide +kernel)).2.1 (by decide +kernel)
      (rdc _ (by decide +kernel))).2 (by decide +kernel)
  · obtain ⟨t, hx, -⟩ := (hc (extended true false []) 0 0x10000 (by decide +kernel)).2.2.1 (by decide +kernel)
    exact ⟨t, hx⟩
  · obtain ⟨t, hx, -, he, -⟩ := ((hc (extended true true []) 0 0x10000 (by decide +kernel)).2.2.2 (by decide +kernel)).1 (by decide +kernel)
    exact ⟨t, hx, he⟩
  · exact ((hc (extended true true [entry 0x60000 0x300000000000 (.core 0) [1]]) 0 0x10000 (by decide +kernel)).2.2.2 (by decide +kernel)).2
      (by decide +kernel)
  · obtain ⟨t, hx, -, hk, hr, hs, -⟩ := (hl linked 17 [1]).2 (by decide +kernel)
    exact ⟨t, hx, hr, (hk 17 (by decide)).trans (by decide +kernel), hs.trans (by decide +kernel)⟩
  · obtain ⟨t, hx, hd, -, -, hr, -⟩ := hb { State.reset with reach := [1] } 77 [5] true (by decide) rfl rfl
      (fun d => List.isEmpty_iff.mp (die_of (f := fun x => x.ponds.isEmpty)
        (show State.reset.dies.toList.all (fun x => x.ponds.isEmpty) = true by decide +kernel) d))
      (fun p hp => nomatch hp)
    exact ⟨t, hx, hd, hr⟩
  · obtain ⟨t, hx, -, hk, -, -, hp, -⟩ := ha halting
    exact ⟨t, hx, (hp rfl rfl).2.1, hk, (hp rfl rfl).2.2 (by decide +kernel) (by decide +kernel)⟩

/-- A strand with reports pending. -/
def reporting (late : Option Word) (wd : Bool) : State := having fun x => { x with report := late, wdRep := wd, wd := 0x41 }

/-- Both pending at a strand parked where R420 lists no park. -/
def awaiting99 (p : Park) : State := having fun x => { x with report := some 99, wdRep := true, st := .parked p }

theorem test_meets_ReportsAreTakenAtBoundaries (h : Obligations.ReportsAreTakenAtBoundaries) :
    (∃ t, exec .deadline (reporting (some 99) true) = .next t ∧ t.self.cause = 8 ∧ t.self.einfo = 99 ∧ t.self.wdRep = true) ∧
    (∃ t, exec .withdrawn (reporting none true) = .next t ∧ t.self.cause = 0xC ∧ t.self.einfo = 0x41 ∧ t.self.pc = 0x20000) ∧
    exec .withdrawn (reporting (some 99) true) = .next (reporting (some 99) true) ∧
    exec .deadline (awaiting99 (.await 6)) = .next (awaiting99 (.await 6)) ∧ exec .withdrawn (awaiting99 (.relKept 0)) = .next (awaiting99 (.relKept 0)) ∧
    ∃ t, exec (.illop 0x08A63840) base = .next t ∧ t.self.cause = 1 ∧ t.self.einfo = 0x08A63840 := by
  refine ⟨?_, ?_, ?_, ((h (awaiting99 (.await 6)) (by decide +kernel)).2.2.1 _ rfl (.inl ⟨6, rfl⟩)).1,
    ((h (awaiting99 (.relKept 0)) (by decide +kernel)).2.2.1 _ rfl (.inr ⟨0, rfl⟩)).2, ⟨_, (h base (by decide +kernel)).2.2.2 0x08A63840, by decide +kernel, by decide +kernel⟩⟩
  · obtain ⟨t, hx, -, hs⟩ := (h (reporting (some 99) true) (by decide +kernel)).1 99 (by decide +kernel) (by decide +kernel)
    exact ⟨t, hx, by rw [hs]; decide +kernel, by rw [hs]; decide +kernel, by rw [hs]; decide +kernel⟩
  · obtain ⟨t, hx, -, hs⟩ := ((h (reporting none true) (by decide +kernel)).2.1 (by decide +kernel) (by decide +kernel)).1 (by decide +kernel)
    exact ⟨t, hx, by rw [hs]; decide +kernel, by rw [hs]; decide +kernel, by rw [hs]; decide +kernel⟩
  · exact ((h (reporting (some 99) true) (by decide +kernel)).2.1 (by decide +kernel) (by decide +kernel)).2 (by decide +kernel)

/-! Engine operations that have begun, and the turns of pond commands -/

/-- Writes at or above a bound leave the bytes below it alone. -/
theorem lastPut_below {ws : List (Nat × List Byte)} {b a : Nat} (h : ∀ w ∈ ws, b ≤ w.1) (ha : a < b) : lastPut ws a = none := by
  rw [lastPut, List.findSome?_eq_none_iff]
  intro w hw
  exact if_neg fun h' => absurd (Nat.le_trans (h w (List.mem_reverse.mp hw)) h') (Nat.not_le.mpr ha)

/-- `begunAt`, for operations that can be compared. -/
theorem begunAt_of {s : State} {c : Nat} {o : EngOp} (h : ((s.core c).ops = [o] ∧ o.st = .begun ∧ o.step = 0 ∧ o.part = [] ∧ o.zero = true ∧
    o.cancel = none ∧ o.joins = [] ∧ o.fwd = none ∧ o.dest ≠ 0 ∧ o.scope ≠ 5 ∧ (s.core c).ringWd = [] ∧ s.canonical = true ∧ s.upToDate c = true ∧
    s.badSectors = [] ∧ s.badWords = []) ∧ (match o.fill, o.src with | some t, some t' => decide (t % 64 ≠ t' % 64) | _, _ => true) = true ∧
    o.pop = none) : begunAt s c o := by
  obtain ⟨⟨h1, h2, h3, h4, h5, h6, h7, h8, h9, h10, h11, h12, h13, h14, h15⟩, h16, h17⟩ := h
  refine ⟨h1, h2, h3, h4, h5, h6, h7, h8, h9, h10, h11, h12, h13, h14, h15, fun t t' ht ht' => ?_, fun r hr => nomatch h17.symm.trans hr⟩
  rw [ht, ht'] at h16
  exact of_decide_eq_true h16

/-- `cutInto`, for pieces that can be compared. -/
theorem cutInto_of {s : State} {c : Nat} {o : EngOp} {va : Nat} {bs : List Byte} {ws : List (Nat × List Byte)}
    (h : (let ps := chunks (bs.length / 8 + 2) va bs.length
      decide (ws.length = ps.length) && (List.range ps.length).all fun k => match ps[k]?, ws[k]? with
        | some p, some w => decide (landsAt s c o none p.1 .engineWrite = some w.1) && decide (w.2 = (bs.drop (p.1 - va)).take p.2)
        | _, _ => true) = true) : cutInto s c o va bs ws := by
  simp only [Bool.and_eq_true, decide_eq_true_eq, List.all_eq_true, List.mem_range] at h
  refine ⟨h.1, fun k p w hp hw => ?_⟩
  have := h.2 k (List.getElem?_eq_some_iff.mp hp).1
  rw [hp, hw] at this
  simp only [Bool.and_eq_true, decide_eq_true_eq] at this
  exact ⟨engLands_of this.1, this.2⟩

/-- Writes to this device's memory, checked one by one. -/
theorem inMemories_of {s : State} {ws : List (Nat × List Byte)} (h : (ws.all fun w => (List.range w.2.length).all fun i =>
    decide (devOf (w.1 + i) = s.devid.toNat) &&
    match regionOf (localOf (w.1 + i)) with | .dram _ _ | .cxl _ => true | .spad _ off => decide (off < 0x80000) | _ => false) = true) :
    ∀ w ∈ ws, inMemory s w.1 w.2.length := fun w hw => inMemory_of (List.all_eq_true.mp h w hw)

/-- An operation that has begun, with registers, alone on core 0. -/
def begun (eng cmd : Nat) (ga gb : Word) (regs : List Word) (fill src : Option Nat) : EngOp :=
  { opOf eng cmd ga gb .begun 0 with regs := regs, fill := fill, src := src }

/-- Core 0 with an operation, tile 2 drained and tile 4 filled, and some bytes of memory. -/
def atWork (o : EngOp) (m : List (Nat × List Byte)) : State :=
  operating o (m.foldl (fun s p => s.homePut p.1 p.2) (withTiles [(2, tileIn 2048 3), (4, tileIn 8192 1)] [] base))

/-- Sources stand below this address, and what the operations write above it. -/
def below (a : Nat) : Bool := decide (a < pad + 0x1000)

/-- One unit of an operation, its writes and what is then in memory: the conclusion of the first clause. -/
theorem oneUnit (h : Obligations.EngineUnitsLeaveTheirResults) {s : State} {o : EngOp} (ws : List (Nat × List Byte)) (x : Nat)
    (hb : begunAt s 0 o) (hr : o.res = none) (hn : o.units = 1) (hu : unitDoes s 0 o below (fun _ => x) 0 ws) (hm : ∀ w ∈ ws, inMemory s w.1 w.2.length)
    (ha : ∀ w ∈ ws, pad + 0x1000 ≤ w.1) (he : (o.eng = 1 ∨ o.eng = 2 ∨ o.cmd = 0x10 ∨ o.cmd = 0x13) ∧ o.eng ≤ 2)
    (hf : o.fill ≠ none → o.eng = 0 ∨ o.eng = 1 ∧ o.dkind ≠ 0) :
    ∃ t, exec (.engineOpComplete 0 o.tag) s = .next t ∧ ∀ a, byteAt t a = (lastPut ws a).getD (byteAt s a) := by
  have e := h.1 s 0 o below (fun _ => x) (fun _ => ws) hb hr (fun i hi => by
    rw [hn] at hi
    obtain rfl : i = 0 := Nat.lt_one_iff.mp hi
    exact hu)
  have hw : (List.range o.units).flatMap (fun _ => ws) = ws := by rw [hn]; simp
  rw [hw] at e
  obtain ⟨t, ht, hp, -⟩ := e hm (fun a h => lastPut_below ha (of_decide_eq_true h)) he.1 he.2 hf
  exact ⟨t, ht, hp⟩

/-- A COPY of one binary32 number from memory, a FILLT of one into tile 4, and a GATHER of row 3 of one. -/
def copyOp : EngOp := begun 1 0 0x30000 0x31000 [0x4200010000, 1] none none
def filltOp : EngOp := begun 1 1 0x04030201 8 [0x4200014000, 1] (some 4) none
def gatherOp : EngOp :=
  begun 1 2 0x30000 0x31000 ([0x4200020000, 1, 1] ++ List.replicate 7 0 ++ [16] ++ List.replicate 7 0 ++ [16] ++ List.replicate 7 0 ++ [0x30800]) none none

def copying : State := atWork copyOp [(pad, [1, 2, 3, 4])]
def filling : State := atWork filltOp []
def gathering : State := atWork gatherOp [(pad + 48, [1, 2, 3, 4]), (pad + 0x800, [3])]

/-- A TOPK of the best of 1.0 and 2.0, and a MERGEL of a list of one. -/
def topkOp : EngOp := begun 2 0 0x30000 0x31000 [w64 (2 ^ 32 + 2 * 2 ^ 16 + 2 * 2 ^ 11 + 2 ^ 4), 8, 528] none none
def mergelOp : EngOp := begun 2 1 0x30000 0x31000 [w64 (2 ^ 32 + 2 * 2 ^ 11 + 2 ^ 4), 528, 0] none none

def selecting : State := atWork topkOp [(pad, natLe 0x400000003F800000 8)]
def mergingOne : State := atWork mergelOp [(pad, natLe 0x3F800000 4), (pad + 256, [7])]

/-- An MMV of one binary16 weight of 1.0 and a vector of one 2.0, from tile 2 to tile 4; and an MST of accumulator 1 to tile 4. -/
def mmvOp : EngOp := begun 0 0x10 0x30000 0 [0, 1, 1, 64, 0x30402] (some 4) (some 2)
def mstOp : EngOp := begun 0 0x13 1 4 [0, 0, 0, 0, 0, 2] (some 4) none

def vectoring : State := atWork mmvOp [(pad, [0, 0x3C]), (pad + 2048, [0, 0x40])]
def storingAcc : State := (atWork mstOp []).modCore 0 fun k => { k with acc := [(1025, 9)] }

theorem test_meets_EngineUnitsLeaveTheirResults (h : Obligations.EngineUnitsLeaveTheirResults) :
    (∃ t, exec (.engineOpComplete 0 5) copying = .next t ∧ byteAt t (pad + 0x1002) = 3) ∧
    (∃ t, exec (.engineOpComplete 0 5) filling = .next t ∧ byteAt t (pad + 8192 + 8) = 1) ∧
    (∃ t, exec (.engineOpComplete 0 5) gathering = .next t ∧ byteAt t (pad + 0x1002) = 3) ∧
    (∃ t, exec (.engineOpComplete 0 5) selecting = .next t ∧ byteAt t (pad + 0x1003) = 0x40 ∧ byteAt t (pad + 0x1100) = 1 ∧ byteAt t (pad + 0x1206) = 0x80) ∧
    (∃ t, exec (.engineOpComplete 0 5) mergingOne = .next t ∧ byteAt t (pad + 0x1003) = 0x3F ∧ byteAt t (pad + 0x1100) = 7) ∧
    (∃ t, exec (.engineOpComplete 0 5) vectoring = .next t ∧ byteAt t (pad + 8192 + 3) = 0x40) ∧
    ∃ t, exec (.engineOpComplete 0 5) storingAcc = .next t ∧ byteAt t (pad + 8192 + 1) = 9 := by
  refine ⟨?_, ?_, ?_, ?_, ?_, ?_, ?_⟩
  · obtain ⟨t, ht, hb⟩ := oneUnit h (s := copying) (o := copyOp) [(pad + 0x1000, [1, 2, 3, 4])] 0x04030201
      (begunAt_of (by decide +kernel)) rfl (by decide +kernel) ⟨⟨[1, 2, 3, 4], rfl, engSees_of (by decide +kernel), by decide +kernel⟩,
        _, rfl, engLands_of (by decide +kernel), by decide +kernel⟩ (inMemories_of (by decide +kernel)) (by decide) (by decide) (fun h => absurd rfl h)
    exact ⟨t, ht, (hb _).trans (by decide +kernel)⟩
  · obtain ⟨t, ht, hb⟩ := oneUnit h (s := filling) (o := filltOp) [(pad + 8200, [1, 2, 3, 4])] 0x04030201
      (begunAt_of (by decide +kernel)) rfl (by decide +kernel) ⟨by decide +kernel, _, rfl, engLands_of (by decide +kernel), by decide +kernel⟩
      (inMemories_of (by decide +kernel)) (by decide) (by decide) (fun _ => .inr (by decide +kernel))
    exact ⟨t, ht, (hb _).trans (by decide +kernel)⟩
  · obtain ⟨t, ht, hb⟩ := oneUnit h (s := gathering) (o := gatherOp) [(pad + 0x1000, [1, 2, 3, 4])] 0x04030201
      (begunAt_of (by decide +kernel)) rfl (by decide +kernel) ⟨[3, 0, 0, 0], rfl, engSees_of (by decide +kernel), rfl, fun j hj => by
        obtain rfl : j = 0 := Nat.lt_one_iff.mp hj
        exact ⟨⟨[1, 2, 3, 4], rfl, engSees_of (by decide +kernel), by decide +kernel⟩, fun w hw => by
          cases hw; exact ⟨engLands_of (by decide +kernel), by decide +kernel⟩⟩⟩
      (inMemories_of (by decide +kernel)) (by decide) (by decide) (fun h => absurd rfl h)
    exact ⟨t, ht, (hb _).trans (by decide +kernel)⟩
  · obtain ⟨t, ht, hb⟩ := oneUnit h (s := selecting) (o := topkOp) [(pad + 0x1000, [0, 0, 0, 0x40]), (pad + 0x1100, [1, 0, 0, 0]),
        (pad + 0x1200, natLe 0x3F80000040000000 8), (pad + 0x1208, List.replicate 8 0)] 0
      (begunAt_of (by decide +kernel)) rfl (by decide +kernel) ⟨natLe 0x400000003F800000 8, by decide +kernel, engSees_of (by decide +kernel),
        [_], [_], [_, _], rfl, cutInto_of (by decide +kernel), cutInto_of (by decide +kernel), cutInto_of (by decide +kernel)⟩
      (inMemories_of (by decide +kernel)) (by decide) (by decide) (fun h => absurd rfl h)
    exact ⟨t, ht, (hb _).trans (by decide +kernel), (hb _).trans (by decide +kernel), (hb _).trans (by decide +kernel)⟩
  · obtain ⟨t, ht, hb⟩ := oneUnit h (s := mergingOne) (o := mergelOp) [(pad + 0x1000, [0, 0, 0x80, 0x3F]),
        (pad + 0x1100, [7, 0, 0, 0]), (pad + 0x1200, natLe 0x3F800000 8), (pad + 0x1208, List.replicate 8 0)] 0
      (begunAt_of (by decide +kernel)) rfl (by decide +kernel)
      ⟨fun _ => natLe 0x3F800000 4, fun _ => [7, 0, 0, 0], fun _ => [0, 0, 0, 0], fun l hl => by
        obtain rfl : l = 0 := Nat.lt_one_iff.mp hl
        exact ⟨rfl, rfl, rfl, engSees_of (by decide +kernel), engSees_of (by decide +kernel), engSees_of (by decide +kernel)⟩,
        [_], [_], [_, _], rfl, cutInto_of (by decide +kernel), cutInto_of (by decide +kernel), cutInto_of (by decide +kernel)⟩
      (inMemories_of (by decide +kernel)) (by decide) (by decide) (fun h => absurd rfl h)
    exact ⟨t, ht, (hb _).trans (by decide +kernel), (hb _).trans (by decide +kernel)⟩
  · obtain ⟨t, ht, hb⟩ := oneUnit h (s := vectoring) (o := mmvOp) [(pad + 8192, natLe 0x40000000 4)] 0
      (begunAt_of (by decide +kernel)) rfl (by decide +kernel) ⟨[0, 0x3C], [0, 0x40], [], [], by decide +kernel, by decide +kernel,
        engSees_of (by decide +kernel), engSees_of (by decide +kernel), rfl, rfl, by decide +kernel⟩
      (inMemories_of (by decide +kernel)) (by decide) (by decide) (fun _ => .inl rfl)
    exact ⟨t, ht, (hb _).trans (by decide +kernel)⟩
  · obtain ⟨t, ht, hb⟩ := oneUnit h (s := storingAcc) (o := mstOp) [(pad + 8192, mstBytes mstOp [(1025, 9)])] 0
      (begunAt_of (by decide +kernel)) rfl (by decide +kernel)
      (show [_] = [(storingAcc.tileAddr 0 (mstOp.fill.getD 0) 0, mstBytes mstOp (storingAcc.core 0).acc)] by decide +kernel)
      (inMemories_of (by decide +kernel)) (by decide +kernel) (by decide) (fun _ => .inl rfl)
    exact ⟨t, ht, (hb _).trans (by decide +kernel)⟩

/-- An MLD of tile 2 into accumulator 1, an MCLR of accumulators 0 and 2, and accumulators with something in each. -/
def mldOp : EngOp := begun 0 0x12 1 2 [] none (some 2)
def mclrOp : EngOp := begun 0 0x11 5 0 [] none none
def accumulated (o : EngOp) : State := (atWork o [(pad + 2048, [7])]).modCore 0 fun k => { k with acc := [(0, 3), (1024, 4), (2048, 5), (3072, 6)] }

/-- A collective and a TJGET with their results; slot 3 of the store has two holds, one of them the TJGET's, and slot 4 is HELD by it alone. -/
def resultOp (eng : Nat) (fill : Option Nat) (r : OpResult) : EngOp := { begun eng 0 0 0 [] fill none with res := some r }
def colResultOp : EngOp := resultOp 3 none ⟨0, 1, [(0x31004, [1, 2, 3, 4, 5, 6, 7, 8])], 1, [0], []⟩
def getResultOp : EngOp := resultOp 4 (some 4) ⟨0, 2, [], 1, [2 * 2 ^ 24 + 3, 2 * 2 ^ 24 + 4], List.replicate 16 8⟩
def heldPond : Pond := { newPond with slots := [(3, ⟨.closed, 0, 9, 2, 0xFFFFFFFF, 2⟩), (4, ⟨.held, 1, 0, 0, 0, 1⟩)] }
def gathered : State := (atWork getResultOp []).modDie 0 fun d => { d with ponds := [(2, heldPond)] }

theorem test_meets_EngineUnitsLeaveTheirResults_otherwise (h : Obligations.EngineUnitsLeaveTheirResults) :
    (∃ t, exec (.engineOpComplete 0 5) (accumulated mldOp) = .next t ∧ mget (t.core 0).acc 1024 = 7 ∧ mget (t.core 0).acc 2048 = 5) ∧
    (∃ t, exec (.engineOpComplete 0 5) (accumulated mclrOp) = .next t ∧ mget (t.core 0).acc 0 = 0 ∧ mget (t.core 0).acc 1024 = 4) ∧
    (∃ t, exec (.engineOpComplete 0 5) (atWork colResultOp []) = .next t ∧ byteAt t (pad + 0x100B) = 8) ∧
    ∃ t q, exec (.engineOpComplete 0 5) gathered = .next t ∧ t.pond 0 2 = some q ∧ (q.slot 3).holds = 1 ∧ (q.slot 4).st = .free ∧
      byteAt t (pad + 8192 + 15) = 8 := by
  refine ⟨?_, ?_, ?_, ?_⟩
  · obtain ⟨t, ht, -, -, ha⟩ := (h.2.1 (accumulated mldOp) 0 mldOp (begunAt_of (by decide +kernel)) rfl rfl (by decide +kernel)).1 2
      (7 :: List.replicate 1023 0) rfl rfl (by decide +kernel) (by decide +kernel)
    exact ⟨t, ht, (ha 1024).trans (by decide +kernel), (ha 2048).trans (by decide +kernel)⟩
  · obtain ⟨t, ht, -, -, ha⟩ := (h.2.1 (accumulated mclrOp) 0 mclrOp (begunAt_of (by decide +kernel)) rfl rfl (by decide +kernel)).2 rfl
    exact ⟨t, ht, (ha 0 (by decide)).trans (by decide +kernel), (ha 1024 (by decide)).trans (by decide +kernel)⟩
  · obtain ⟨t, ht, hb, -⟩ := h.2.2 (atWork colResultOp []) 0 colResultOp _ (fun _ => [(pad + 0x1004, [1, 2, 3, 4]), (pad + 0x1008, [5, 6, 7, 8])])
      (begunAt_of (by decide +kernel)) rfl (.inl rfl) (by decide) (fun i w hw => by
        obtain rfl : i = 0 := Nat.lt_one_iff.mp (List.getElem?_eq_some_iff.mp hw).1
        cases hw; exact cutInto_of (by decide +kernel)) (inMemories_of (by decide +kernel))
    exact ⟨t, ht, (hb _).trans (by decide +kernel)⟩
  · obtain ⟨t, ht, hb, -, hp⟩ := h.2.2 gathered 0 getResultOp _ (fun _ => [])
      (begunAt_of (by decide +kernel)) rfl (.inr rfl) (by decide) (fun i w hw => nomatch hw) (inMemories_of (by decide +kernel))
    obtain ⟨q, hq, hs⟩ := hp 0 2 heldPond (by decide) (by decide) (by decide +kernel)
    exact ⟨t, q, ht, hq, by rw [hs 3 (by decide)]; decide +kernel, by rw [hs 4 (by decide)]; decide +kernel, (hb _).trans (by decide +kernel)⟩

/-- Store 2 of die 0 with slot 3 CLOSED and slot 4 OPEN, room for four steps in each. -/
def somePond : Pond :=
  { newPond with maxsteps := 4, slots := [(3, ⟨.closed, 0, 9, 2, 5, 0⟩), (4, ⟨.open_, 1, 0, 1, 7, 0⟩)] }

/-- A pond command at the head of core 0's engine; a batch of one, or windows of two into tile 4, or one step to append. -/
def pondOp (cmd : Nat) (ga gb : Word) : EngOp :=
  { opOf 4 cmd ga gb .queued 0 with regs := [0x80, w64 (2 ^ 32), 5, w64 (4 * 2 ^ 32 + 2 * 2 ^ 16 + 1)], z := 128 }

def ponded (cmd : Nat) (ga gb : Word) (ps : Tab Pond) : State :=
  (operating (pondOp cmd ga gb) (((withTiles [(4, tileIn 8192 0)] [] base).homePut pad (natLe (2 * 2 ^ 36 + 3 * 2 ^ 8) 8)).homePut (pad + 28) [1])).modDie 0
    fun d => { d with ponds := ps }

/-- Handles of slots 3 and 4, and one that names nothing any more. -/
def handle3 : Word := w64 (2 * 2 ^ 36 + 3 * 2 ^ 8)
def handle4 : Word := w64 (2 * 2 ^ 36 + 4 * 2 ^ 8 + 1)

theorem pondAt_of {s : State} {c : Nat} {o : EngOp} {d t : Nat} (h : (s.core c).ops = [o] ∧ o.eng = 4 ∧ o.st = .queued ∧ o.cancel = none ∧ d < 4 ∧
    t < 16 ∧ s.badSectors = [] ∧ s.badWords = [] ∧ s.failed = 0 ∧ s.devid.toNat < 1536 ∧ s.canonical = true) : pondAt s c o d t := h

theorem pondHas_of {s : State} {o : EngOp} {d t : Nat} {p : Pond} (h : s.pond d t = some p ∧ p.ctx = o.ctx ∧ p.dying = none ∧ p.lcap ≤ 24 ∧
    Tab.sorted p.slots = true ∧ ∀ q ∈ p.slots, q.1 < 2 ^ p.lcap) : pondHas s o d t p := h

/-- The status of a command's result. -/
def statusOf (s : State) : List (Option Nat) := (s.core 0).ops.map fun o => o.res.map (·.status)

theorem taken {u : State} {o : EngOp} {d t : Nat} {r : OpResult} {p : Pond} (h : turnTaken u 0 o d t r p) : statusOf u = [some r.status] := by
  rw [statusOf, h.1]; rfl

theorem turnGives_close {o : EngOp} {d t : Nat} {p : Pond} (hc : o.cmd = 2) (hl : liveSlot p o.ga = true)
    (hn : ¬((p.slot (o.ga.toNat / 2 ^ 8 % 2 ^ 24)).st ≠ .open_ ∨ (p.slot (o.ga.toNat / 2 ^ 8 % 2 ^ 24)).steps = 0)) :
    turnGives o d t p (plainly 0 1) (p.setSlot (o.ga.toNat / 2 ^ 8 % 2 ^ 24)
      { p.slot (o.ga.toNat / 2 ^ 8 % 2 ^ 24) with st := .closed, p := o.gb.toNat % 2 ^ 32 }) := by
  unfold turnGives
  simp only [hc, hl, if_true, if_neg hn]
  exact ⟨trivial, trivial⟩

theorem turnGives_priOpen {o : EngOp} {d t : Nat} {p : Pond} (hc : o.cmd = 5) (hl : liveSlot p o.ga = true)
    (hn : (p.slot (o.ga.toNat / 2 ^ 8 % 2 ^ 24)).st = .open_) : turnGives o d t p (plainly 9 0) p := by
  unfold turnGives
  simp only [hc, hl, if_true, if_pos hn]
  exact ⟨trivial, trivial⟩

theorem turnGives_gone {o : EngOp} {d t : Nat} {p : Pond} (hc : o.cmd = 6) (hl : liveSlot p o.ga = false) :
    turnGives o d t p (plainly 5 0) { p with gones := p.gones + 1 } := by
  unfold turnGives
  simp only [hc, hl, Bool.false_eq_true, if_false]
  exact ⟨trivial, trivial⟩

/-- One turn of a command that reads nothing. -/
theorem oneTurn (h : Obligations.PondCommandsTakeTheirTurns) (cmd : Nat) (ga gb : Word) (r : OpResult) (p : Pond)
    (ha : pondAt (ponded cmd ga gb [(2, somePond)]) 0 (pondOp cmd ga gb) 0 2) (hs : (pondOp cmd ga gb).store = (0, 2)) (hc : cmd ∈ [0, 2, 5, 6, 7, 8])
    (hp : pondHas (ponded cmd ga gb [(2, somePond)]) (pondOp cmd ga gb) 0 2 somePond) (hg : turnGives (pondOp cmd ga gb) 0 2 somePond r p) :
    ∃ t, exec (.engineOpBegin 0 4) (ponded cmd ga gb [(2, somePond)]) = .next t ∧ statusOf t = [some r.status] := by
  obtain ⟨t, ht, -, hx⟩ := (h.1 _ 0 (pondOp cmd ga gb) 0 2 ha hs hc).1 somePond r p hp hg
  exact ⟨t, ht, taken hx⟩

theorem test_meets_PondCommandsTakeTheirTurns (h : Obligations.PondCommandsTakeTheirTurns) :
    (∃ t, exec (.engineOpBegin 0 4) (ponded 0 0 0 [(2, somePond)]) = .next t ∧ statusOf t = [some 0]) ∧
    (∃ t, exec (.engineOpBegin 0 4) (ponded 2 handle4 6 [(2, somePond)]) = .next t ∧ statusOf t = [some 0]) ∧
    (∃ t, exec (.engineOpBegin 0 4) (ponded 5 handle4 6 [(2, somePond)]) = .next t ∧ statusOf t = [some 9]) ∧
    (∃ t, exec (.engineOpBegin 0 4) (ponded 6 (handle3 + 1) 0 [(2, somePond)]) = .next t ∧ statusOf t = [some 5]) ∧
    (∃ t, exec (.engineOpBegin 0 4) (ponded 7 8 9 [(2, somePond)]) = .next t ∧ statusOf t = [some 0]) ∧
    (∃ t, exec (.engineOpBegin 0 4) (ponded 8 0 0x31000 [(2, somePond)]) = .next t ∧ statusOf t = [some 0]) ∧
    (∃ t, exec (.engineOpBegin 0 4) (ponded 0 0 0 []) = .next t ∧ statusOf t = [some 0xB]) ∧
    ∃ t, exec (.engineOpBegin 0 4) ({ ponded 2 handle4 6 [(2, somePond)] with failed := 0xFFFF }) = .next t ∧ (t.core 0).ops = [] ∧
      t.pond 0 2 = some somePond := by
  refine ⟨oneTurn h 0 0 0 _ _ (pondAt_of (by decide +kernel)) (by decide +kernel) (by decide) (pondHas_of (by decide +kernel))
      (.inr ⟨0, by decide, by decide +kernel, fun k hk => absurd hk (Nat.not_lt_zero k), rfl, rfl⟩),
    oneTurn h 2 handle4 6 _ _ (pondAt_of (by decide +kernel)) (by decide +kernel) (by decide) (pondHas_of (by decide +kernel))
      (turnGives_close rfl (by decide +kernel) (by decide +kernel)),
    oneTurn h 5 handle4 6 _ _ (pondAt_of (by decide +kernel)) (by decide +kernel) (by decide) (pondHas_of (by decide +kernel))
      (turnGives_priOpen rfl (by decide +kernel) (by decide +kernel)),
    oneTurn h 6 (handle3 + 1) 0 _ _ (pondAt_of (by decide +kernel)) (by decide +kernel) (by decide) (pondHas_of (by decide +kernel))
      (turnGives_gone rfl (by decide +kernel)),
    oneTurn h 7 8 9 (plainly 0 0) { somePond with version := 8, lag := 9 } (pondAt_of (by decide +kernel)) (by decide +kernel) (by decide)
      (pondHas_of (by decide +kernel)) ⟨rfl, by decide +kernel⟩,
    oneTurn h 8 0 0x31000 _ somePond (pondAt_of (by decide +kernel)) (by decide +kernel) (by decide) (pondHas_of (by decide +kernel)) ⟨rfl, rfl⟩, ?_, ?_⟩
  · obtain ⟨t, ht, -, ho, -⟩ := (h.1 (ponded 0 0 0 []) 0 (pondOp 0 0 0) 0 2 (pondAt_of (by decide +kernel)) (by decide +kernel) (by decide)).2
      (fun p hp => absurd ((show (ponded 0 0 0 []).pond 0 2 = none by decide +kernel).symm.trans hp) (Option.some_ne_none p).symm)
    exact ⟨t, ht, by rw [statusOf, ho]; rfl⟩
  · obtain ⟨t, ht, -, ho, hp⟩ := h.2.2.2.2 ({ ponded 2 handle4 6 [(2, somePond)] with failed := 0xFFFF }) 0 (pondOp 2 handle4 6) 0 2 somePond
      (by decide +kernel) rfl rfl rfl rfl rfl rfl rfl rfl (by decide) (by decide) rfl (by decide +kernel) (by decide) (by decide +kernel) (by decide +kernel)
      (by decide +kernel) rfl (by decide) (by decide +kernel) (by decide +kernel)
    exact ⟨t, ht, ho.1, hp⟩

/-- The step record that a TJAPP of 0x30000 reads: a handle and a one, and zeros. -/
def firstRec : List Byte := natLe handle3.toNat 8 ++ List.replicate 20 0 ++ [1] ++ List.replicate 99 0

theorem test_meets_PondCommandsTakeTheirTurns_reading (h : Obligations.PondCommandsTakeTheirTurns) :
    (∃ t, exec (.engineOpBegin 0 4) (ponded 1 handle4 0x30000 [(2, somePond)]) = .next t ∧ byteAt t (0x200000 + 65536 + 17 * 128 + 4) = 1) ∧
    (∃ t, exec (.engineOpBegin 0 4) (ponded 1 handle3 0x30000 [(2, somePond)]) = .next t ∧ statusOf t = [some 9]) ∧
    (∃ t, exec (.engineOpBegin 0 4) (ponded 1 handle4 0x30000 [(2, { somePond with maxsteps := 1 })]) = .next t ∧ statusOf t = [some 0xA]) ∧
    (∃ t, exec (.engineOpBegin 0 4) (ponded 3 0x31000 0 [(2, somePond)]) = .next t ∧ statusOf t = [some 0]) ∧
    (∃ t, exec (.engineOpBegin 0 4) (ponded 3 0x31000 0 [(2, newPond)]) = .next t ∧ statusOf t = [some 7]) ∧
    (∃ t, exec (.engineOpBegin 0 4) (ponded 4 0x30000 1 [(2, somePond)]) = .next t ∧ (t.core 0).owned 4 = true) ∧
    ∃ t, exec (.engineOpBegin 0 4) (ponded 4 0x30000 1 [(2, newPond)]) = .next t ∧ statusOf t = [some 5] := by
  have app (g : Word) (p : Pond) (ha : pondAt (ponded 1 g 0x30000 [(2, p)]) 0 (pondOp 1 g 0x30000) 0 2) (hs : (pondOp 1 g 0x30000).store = (0, 2))
      (hp : pondHas (ponded 1 g 0x30000 [(2, p)]) (pondOp 1 g 0x30000) 0 2 p) (hN : (pondOp 1 g 0x30000).pNapp = 1)
      (hl : firstRec.length = max 64 (pondOp 1 g 0x30000).z) (he : engSees (ponded 1 g 0x30000 [(2, p)]) 0 (pondOp 1 g 0x30000) (fun _ => true) none 0x30000 firstRec) :=
    h.2.1 _ 0 (pondOp 1 g 0x30000) 0 2 p (fun _ => firstRec) ha rfl hs hp (fun n hn => by
      rw [hN] at hn
      obtain rfl := Nat.lt_one_iff.mp hn
      exact ⟨hl, he⟩)
  have smp (p : Pond) (ha : pondAt (ponded 3 0x31000 0 [(2, p)]) 0 (pondOp 3 0x31000 0) 0 2) (hs : (pondOp 3 0x31000 0).store = (0, 2))
      (hp : pondHas (ponded 3 0x31000 0 [(2, p)]) (pondOp 3 0x31000 0) 0 2 p) :=
    h.2.2.1 _ 0 (pondOp 3 0x31000 0) 0 2 p (fun j => (mix64x3 5 p.smpseq (BitVec.ofNat 64 j)).toNat) (fun _ => 3) ha rfl hs hp (fun j _ => by
      rw [if_neg (by decide +kernel)]; rfl)
  have get (p : Pond) (img : Nat → Nat → List Byte) (ha : pondAt (ponded 4 0x30000 1 [(2, p)]) 0 (pondOp 4 0x30000 1) 0 2)
      (hp : pondHas (ponded 4 0x30000 1 [(2, p)]) (pondOp 4 0x30000 1) 0 2 p)
      (he : engSees (ponded 4 0x30000 1 [(2, p)]) 0 (pondOp 4 0x30000 1) (fun _ => true) none 0x30000 (natLe handle3.toNat 8))
      (hs : engSees (ponded 4 0x30000 1 [(2, p)]) 0 (pondOp 4 0x30000 1) (fun _ => true) none (0x30000 + 28) (natLe 1 4)) :=
    h.2.2.2.1 _ 0 (pondOp 4 0x30000 1) 0 2 p (fun _ => handle3) (fun _ => 1) img ha rfl hp (by decide) (fun r hr => by
      obtain rfl : r = 0 := Nat.lt_one_iff.mp (show r < 1 from hr)
      exact ⟨by decide, by decide, by decide, by decide, he, hs⟩)
  refine ⟨?_, ?_, ?_, ?_, ?_, ?_, ?_⟩
  · have e := app handle4 somePond (pondAt_of (by decide +kernel)) (by decide +kernel) (pondHas_of (by decide +kernel)) (by decide +kernel) (by decide +kernel)
      (engSees_of (by decide +kernel))
    dsimp only at e
    rw [if_neg (by decide +kernel), if_neg (by decide +kernel), if_neg (by decide +kernel), if_neg (by decide +kernel)] at e
    obtain ⟨t, ht, hb, -⟩ := e (inMemories_of (by decide +kernel))
    exact ⟨t, ht, (hb _).trans (by decide +kernel)⟩
  · have e := app handle3 somePond (pondAt_of (by decide +kernel)) (by decide +kernel) (pondHas_of (by decide +kernel)) (by decide +kernel) (by decide +kernel)
      (engSees_of (by decide +kernel))
    dsimp only at e
    rw [if_neg (by decide +kernel), if_neg (by decide +kernel), if_pos (by decide +kernel)] at e
    obtain ⟨t, ht, -, hx⟩ := e
    exact ⟨t, ht, taken hx⟩
  · have e := app handle4 { somePond with maxsteps := 1 } (pondAt_of (by decide +kernel)) (by decide +kernel) (pondHas_of (by decide +kernel)) (by decide +kernel) (by decide +kernel)
      (engSees_of (by decide +kernel))
    dsimp only at e
    rw [if_neg (by decide +kernel), if_neg (by decide +kernel), if_neg (by decide +kernel), if_pos (by decide +kernel)] at e
    obtain ⟨t, ht, -, hx⟩ := e
    exact ⟨t, ht, taken hx⟩
  · obtain ⟨t, ht, -, hx⟩ := (smp somePond (pondAt_of (by decide +kernel)) (by decide +kernel) (pondHas_of (by decide +kernel))).2 (by decide +kernel)
      (by decide +kernel)
    exact ⟨t, ht, taken hx⟩
  · obtain ⟨t, ht, -, hx⟩ := (smp newPond (pondAt_of (by decide +kernel)) (by decide +kernel) (pondHas_of (by decide +kernel))).1 (by decide +kernel)
    exact ⟨t, ht, taken hx⟩
  · obtain ⟨t, q, ht, -, -, -, ho, -⟩ := (get somePond (fun _ _ => List.replicate 128 0) (pondAt_of (by decide +kernel)) (pondHas_of (by decide +kernel))
      (engSees_of (by decide +kernel)) (engSees_of (by decide +kernel)) (by decide +kernel) (by decide +kernel) (by decide +kernel) (by decide +kernel)).2
      (fun r hr => by
        obtain rfl : r = 0 := Nat.lt_one_iff.mp (show r < 1 from hr)
        refine ⟨by decide +kernel, fun w hw => ?_⟩
        have hw : w = 0 ∨ w = 1 := by have : w < 2 := hw; omega
        obtain rfl | rfl := hw
        · rw [if_neg (by decide +kernel)]
          exact ⟨inMemory_of (by decide +kernel), by decide +kernel⟩
        · rw [if_pos (by decide +kernel)]
          decide +kernel)
    exact ⟨t, ht, ho⟩
  · obtain ⟨t, ht, -, hx⟩ := (get newPond (fun _ _ => []) (pondAt_of (by decide +kernel)) (pondHas_of (by decide +kernel))
      (engSees_of (by decide +kernel)) (engSees_of (by decide +kernel)) (by decide +kernel) (by decide +kernel) (by decide +kernel) (by decide +kernel)).1
      0 (by decide) (fun q hq => absurd hq (Nat.not_lt_zero q)) (by decide +kernel)
    exact ⟨t, ht, taken hx⟩

end Sys2Proof.Tests
end

section
/-! SUPPORT. Canonical memories (StepsKeepCanonicalMemory): traps, faults and their waiters, control space, walks, stores that land, and
what a stop leaves. Each operation on a state that is canonical leaves one that is. -/

namespace Sys2Proof.Machine

variable {s : State}

/-- A value under a name of its own, which nothing unfolds: where a proof rests only on what holds of a callee, the kernel is not to
run it. -/
theorem exists_name {α : Sort _} (x : α) : ∃ y, x = y := ⟨_, rfl⟩

/-- What every step of a fold keeps, the fold keeps: the form of `foldl_keeps` for canonical states. -/
theorem canonical_fold {β : Type} {f : State → β → State} (hf : ∀ t b, t.canonical = true → (f t b).canonical = true) (l : List β)
    (h : s.canonical = true) : (l.foldl f s).canonical = true := foldl_keeps hf l h

/-- A choice between two canonical states is canonical. -/
theorem canonical_ite {p : Prop} [Decidable p] {t u : State} (ht : t.canonical = true) (hu : u.canonical = true) :
    (if p then t else u).canonical = true := by
  split
  · exact ht
  · exact hu

theorem canonical_ite_snd {α : Type} {p : Prop} [Decidable p] {a b : α × State} (ha : a.2.canonical = true) (hb : b.2.canonical = true) :
    (if p then a else b).2.canonical = true := by
  split
  · exact ha
  · exact hb

theorem canonical_pair {α : Type} {x : α} (h : s.canonical = true) : (x, s).2.canonical = true := h

theorem canonical_getD {o : Option State} (h : s.canonical = true) (ho : ∀ t, o = some t → t.canonical = true) :
    (o.getD s).canonical = true := by
  cases o with
  | none => exact h
  | some t => exact ho t rfl

variable (h : s.canonical = true)
include h

/-! Traps and what they give back -/

theorem canonical_modLaunch {k : BitVec 24} {f : Launch → Launch} : (s.modLaunch k f).canonical = true := by
  unfold State.modLaunch
  split <;> exact h

theorem canonical_leaveFault {c l : Nat} : (s.leaveFault c l).canonical = true := by
  unfold State.leaveFault
  dsimp only
  split <;> exact h

theorem canonical_unpop {c l : Nat} : (s.unpop c l).canonical = true := by
  unfold State.unpop
  dsimp only
  split <;> exact h

theorem canonical_unreserve {c l : Nat} : (s.unreserve c l).canonical = true := by
  unfold State.unreserve
  split <;> exact h

theorem canonical_letGo {c l : Nat} : (s.letGo c l).canonical = true := by
  have hu : ((if ((s.core c).pipeOf l).isSome then s.unpop c l else s).unreserve c l).canonical = true :=
    canonical_unreserve (canonical_ite (canonical_unpop h) h)
  exact canonical_ite (t := State.modCore _ _ _) hu hu

theorem canonical_abortLaunch {key : BitVec 24} {first : Word × Word × Word × Word} : (s.abortLaunch key first).canonical = true := by
  have hf (cs : List Nat) : (cs.foldl (fun s c => (List.range 16).foldl (fun s l => s.leaveFault c l) s) s).canonical = true :=
    canonical_fold (fun t c ht => canonical_fold (fun t l ht => canonical_leaveFault ht) _ ht) cs h
  exact canonical_modLaunch (canonical_fold (f := fun s c => s.dropReports c) (fun t c ht => ht) _ (hf _))

theorem canonical_trapEntry {c l : Nat} {cause : BitVec 8} {info : Word} : (s.trapEntry c l cause info).canonical = true := by
  unfold State.trapEntry
  dsimp only
  split
  · exact canonical_abortLaunch ((canonical_modStrand ..).trans h)
  · exact h

theorem canonical_fetchTrap {c l : Nat} {cause : BitVec 8} {info : Word} : (s.fetchTrap c l cause info).canonical = true := by
  have ht : ((s.letGo c l).trapEntry c l cause info).canonical = true := canonical_trapEntry (canonical_letGo h)
  exact canonical_ite (canonical_abortLaunch ht) ht

/-! Fault records and their waiters -/

theorem canonical_postFault {d : Nat} {r : FqRec} : (s.postFault d r).2.canonical = true := by
  unfold State.postFault
  dsimp only
  split
  · exact h
  split
  · exact h
  · split <;> split <;> exact h

theorem canonical_strandFault {c l va : Nat} {kind : Kind} {reason level : Nat} {ras upd : Bool} :
    (s.strandFault c l va kind reason level ras upd).canonical = true := by
  unfold State.strandFault
  dsimp only
  split <;> exact canonical_postFault h

theorem canonical_tlbDrop {d : Nat} {p : TlbEnt → Bool} : (s.tlbDrop d p).canonical = true := h

theorem canonical_wakeWaiter {outcome d e c l : Nat} : (s.wakeWaiter outcome d e c l).canonical = true := by
  unfold State.wakeWaiter
  split
  · exact canonical_ite (canonical_ite h (canonical_ite (canonical_trapEntry (canonical_letGo h))
      (canonical_ite (canonical_fetchTrap h) (canonical_trapEntry (canonical_letGo h))))) h
  · exact h

theorem canonical_resolveFault {d e outcome : Nat} : (s.resolveFault d e outcome).canonical = true := by
  unfold State.resolveFault
  split
  · exact h
  · refine canonical_ite h ?_
    refine canonical_fold (fun t c ht => canonical_fold (fun t l ht => canonical_wakeWaiter ht) _ ht) _ ?_
    exact canonical_ite (canonical_tlbDrop h) h

theorem canonical_writeFqTail {d : Nat} {v : Word} : (s.writeFqTail d v).canonical = true := canonical_ite h h

theorem canonical_writeFqReplay {d : Nat} {v : Word} : (s.writeFqReplay d v).canonical = true :=
  canonical_ite h (canonical_resolveFault h)

theorem canonical_writeControl {pa : Nat} {v : Word} : (s.writeControl pa v).canonical = true := by
  unfold State.writeControl
  split
  · exact canonical_ite (canonical_writeFqTail h) (canonical_ite (canonical_writeFqReplay h) (canonical_ite h (canonical_ite h h)))
  · exact h
  · exact h

/-! Spans of memory -/

theorem canonical_settleBoth {pa : Nat} : (s.settleBoth pa).canonical = true := canonical_settle _ (canonical_settle _ h)

theorem canonical_writeSpan {pa : Nat} {bs : List Byte} : (s.writeSpan pa bs).canonical = true :=
  canonical_fold (fun _ _ ht => canonical_perform _ _ (canonical_settleBoth ht)) _ h

theorem canonical_rdcFlushAll {d : Nat} : (s.rdcFlushAll d).canonical = true := canonical_fold (fun _ n ht => canonical_rdcFlush d n ht) _ h

theorem canonical_readAt {p : Place} {pa n : Nat} : (s.readAt p pa n).2.canonical = true := by
  cases p with
  | control => exact h
  | core c => exact canonical_settle _ h
  | device d b =>
    unfold State.readAt
    dsimp only
    split <;> exact canonical_settle _ h

theorem canonical_readAtHome {c l : Nat} {a : Access} {n : Nat} : (s.readAtHome c l a n).2.canonical = true := by
  have hr := canonical_readAt h (p := a.place) (pa := a.pa) (n := n)
  unfold State.readAtHome
  split
  · next e => exact (canonical_fillFor ..).trans (by rwa [e] at hr)
  · exact hr

/-- What a fold over pairs of a value and a state keeps of the state. -/
theorem canonical_foldPair {α β : Type} {f : α × State → β → α × State} (hf : ∀ p b, p.2.canonical = true → (f p b).2.canonical = true)
    (l : List β) {a : α} : (l.foldl f (a, s)).2.canonical = true := foldl_keeps (P := fun p : α × State => p.2.canonical = true) hf l h

theorem canonical_readSpan {pa n : Nat} : (s.readSpan pa n).2.canonical = true := by
  refine canonical_foldPair h (fun r p hr => ?_) _
  obtain ⟨_ | bs, t⟩ := r
  · exact hr
  · have ht : (t.settleBoth p.1).canonical = true := canonical_settleBoth hr
    dsimp only
    split
    · exact ht
    · have hu := canonical_readAt ht (p := (t.settleBoth p.1).placeOf p.1 false) (pa := p.1) (n := p.2)
      split
      · next e => exact (canonical_countUe ..).trans (by rwa [e] at hu)
      · next e => exact (canonical_homeFill ..).trans (by rwa [e] at hu)

/-! Walks -/

theorem canonical_readEntry {pa : Nat} : (s.readEntry pa).2.canonical = true := by
  unfold State.readEntry
  split
  · exact h
  split
  · exact h
  have hr := canonical_readAt (canonical_settleBoth h (pa := pa)) (p := s.placeOf pa false) (pa := pa) (n := 8)
  split
  · next e => exact (canonical_homeFill ..).trans (by rwa [e] at hr)
  · next e => exact (canonical_countUe ..).trans (by rwa [e] at hr)

omit h in
theorem canonical_descendFrom (va : Nat) : ∀ (level table : Nat) {s : State}, s.canonical = true →
    (State.descendFrom va level table s).2.canonical = true := by
  intro level
  induction level with
  | zero =>
    intro table s h
    have hr := canonical_readEntry h (pa := entryAt table va 0)
    unfold State.descendFrom
    dsimp only
    split
    · next e => rwa [e] at hr
    · next e =>
      rw [e] at hr
      split <;> exact hr
  | succ level ih =>
    intro table s h
    have hr := canonical_readEntry h (pa := entryAt table va (level + 1))
    unfold State.descendFrom
    dsimp only
    split
    · next e => rwa [e] at hr
    · next e =>
      rw [e] at hr
      split
      · exact hr
      · exact hr
      · exact hr
      · exact ih _ hr

theorem canonical_walk {ctx va : Nat} {kind : Kind} {user : Bool} : (s.walk ctx va kind user).2.canonical = true := by
  have hd := canonical_descendFrom va 4 (s.rootOf ctx) h
  unfold State.walk
  split
  · next e => rwa [e] at hd
  · next e =>
    rw [e] at hd
    split
    · exact hd
    · exact canonical_ite hd (canonical_ite (canonical_writeControl hd) (canonical_homeWrite _ _ hd))

/-! Stores that land, and acquires -/

theorem canonical_farStore {e : FifoEntry} : (s.farStore e).canonical = true := by
  unfold State.farStore
  split
  · exact canonical_writeControl h
  · exact canonical_performAt _ _ _ (canonical_settle _ h)

theorem canonical_landStore {p : Posted} : (s.landStore p).canonical = true := by
  unfold State.landStore
  split
  · exact canonical_ite (t := State.ackStore _ _) h (canonical_farStore h)
  · exact h

theorem canonical_acquireAt {c l scope : Nat} : (s.acquireAt c l scope).canonical = true :=
  have hr : (if 3 ≤ scope then s.rdcFlash (dieOf c) else s).canonical = true := canonical_ite h h
  canonical_ite (t := State.flashCxl _) hr hr

/-! What a stop leaves -/

theorem canonical_reserveLeap {c l y : Nat} : (s.reserveLeap c l y).canonical = true := by
  unfold State.reserveLeap
  split <;> exact h

theorem canonical_stopped {e : Stop} : (s.stopped e).canonical = true := by
  have hu : ((s.letGo s.cur.1 s.cur.2).modStrand s.cur.1 s.cur.2 Strand.unfail).canonical = true :=
    (canonical_modStrand ..).trans (canonical_letGo h)
  unfold State.stopped
  split
  · exact canonical_trapEntry (canonical_ite ((canonical_countUe ..).trans hu) hu)
  · exact canonical_trapEntry hu
  · exact canonical_trapEntry ((canonical_countUe ..).trans hu)
  · exact canonical_ite (u := State.modCore _ _ _) h h
  · exact h
  · exact h
  · exact canonical_strandFault h
  · refine (canonical_parkStrand ..).trans ?_
    split <;> exact h
  · exact h
  · exact canonical_reserveLeap h
  · refine (canonical_parkStrand ..).trans ((canonical_modStrand ..).trans (canonical_fold (fun t a ht => ?_) _ h))
    exact (canonical_modStrand ..).trans (canonical_acquireAt ht)
  · exact canonical_strandFault h

end Sys2Proof.Machine
end


section
/-! SUPPORT. Bodies of instructions that keep memories canonical (StepsKeepCanonicalMemory): what `mvcgen` needs of the steps that a body
is made of. -/

open Std.Do

namespace Sys2Proof.Machine

set_option mvcgen.warning false

/-- A body of a strand or of an engine that starts in a canonical state ends, when it does not stop, in a canonical one. -/
abbrev Keeps {ε α : Type} (m : StateT State (Except ε) α) : Prop :=
  ⦃fun s => ⌜s.canonical = true⌝⦄ m ⦃PostCond.mayThrow fun _ s => ⌜s.canonical = true⌝⦄

/-- What a body that keeps the form leaves. -/
theorem Keeps.run {ε α : Type} {m : StateT State (Except ε) α} {s t : State} {a : α} (hm : Keeps m) (h : s.canonical = true)
    (e : m.run s = .ok (a, t)) : t.canonical = true :=
  Except.of_wp_eq e (fun r => match r with | .ok p => p.2.canonical = true | .error _ => True) fun _ => hm s h

theorem keeps_throw {ε α : Type} {e : ε} : Keeps (throw e : StateT State (Except ε) α) := by
  intro s h
  simp
  trivial

theorem keeps_throw_bind {ε α β : Type} {e : ε} {f : α → StateT State (Except ε) β} :
    Keeps ((throw e : StateT State (Except ε) α) >>= f) := keeps_throw

theorem keeps_pure {ε α : Type} {a : α} : Keeps (pure a : StateT State (Except ε) α) := by mvcgen

theorem keeps_get {ε : Type} : Keeps (get : StateT State (Except ε) State) := by mvcgen

theorem keeps_set {ε : Type} {t : State} (h : t.canonical = true) : Keeps (set t : StateT State (Except ε) PUnit) := by mvcgen

theorem Keeps.bind {ε α β : Type} {m : StateT State (Except ε) α} {f : α → StateT State (Except ε) β} (hm : Keeps m)
    (hf : ∀ a, Keeps (f a)) : Keeps (m >>= f) := by mvcgen [hm, hf]

/-- What a body does with the state that it has got may rest on the form of that state. -/
theorem keeps_get_bind {ε α : Type} {f : State → StateT State (Except ε) α} (hf : ∀ s, s.canonical = true → Keeps (f s)) :
    Keeps (get >>= f) := by
  intro s h
  exact hf s h s h

theorem keeps_ite {ε α : Type} {p : Prop} [Decidable p] {m n : StateT State (Except ε) α} (hm : Keeps m) (hn : Keeps n) :
    Keeps (if p then m else n) := by
  split
  · exact hm
  · exact hn

/-- A step that is made in one case only, before what follows in both. -/
theorem keeps_when {ε α : Type} {p : Prop} [Decidable p] {m : StateT State (Except ε) PUnit} {k : PUnit → StateT State (Except ε) α}
    (hm : Keeps m) (hk : ∀ u, Keeps (k u)) : Keeps (if p then m >>= k else k ⟨⟩) := keeps_ite (hm.bind hk) (hk _)

/-- A value that is found in one of two ways, before what follows in both. -/
theorem keeps_join {ε α β : Type} {p : Prop} [Decidable p] {m n : StateT State (Except ε) β} {k : β → StateT State (Except ε) α}
    (hm : Keeps m) (hn : Keeps n) (hk : ∀ x, Keeps (k x)) : Keeps (if p then m >>= k else n >>= k) :=
  keeps_ite (hm.bind hk) (hn.bind hk)

theorem keeps_modify {ε : Type} {f : State → State} (hf : ∀ s, s.canonical = true → (f s).canonical = true) :
    Keeps (modify f : StateT State (Except ε) PUnit) := by
  intro s h
  exact hf s h

/-- A list is worked off by a body that keeps the form. -/
theorem keeps_mapM {ε α β : Type} {f : α → StateT State (Except ε) β} (hf : ∀ x, Keeps (f x)) {l : List α} : Keeps (l.mapM f) := by
  rw [← List.mapM'_eq_mapM]
  induction l with
  | nil => mvcgen [List.mapM']
  | cons x l ih => mvcgen [List.mapM', hf, ih]

theorem keeps_forM {ε α : Type} {f : α → StateT State (Except ε) PUnit} (hf : ∀ x, Keeps (f x)) {l : List α} : Keeps (l.forM f) := by
  induction l with
  | nil => mvcgen [List.forM]
  | cons x l ih => mvcgen [List.forM, hf, ih]

theorem keeps_trap {α : Type} {c : BitVec 8} {i : Word} : Keeps (trap c i : M α) := keeps_throw
theorem keeps_park {α : Type} {p : Park} : Keeps (park p : M α) := keeps_throw
theorem keeps_me : Keeps me := by mvcgen [me]
theorem keeps_myCore : Keeps myCore := by mvcgen [myCore]
theorem keeps_modMe {f : Strand → Strand} : Keeps (modMe f) := by mvcgen [modMe]
theorem keeps_modCore {f : Core → Core} : Keeps (modCore f) := by mvcgen [modCore]

end Sys2Proof.Machine
end

section
/-! SUPPORT. Canonical memories (StepsKeepCanonicalMemory): memory, page tables and the reads of operands. What each operation leaves is
canonical, and each body of a strand or of an engine keeps the form. -/

open Std.Do

namespace Sys2Proof.Machine

set_option mvcgen.warning false

theorem keeps_freeNat : Keeps freeNat := by
  mvcgen [freeNat]

theorem canonical_passBy {s : State} {p : Place} {pa n : Nat} {lc : BitVec 2} (h : s.canonical = true) :
    (s.passBy p pa n lc).canonical = true :=
  canonical_ite h ((canonical_needMsc ..).trans h)

theorem canonical_homeStore {s : State} {pa : Nat} {bs : List Byte} (h : s.canonical = true) : (s.homeStore pa bs).canonical = true :=
  (canonical_mendWords ..).trans (canonical_homePut _ _ ((canonical_noteWords ..).trans h))

theorem canonical_tlbFill {s : State} {c va : Nat} {e : TlbEnt} (h : s.canonical = true) : (s.tlbFill c va e).canonical = true := h

theorem keeps_illop {α : Type} {i : Instr} : Keeps (illop i : M α) := keeps_trap

theorem keeps_needSup {i : Instr} : Keeps (needSup i) := by
  mvcgen [needSup, keeps_me, keeps_trap]

theorem keeps_myCtx : Keeps myCtx := by
  mvcgen [myCtx, keeps_me]

theorem keeps_translate {va : Word} {kind : Kind} {ras : Bool} : Keeps (translate va kind ras) := by
  mvcgen [translate, keeps_trap, keeps_me, keeps_myCtx, keeps_park, keeps_throw, -Spec.throw_MonadExcept]

theorem keeps_checkPegs {va n : Nat} {kind : Kind} : Keeps (checkPegs va n kind) := by
  mvcgen [checkPegs, keeps_myCore, keeps_myCtx, keeps_trap]

theorem keeps_checkRefused {a : Access} {bad : Bool} {access : Bool} : Keeps (checkRefused a bad access) := by
  mvcgen [checkRefused, keeps_trap, keeps_park]

theorem keeps_checkControl {a : Access} {va : Word} {n : Nat} {kind : Kind} : Keeps (checkControl a va n kind) := by
  mvcgen [checkControl, keeps_trap]

theorem keeps_checked {va : Word} {n : Nat} {kind : Kind} {pegs : Bool} : Keeps (checked va n kind pegs) := by
  mvcgen [checked, keeps_trap, keeps_translate, keeps_checkControl, keeps_checkRefused, keeps_checkPegs]

theorem keeps_releaseOr {stop : Stop} {scope : Nat} : Keeps (releaseOr stop scope) := by
  refine .bind keeps_get fun s => .bind keeps_me fun x => keeps_when keeps_throw fun _ => keeps_when keeps_throw fun _ => ?_
  refine .bind keeps_modMe fun _ => keeps_when (keeps_modify fun _ h => canonical_rdcRelease _ _ h) fun _ => ?_
  split
  · exact keeps_modify fun _ h => canonical_flushCxl h
  · exact keeps_pure

theorem keeps_release {scope : Nat} : Keeps (release scope) := by
  mvcgen [release, keeps_releaseOr]

theorem keeps_releaseKept {scope : Nat} : Keeps (releaseKept scope) := by
  mvcgen [releaseKept, keeps_releaseOr]

theorem keeps_acquire {scope : Nat} : Keeps (acquire scope) := keeps_modify fun _ h => canonical_acquireAt h

theorem keeps_pushStore {va : Nat} {a : Access} {data : List Byte} {timed : Option Word} : Keeps (pushStore va a data timed) := by
  mvcgen [pushStore, keeps_me, keeps_myCtx, keeps_park, keeps_modMe]

theorem keeps_isPort {n : Nat} : Keeps (isPort n) := by
  mvcgen [isPort]

theorem keeps_modStream {i : Nat} {f : Stream → Stream} : Keeps (modStream i f) := by
  mvcgen [modStream, keeps_modMe]

theorem keeps_readState {w : Nat} {r : Reg w} {cls n : Nat} : Keeps (readState r cls n) := by
  mvcgen [readState, keeps_acquire, keeps_modMe, keeps_me, keeps_trap, keeps_park]

theorem keeps_readG {n : Nat} : Keeps (readG n) := by
  mvcgen [readG, keeps_isPort, keeps_modCore, keeps_modMe, keeps_park, keeps_me, keeps_readState]

theorem keeps_consume {i cls n : Nat} : Keeps (consume i cls n) := by
  mvcgen [consume, keeps_me, keeps_modStream, keeps_modMe]

theorem keeps_parkStream {i : Nat} : Keeps (parkStream i) := by
  mvcgen [parkStream, keeps_me, keeps_park, keeps_throw, -Spec.throw_MonadExcept]

theorem keeps_readStream {i cls n : Nat} : Keeps (readStream i cls n) := by
  mvcgen [readStream, keeps_me, keeps_parkStream, keeps_translate, keeps_throw, -Spec.throw_MonadExcept]

theorem keeps_readF {n : Nat} : Keeps (readF n) := by
  mvcgen [readF, keeps_me, keeps_readState, keeps_modMe, keeps_readStream, keeps_consume]

theorem keeps_readV {n : Nat} : Keeps (readV n) := by
  mvcgen [readV, keeps_me, keeps_readState, keeps_readStream, keeps_consume]

theorem keeps_two {α : Type} {read : Nat → M α} (hr : ∀ n, Keeps (read n)) {a b : Nat} : Keeps (two read a b) := by
  mvcgen [two, hr]

theorem keeps_twoG {a b : Nat} : Keeps (two readG a b) := keeps_two fun _ => keeps_readG

theorem keeps_twoF {a b : Nat} : Keeps (two readF a b) := keeps_two fun _ => keeps_readF

theorem keeps_twoV {a b : Nat} : Keeps (two readV a b) := keeps_two fun _ => keeps_readV

theorem keeps_three {α : Type} {read : Nat → M α} (hr : ∀ n, Keeps (read n)) {a b c : Nat} : Keeps (three read a b c) := by
  mvcgen [three, keeps_two, hr]

theorem keeps_threeG {a b c : Nat} : Keeps (three readG a b c) := keeps_three fun _ => keeps_readG

theorem keeps_threeF {a b c : Nat} : Keeps (three readF a b c) := keeps_three fun _ => keeps_readF

theorem keeps_threeV {a b c : Nat} : Keeps (three readV a b c) := keeps_three fun _ => keeps_readV

theorem keeps_four {α : Type} {read : Nat → M α} (hr : ∀ n, Keeps (read n)) {a b c d : Nat} : Keeps (four read a b c d) := by
  mvcgen [four, keeps_three, hr]

theorem keeps_fourG {a b c d : Nat} : Keeps (four readG a b c d) := keeps_four fun _ => keeps_readG

theorem keeps_writeG {n : Nat} {x : Word} : Keeps (writeG n x) := by
  mvcgen [writeG, keeps_isPort, keeps_modCore, keeps_park, keeps_modMe]

theorem keeps_writeStream {i n : Nat} {bytes : Nat → List Byte} : Keeps (writeStream i n bytes) := by
  mvcgen [writeStream, keeps_me, keeps_trap, keeps_checked, keeps_pushStore, keeps_modStream]

theorem keeps_writeF {n : Nat} {x : Word} : Keeps (writeF n x) := by
  mvcgen [writeF, keeps_me, keeps_writeStream, keeps_modMe]

theorem keeps_writeV {n : Nat} {x : VWord} : Keeps (writeV n x) := by
  mvcgen [writeV, keeps_me, keeps_writeStream, keeps_modMe]

theorem keeps_writeDest {d : Dest} {bs : List Byte} : Keeps (writeDest d bs) := by
  mvcgen [writeDest, keeps_writeG, keeps_writeF, keeps_writeV, keeps_pushStore, keeps_modStream]

theorem keeps_tryDest {d : Dest} : Keeps (tryDest d) := by
  mvcgen [tryDest, keeps_writeDest]

theorem keeps_holdDest {d : Dest} : Keeps (holdDest d) := by
  mvcgen [holdDest, keeps_me, keeps_checked, keeps_isPort, keeps_modCore]

theorem keeps_predict {a : Access} : Keeps (predict a) := by
  mvcgen [predict, keeps_me, keeps_modMe, keeps_modCore]

theorem keeps_choose {hint : Nat} : Keeps (choose hint) := by
  mvcgen [choose, keeps_me, keeps_myCore]

theorem keeps_leapTo {y : Nat} {d : Option Nat} : Keeps (leapTo y d) := by
  mvcgen [leapTo, keeps_releaseOr, keeps_me]

theorem keeps_standing {y : Option Nat} : Keeps (standing y) := by
  mvcgen [standing, keeps_me]
  all_goals grind [canonical_unreserve]

theorem keeps_leapChosen {a : Access} {hint : Nat} : Keeps (leapChosen a hint) := by
  mvcgen [leapChosen, keeps_standing, keeps_choose]

theorem keeps_count {i : Nat} : Keeps (count i) := by
  mvcgen [count, keeps_modMe]

theorem keeps_giveUp {a : Access} : Keeps (giveUp a) := keeps_modify fun _ h => canonical_yieldLine _ _ h

theorem keeps_readCached {a : Access} {n : Nat} : Keeps (readCached a n) := by
  mvcgen [readCached, keeps_count]
  all_goals grind [canonical_rdcRead, canonical_settle]

theorem keeps_loadHere {a : Access} {n : Nat} : Keeps (loadHere a n) := by
  mvcgen [loadHere, keeps_trap, keeps_readCached]
  all_goals grind [canonical_applyDue, canonical_fillFor]

theorem keeps_countRemote {a : Access} {n : Nat} : Keeps (countRemote a n) := by
  mvcgen [countRemote, keeps_modMe]

theorem keeps_loadTail {a : Access} {n : Nat} {d : Dest} {hint : Nat} : Keeps (loadTail a n d hint) := by
  mvcgen [loadTail, keeps_me, keeps_predict, keeps_writeDest, keeps_park, keeps_tryDest, keeps_leapChosen, keeps_leapTo, keeps_loadHere,
    keeps_giveUp, keeps_countRemote, keeps_holdDest]

theorem keeps_storeTail {va : Nat} {a : Access} {data : List Byte} {hint : Nat} : Keeps (storeTail va a data hint) := by
  mvcgen [storeTail, keeps_leapChosen, keeps_predict, keeps_leapTo, keeps_pushStore]

theorem canonical_run {s : State} {body : M After} (h : s.canonical = true) (hb : Keeps body) : (s.run body).canonical = true := by
  unfold State.run
  split
  · exact canonical_stopped h
  · next e =>
    have ht := hb.run h e
    dsimp only
    split <;> exact ht

theorem canonical_forStrand {s : State} {t : State} {c l : Nat} {m : M Unit} (h : s.canonical = true) (hm : Keeps m)
    (e : s.forStrand c l m = .ok t) : t.canonical = true := by
  unfold State.forStrand at e
  split at e
  · next e' =>
    have ht := hm.run (s := { s with cur := (c, l) }) h e'
    cases e
    exact ht
  · cases e

end Sys2Proof.Machine
end

section
/-! SUPPORT. Canonical memories (StepsKeepCanonicalMemory): integer arithmetic, flags, loads and stores. What each operation leaves is
canonical, and each body of a strand or of an engine keeps the form. -/

open Std.Do

namespace Sys2Proof.Machine

set_option mvcgen.warning false

theorem keeps_bin {op : Word → Word → Word} {d a b : BitVec 5} : Keeps (bin op d a b) := by
  mvcgen [bin, keeps_twoG, keeps_readG, keeps_writeG]

theorem keeps_una {op : Word → Word} {d a : BitVec 5} : Keeps (una op d a) := by
  mvcgen [una, keeps_readG, keeps_writeG]

theorem keeps_upd {op : Word → Word → Word} {d a : BitVec 5} : Keeps (upd op d a) := by
  mvcgen [upd, keeps_twoG, keeps_readG, keeps_writeG]

theorem keeps_load {va : Word} {n : Nat} {d : Dest} {hint : Nat} : Keeps (load va n d hint) := by
  mvcgen [load, keeps_checked, keeps_loadTail]

theorem keeps_store {va : Word} {n : Nat} {x : Nat} {hint : Nat} : Keeps (store va n x hint) := by
  mvcgen [store, keeps_checked, keeps_storeTail]

theorem keeps_loadG {n : Nat} {signed : Bool} {d a : BitVec 5} {imm : BitVec 16} : Keeps (loadG n signed d a imm) := by
  mvcgen [loadG, keeps_readG, keeps_load]

theorem keeps_storeG {n : Nat} {b a : BitVec 5} {imm : BitVec 16} : Keeps (storeG n b a imm) := by
  mvcgen [storeG, keeps_twoG, keeps_readG, keeps_store]

theorem keeps_loadF {n : Nat} {d a : BitVec 5} {imm : BitVec 16} : Keeps (loadF n d a imm) := by
  mvcgen [loadF, keeps_readG, keeps_load]

theorem keeps_storeF {n : Nat} {b a : BitVec 5} {imm : BitVec 16} : Keeps (storeF n b a imm) := by
  mvcgen [storeF, keeps_readG, keeps_readF, keeps_store]

theorem canonical_promoteRow {s : State} {r : RowAt} {pin soft : Bool} (h : s.canonical = true) :
    (s.promoteRow r pin soft).2.2.2.canonical = true := by
  unfold State.promoteRow
  dsimp only
  split
  · exact h
  · split <;> exact h

theorem canonical_demoteRow {s : State} {r : RowAt} (h : s.canonical = true) : (s.demoteRow r).2.2.canonical = true := by
  unfold State.demoteRow
  dsimp only
  split <;> exact h

theorem keeps_promoteAt {a : Access} {pin : Bool} : Keeps (promoteAt a pin) := by
  mvcgen [promoteAt]
  all_goals grind [canonical_promoteRow]

theorem keeps_demoteAt {a : Access} : Keeps (demoteAt a) := by
  mvcgen [demoteAt]
  all_goals grind [canonical_demoteRow]

theorem keeps_promoteFar {a : Access} {pin : Bool} : Keeps (promoteFar a pin) := by
  mvcgen [promoteFar, keeps_freeNat]

theorem keeps_demoteFar {a : Access} : Keeps (demoteFar a) := by
  mvcgen [demoteFar, keeps_freeNat]

theorem keeps_rowCommand {d a : BitVec 5} {act far : Access → M Word} (ha : ∀ x, Keeps (act x)) (hf : ∀ x, Keeps (far x)) :
    Keeps (rowCommand d a act far) := by
  mvcgen [rowCommand, keeps_readG, keeps_translate, keeps_checkRefused, keeps_writeG, ha, hf]

theorem canonical_prefAccess {s : State} {va : Word} (h : s.canonical = true) : (s.prefAccess va).2.canonical = true := by
  have hw (ctx : Nat) (user : Bool) : (s.walk ctx va.toNat .load user).2.canonical = true := canonical_walk h
  have hs (ctx : Nat) (user : Bool) (f : TlbEnt → State → Option Access) :
      (match s.walk ctx va.toNat .load user with
        | (.ok e, s) => (f e s, s.tlbFill s.cur.1 va.toNat e)
        | (.error _, s) => (none, s)).2.canonical = true := by
    specialize hw ctx user
    split
    · next e => rw [e] at hw; exact hw
    · next e => rwa [e] at hw
  unfold State.prefAccess
  dsimp only
  split
  · exact h
  split
  · split
    · exact h
    · exact hs ..
  split
  · exact h
  split
  · split
    · exact h
    · exact hs ..
  · exact h

theorem keeps_readable {n : Nat} : Keeps (readable n) := by
  mvcgen [readable, keeps_me, keeps_isPort]

theorem canonical_amoAt {s : State} {t : State} {c l n : Nat} {a : Access} {op : AmoOp} {b cmp : Word} {bs : List Byte}
    (h : s.canonical = true) (e : s.amoAt c l a n op b cmp = some (bs, t)) : t.canonical = true := by
  have hf : (((s.settle a.place).fillFor c l a n).book a.place a.pa).canonical = true :=
    (canonical_book ..).trans ((canonical_fillFor ..).trans (canonical_settle _ h))
  unfold State.amoAt at e
  dsimp only at e
  split at e
  · cases e
  · simp only [Option.some.injEq, Prod.mk.injEq] at e
    obtain ⟨_, rfl⟩ := e
    split
    · exact canonical_homeWrite _ _ hf
    · exact hf

theorem keeps_amoChecked {va : Word} {n : Nat} : Keeps (amoChecked va n) := by
  mvcgen [amoChecked, keeps_checked]

theorem keeps_amoGo {a : Access} {n : Nat} {op : AmoOp} {b cmp : Word} {d : Nat} {acq rel : Bool} :
    Keeps (amoGo a n op b cmp d acq rel) := by
  mvcgen [amoGo, keeps_me, keeps_tryDest, keeps_leapChosen, keeps_predict, keeps_leapTo, keeps_giveUp, keeps_trap, keeps_writeDest,
    keeps_acquire, keeps_countRemote, keeps_holdDest, keeps_releaseKept, keeps_park]
  all_goals grind [canonical_amoAt]

theorem keeps_amo {op : AmoOp} {d a b : BitVec 5} {r q sc : BitVec 1} : Keeps (amo op d a b r q sc) := by
  mvcgen [amo, keeps_twoG, keeps_readG, keeps_amoChecked, keeps_amoGo]

theorem keeps_myHamper : Keeps myHamper := by
  mvcgen [myHamper]

theorem keeps_oaEnter {e : OaEntry} : Keeps (oaEnter e) := by
  mvcgen [oaEnter, keeps_modCore, keeps_myHamper, keeps_trap]
  all_goals grind [canonical_writeSpan]

theorem keeps_famoInstr {isMax : Bool} {d a b : BitVec 5} {r q sc : BitVec 1} : Keeps (famoInstr isMax d a b r q sc) := by
  mvcgen [famoInstr, keeps_twoG, keeps_readG, keeps_amoChecked, keeps_me, keeps_amoGo, keeps_oaEnter, keeps_isPort, keeps_modMe,
    keeps_acquire, keeps_releaseKept, keeps_park]

theorem canonical_landBefore {s : State} {e : OaEntry} (h : s.canonical = true) : (s.landBefore e).canonical = true :=
  canonical_fold (fun _ _ ht => canonical_landStore ht) _ h

theorem canonical_applyOrdered {s : State} {key : BitVec 24} (h : s.canonical = true) : (s.applyOrdered key).canonical = true := by
  refine canonical_fold (fun t e ht => ?_) _ h
  have hl : (t.landBefore e).canonical = true := canonical_landBefore ht
  refine canonical_ite (canonical_modLaunch hl) ?_
  split
  · next e => exact canonical_amoAt (canonical_yieldLine _ _ hl) e
  · exact canonical_modLaunch ((canonical_countUe ..).trans hl)

end Sys2Proof.Machine
end

section
/-! SUPPORT. Canonical memories (StepsKeepCanonicalMemory): tasks, barriers and strands. What each operation leaves is canonical, and each
body of a strand or of an engine keeps the form. -/

open Std.Do

namespace Sys2Proof.Machine

set_option mvcgen.warning false

theorem canonical_startStrand {s : State} {c l : Nat} {pc : Word} {a : List Word} {scope : Nat} (h : s.canonical = true) :
    (s.startStrand c l pc a scope).canonical = true := by
  unfold State.startStrand
  split
  · exact h
  · next q _ =>
    have hm : (s.modStrand c l fun x => q.startState x (q.lane c l) pc a).canonical = true := h
    have hf := canonical_ite (p := 3 ≤ scope) ((canonical_rdcFlash _ (dieOf c)).trans hm) hm
    exact canonical_ite ((canonical_flashCxl _).trans hf) hf

theorem canonical_pushOne {s : State} {t : State} {c : Nat} {r : TaskRec} (h : s.canonical = true) (e : s.pushOne c r = some t) :
    t.canonical = true := by
  unfold State.pushOne at e
  dsimp only at e
  split at e
  · cases e; exact h
  split at e
  · split at e
    · cases e
    · cases e; exact canonical_writeSpan h
  · split at e
    · cases e
    · cases e; exact canonical_writeSpan h

theorem canonical_pushLanded {s : State} {p : Push} (h : s.canonical = true) : (s.pushLanded p).canonical = true := by
  unfold State.pushLanded
  split <;> exact h

theorem canonical_enterWaiting {c : Nat} : ∀ (n : Nat) {s : State}, s.canonical = true → (State.enterWaiting c n s).canonical = true := by
  intro n
  induction n with
  | zero => exact fun h => h
  | succ n ih =>
    intro s h
    unfold State.enterWaiting
    split
    · exact h
    split
    · exact h
    split
    · next e => exact ih (canonical_pushLanded (canonical_pushOne (by exact h) e))
    · exact h

theorem canonical_pushRec {s : State} {t : State} {c : Nat} {r : TaskRec} (h : s.canonical = true) (e : s.pushRec c r = some t) :
    t.canonical = true := by
  unfold State.pushRec at e
  dsimp only at e
  split at e
  · exact canonical_pushOne h e
  split at e
  · cases e
  · exact canonical_pushOne (canonical_enterWaiting _ h) e

theorem canonical_refill {s : State} {c : Nat} (h : s.canonical = true) : (s.refill c).canonical = true := by
  unfold State.refill
  dsimp only
  split
  · apply canonical_enterWaiting
    rw [canonical_modCore]
    refine canonical_foldPair h (fun p _ hp => ?_) _
    exact canonical_readSpan hp
  · exact canonical_enterWaiting _ h

theorem canonical_popRec {s : State} {t : State} {c : Nat} {r : TaskRec} (h : s.canonical = true) (e : s.popRec c = some (r, t)) :
    t.canonical = true := by
  unfold State.popRec at e
  split at e
  · cases e
  · cases e; exact canonical_refill h

theorem canonical_stealRec {s : State} {t : State} {c : Nat} {r : TaskRec} (h : s.canonical = true) (e : s.stealRec c = some (r, t)) :
    t.canonical = true := by
  unfold State.stealRec at e
  split at e
  · cases e
  · cases e; exact canonical_refill h

theorem canonical_pushFrom {s : State} {c : Nat} {r : TaskRec} {src : Option (Nat × Nat × BitVec 8)} (h : s.canonical = true) :
    (s.pushFrom c r src).canonical = true := by
  unfold State.pushFrom
  refine canonical_ite h ?_
  split
  · next e => exact canonical_pushRec h e
  · exact h

theorem canonical_unlist {s : State} {who pa : Nat} (h : s.canonical = true) : (s.unlist who pa).canonical = true :=
    canonical_ite (t := State.modStrand _ _ _ _) h h

theorem canonical_settleProducer {s : State} {pa i : Nat} {j : Join} (h : s.canonical = true) :
    (s.settleProducer pa i j).2.canonical = true := by
  unfold State.settleProducer
  dsimp only
  split
  · exact h
  · exact canonical_ite (canonical_unlist h) h

theorem canonical_putJoin {s : State} {pa : Nat} {j : Join} (h : s.canonical = true) : (s.putJoin pa j).canonical = true :=
  canonical_fold (fun _ _ ht => canonical_ite ht (canonical_perform _ _ ht)) _ h

theorem canonical_startRec {s : State} {c : Nat} {r : TaskRec} {prods : List Nat} (h : s.canonical = true) :
    (s.startRec c r prods).canonical = true := by
  unfold State.startRec
  split
  · exact h
  · exact (canonical_modStrand ..).trans (canonical_startStrand h)

theorem canonical_dispatch {s : State} {c : Nat} {r : TaskRec} (h : s.canonical = true) : (s.dispatch c r).canonical = true := by
  unfold State.dispatch
  refine canonical_ite h (canonical_ite (canonical_startRec h) ?_)
  split
  · exact h
  · next y _ =>
    have hd : (s.applyDue y).canonical = true := canonical_applyDue y h
    dsimp only
    split
    · exact (canonical_countUe ..).trans hd
    · refine canonical_ite (canonical_putJoin (canonical_settleProducer hd)) (canonical_ite ?_ (canonical_startRec hd))
      split
      · exact hd
      · exact canonical_putJoin (canonical_startRec hd)

theorem keeps_wordAt {a : Access} : Keeps (wordAt a) := by
  mvcgen [wordAt, keeps_me, keeps_predict, keeps_park, keeps_loadHere, keeps_giveUp, keeps_countRemote, keeps_trap]
  all_goals grind [canonical_readAtHome]

theorem keeps_wordsAt (n : Nat) : ∀ {va : Word}, Keeps (wordsAt va n) := by
  induction n with
  | zero => exact keeps_pure
  | succ n ih => exact .bind keeps_checked fun _ => .bind keeps_wordAt fun _ => .bind ih fun _ => keeps_pure

theorem keeps_barrierOf {w : Word} : Keeps (barrierOf w) := by
  mvcgen [barrierOf, keeps_trap, keeps_me]

theorem canonical_arrive {s : State} {u : Nat} {b : Barrier} (h : s.canonical = true) : (s.arrive u b).canonical = true :=
  canonical_ite (t := State.setBarrier _ _ _) (canonical_applyOrdered h) h

theorem keeps_holdArrival {b : Barrier} : Keeps (holdArrival b) := by
  mvcgen [holdArrival, keeps_park]

theorem keeps_barWait {u : Nat} {p : BitVec 32} : Keeps (barWait u p) := by
  mvcgen [barWait, keeps_acquire]

theorem keeps_payload : Keeps payload := by
  mvcgen [payload, keeps_me, keeps_acquire, keeps_modMe]

theorem keeps_checkEntry {pc : Word} : Keeps (checkEntry pc) := by
  mvcgen [checkEntry, keeps_trap]

theorem keeps_checkCore {w : Word} : Keeps (checkCore w) := by
  mvcgen [checkCore, keeps_trap]

theorem keeps_linkRec {pc : Word} {a : List Word} {link : Word} : Keeps (linkRec pc a link) := by
  mvcgen [linkRec, keeps_trap, keeps_me]

theorem keeps_checkPathOr {stop : Park → Stop} {c : Nat} : Keeps (checkPathOr stop c) := by
  mvcgen [checkPathOr, keeps_me, keeps_throw, -Spec.throw_MonadExcept]

theorem keeps_checkPath {c : Nat} : Keeps (checkPath c) := by
  mvcgen [checkPath, keeps_checkPathOr]

theorem keeps_place {c : Nat} {op : PostedOp} : Keeps (place c op) := by
  mvcgen [place, keeps_me, keeps_modMe]

theorem canonical_spawnAt {s : State} {c scope : Nat} {r : TaskRec} (h : s.canonical = true) : (s.spawnAt c r scope).2.canonical = true :=
    by
  unfold State.spawnAt
  split
  · exact h
  · exact canonical_startStrand h

theorem keeps_newTag : Keeps newTag := by
  mvcgen [newTag, keeps_myCore, keeps_modCore]

theorem keeps_setPending {d : Nat} {t : BitVec 12} {report : Bool} : Keeps (setPending d t report) := by
  mvcgen [setPending, keeps_isPort, keeps_modMe]

theorem keeps_checkFill {w : Word} : Keeps (checkFill w) := by
  mvcgen [checkFill, keeps_trap]

theorem keeps_newReport {d : Nat} : Keeps (newReport d) := by
  mvcgen [newReport, keeps_isPort, keeps_newTag, keeps_setPending, keeps_me]

theorem keeps_fwdHandle {w : Word} {c scope a d : Nat} {t : BitVec 12} : Keeps (fwdHandle w c scope a d t) := by
  mvcgen [fwdHandle, keeps_releaseOr, keeps_checkPathOr, keeps_modMe, keeps_newReport, keeps_me, keeps_place, keeps_modCore]

theorem keeps_special {cls n : Nat} : Keeps (special cls n) := by
  mvcgen [special, keeps_isPort, keeps_me]

end Sys2Proof.Machine
end

section
/-! SUPPORT. Canonical memories (StepsKeepCanonicalMemory): floating point, vectors and tiles. What each operation leaves is canonical,
and each body of a strand or of an engine keeps the form. -/

open Std.Do

namespace Sys2Proof.Machine

set_option mvcgen.warning false

theorem keeps_raise {fl : Flags} {draws : Nat} : Keeps (raise fl draws) := by
  mvcgen [raise, keeps_me, keeps_trap, keeps_modMe]

theorem keeps_deliver {d : BitVec 5} {f : Fmt} {rm : Nat} {e : Exact} : Keeps (deliver d f rm e) := by
  mvcgen [deliver, keeps_me, keeps_writeF, keeps_raise]

theorem keeps_fop2 {op : Nat → FVal → FVal → Exact} {d a b : BitVec 5} {f : BitVec 2} : Keeps (fop2 op d a b f) := by
  mvcgen [fop2, keeps_twoF, keeps_readF, keeps_me, keeps_deliver]

theorem keeps_fop1 {near : Bool} {op : FVal → Exact} {d a : BitVec 5} {f : BitVec 2} : Keeps (fop1 near op d a f) := by
  mvcgen [fop1, keeps_readF, keeps_me, keeps_deliver]

theorem keeps_fused {negate : Bool} {d a b c : BitVec 5} {f : BitVec 2} : Keeps (fused negate d a b c f) := by
  mvcgen [fused, keeps_threeF, keeps_readF, keeps_me, keeps_deliver]

theorem keeps_fminmax {isMax : Bool} {d a b : BitVec 5} {f : BitVec 2} : Keeps (fminmax isMax d a b f) := by
  mvcgen [fminmax, keeps_twoF, keeps_readF, keeps_writeF, keeps_raise]

theorem keeps_fcmp {k : Nat} {d a b : BitVec 5} {f : BitVec 2} : Keeps (fcmp k d a b f) := by
  mvcgen [fcmp, keeps_twoF, keeps_readF, keeps_raise, keeps_writeG]

theorem keeps_checkNarrow {i : Instr} {code : BitVec 5} {d : Desc} : Keeps (checkNarrow i code d) := by
  mvcgen [checkNarrow, keeps_illop]

theorem keeps_converted {dst src : BitVec 5} {x : Nat} {write : Nat → M Unit} (hw : ∀ n, Keeps (write n)) :
    Keeps (converted dst src x write) := by
  mvcgen [converted, keeps_me, keeps_raise, hw]

theorem keeps_laneType {i : Instr} : Keeps (laneType i) := by
  mvcgen [laneType, keeps_me, keeps_illop]

theorem keeps_roundLanes {d : BitVec 4} {stride : Nat} {f : Fmt} {rm : Nat} {es : List Exact} : Keeps (roundLanes d stride f rm es) := by
  mvcgen [roundLanes, keeps_me, keeps_writeV, keeps_raise]

theorem keeps_valu2 {i : Instr} {op : Nat → FVal → FVal → Exact} {g : Option IntOp} {d a b : BitVec 4} : Keeps (valu2 i op g d a b) := by
  mvcgen [valu2, keeps_laneType, keeps_twoV, keeps_readV, keeps_me, keeps_roundLanes, keeps_illop, keeps_writeV]

theorem keeps_vminmax {i : Instr} {isMax : Bool} {d a b : BitVec 4} : Keeps (vminmax i isMax d a b) := by
  mvcgen [vminmax, keeps_laneType, keeps_twoV, keeps_readV, keeps_writeV, keeps_raise]

theorem keeps_vsign {i : Instr} {neg : Bool} {d a : BitVec 4} : Keeps (vsign i neg d a) := by
  mvcgen [vsign, keeps_laneType, keeps_readV, keeps_writeV, keeps_raise]

theorem keeps_vcmp {i : Instr} {k : Nat} {d a b : BitVec 4} : Keeps (vcmp i k d a b) := by
  mvcgen [vcmp, keeps_laneType, keeps_twoV, keeps_readV, keeps_writeV, keeps_raise]

theorem keeps_vbits {i : Instr} {op : VWord → VWord → VWord} {d a b : BitVec 4} : Keeps (vbits i op d a b) := by
  mvcgen [vbits, keeps_laneType, keeps_twoV, keeps_readV, keeps_writeV]

theorem keeps_vshift {i : Instr} {g : (w : Nat) → BitVec w → Nat → BitVec w} {d a b : BitVec 4} : Keeps (vshift i g d a b) := by
  mvcgen [vshift, keeps_laneType, keeps_illop, keeps_twoV, keeps_readV, keeps_writeV]

theorem keeps_valu1 {i : Instr} {near noD : Bool} {op : FVal → Exact} {d a : BitVec 4} : Keeps (valu1 i near noD op d a) := by
  mvcgen [valu1, keeps_laneType, keeps_illop, keeps_readV, keeps_me, keeps_roundLanes]

theorem keeps_moveType {i : Instr} : Keeps (moveType i) := by
  mvcgen [moveType, keeps_me, keeps_illop]

theorem keeps_vredm {i : Instr} {isMax : Bool} {d : BitVec 5} {a : BitVec 4} : Keeps (vredm i isMax d a) := by
  mvcgen [vredm, keeps_laneType, keeps_readV, keeps_writeF, keeps_raise, keeps_writeG]

theorem keeps_engAccess {c : Nat} {o : EngOp} {va : Nat} {kind : Kind} : Keeps (engAccess c o va kind) := by
  mvcgen [engAccess, keeps_throw, -Spec.throw_MonadExcept]

theorem keeps_engRead {c : Nat} {o : EngOp} {va n : Nat} : Keeps (engRead c o va n) := by
  refine .bind (keeps_mapM fun p => .bind keeps_engAccess fun a => keeps_get_bind fun s hs => ?_) fun _ => keeps_pure
  have hr := canonical_readAt hs (p := a.place) (pa := a.pa) (n := p.2)
  split
  · next e => exact .bind (keeps_set (canonical_passBy (by rwa [e] at hr))) fun _ => keeps_pure
  · exact keeps_throw

theorem keeps_engWrite {c : Nat} {o : EngOp} {va : Nat} {bs : List Byte} : Keeps (engWrite c o va bs) :=
  keeps_forM fun _ => .bind keeps_engAccess fun _ => keeps_modify fun _ h => canonical_performAt _ _ _ (canonical_settle _ h)

theorem keeps_tileRead {c t off n : Nat} : Keeps (tileRead c t off n) := by
  mvcgen [tileRead, keeps_throw, -Spec.throw_MonadExcept]
  all_goals grind [canonical_applyDue]

theorem canonical_seePart {s : State} {c : Nat} {t : BitVec 12} (h : s.canonical = true) : (s.seePart c t).canonical = true := by
  unfold State.seePart
  split
  · exact canonical_watchAll _ _ h
  · exact h

theorem canonical_addPart {s : State} {c pa n : Nat} {t : BitVec 12} (h : s.canonical = true) : (s.addPart c t pa n).canonical = true := by
  have hp (p : Prop) [Decidable p] (f : EngOp → EngOp) : ((if p then s else s.seePart c t).modOp c t f).canonical = true :=
    (canonical_modCore ..).trans (canonical_ite h (canonical_seePart h))
  exact canonical_ite (canonical_seePart (hp _ _)) (hp _ _)

theorem keeps_elemWrite {c : Nat} {o : EngOp} {tile : Option Nat} {va : Nat} {bs : List Byte} : Keeps (elemWrite c o tile va bs) := by
  unfold elemWrite
  split
  · refine .bind keeps_engAccess fun a => keeps_modify fun s h => ?_
    have hb : ((s.settle a.place).book a.place a.pa).canonical = true := (canonical_book ..).trans (canonical_settle _ h)
    exact canonical_ite hb (canonical_addPart (canonical_homeStore hb))
  · exact keeps_modify fun s h => (canonical_modCore ..).trans (canonical_addPart (canonical_homeStore (canonical_applyDue _ h)))

theorem keeps_tileWrite {c : Nat} {o : EngOp} {t off : Nat} {bs : List Byte} : Keeps (tileWrite c o t off bs) := by
  refine keeps_modify fun s h => (canonical_modCore ..).trans ?_
  exact canonical_fold (fun _ _ ht => canonical_homeWrite _ _ ht) _ (canonical_applyDue _ h)

theorem canonical_joinDone {s : State} {pa who : Nat} (h : s.canonical = true) : (s.joinDone pa who).canonical = true := by
  have hs : (s.settle (s.placeOf pa false)).canonical = true := canonical_settle _ h
  unfold State.joinDone
  dsimp only
  split
  · exact hs
  · exact canonical_ite hs (canonical_putJoin hs)

theorem canonical_settleOp {s : State} {c : Nat} {o : EngOp} {pa : Nat} (h : s.canonical = true) : (s.settleOp c o pa).canonical = true :=
    canonical_ite (canonical_joinDone h) h

theorem canonical_sendCompletion {s : State} {c : Nat} {o : EngOp} {w : Word} (h : s.canonical = true) :
    (s.sendCompletion c o w).canonical = true := by
  unfold State.sendCompletion
  split
  · exact h
  · exact canonical_ite h h

theorem canonical_endOp {s : State} {c status count : Nat} {o : EngOp} {popped : Bool} (h : s.canonical = true) :
    (s.endOp c o status count popped).canonical = true := by
  refine canonical_fold (f := fun s pa => s.settleOp c o pa) (fun _ _ ht => canonical_settleOp ht) _ (canonical_sendCompletion ?_)
  have hc (k : Core) : ((s.seePart c o.tag).setCore c k).canonical = true := (canonical_setCore ..).trans (canonical_seePart h)
  exact canonical_ite (canonical_flushCxl (hc _)) (hc _)

theorem canonical_settleOnce {s : State} {stop : State → Nat → EngOp → Bool → State} (h : s.canonical = true)
    (hs : ∀ t c o b, t.canonical = true → (stop t c o b).canonical = true) {t : State} {c r : Nat} (e : s.settleOnce stop c r = some t) :
    t.canonical = true := by
  unfold State.settleOnce at e
  dsimp only at e
  split at e
  · cases e
  split at e
  · cases e; exact h
  split at e
  · cases e
  split at e
  · cases e; exact h
  split at e
  · cases e; exact (canonical_modCore ..).trans ((canonical_modCore ..).trans (hs _ _ _ _ h))
  · cases e

theorem canonical_settleRing {stop : State → Nat → EngOp → Bool → State}
    (hs : ∀ t c o b, t.canonical = true → (stop t c o b).canonical = true)
    {c r : Nat} : ∀ (n : Nat) {s : State}, s.canonical = true → (State.settleRing stop c r n s).canonical = true := by
  intro n
  induction n with
  | zero => exact fun h => h
  | succ n ih =>
    intro s h
    unfold State.settleRing
    split
    · next e => exact ih (canonical_settleOnce h hs e)
    · exact h

theorem canonical_settleRings {s : State} {stop : State → Nat → EngOp → Bool → State} (h : s.canonical = true)
    (hs : ∀ t c o b, t.canonical = true → (stop t c o b).canonical = true) {c : Nat} : (s.settleRings stop c).canonical = true :=
  canonical_fold (fun _ _ ht => canonical_settleRing hs _ ht) _ h

end Sys2Proof.Machine
end

section
/-! SUPPORT. Canonical memories (StepsKeepCanonicalMemory): engines, their commands and the control instructions. What each operation
leaves is canonical, and each body of a strand or of an engine keeps the form. -/

open Std.Do

namespace Sys2Proof.Machine

set_option mvcgen.warning false

theorem keeps_readAt {c : Nat} {o : EngOp} {kind va n : Nat} : Keeps (readAt c o kind va n) := by
  mvcgen [readAt, keeps_engRead, keeps_tileRead]

theorem keeps_writeAt {c : Nat} {o : EngOp} {kind va : Nat} {bs : List Byte} : Keeps (writeAt c o kind va bs) := by
  mvcgen [writeAt, keeps_elemWrite]

theorem keeps_readElem {c : Nat} {o : EngOp} {kind base code i : Nat} : Keeps (readElem c o kind base code i) := by
  mvcgen [readElem, keeps_readAt]

theorem keeps_engLow {c : Nat} {o : EngOp} {va : Nat} : Keeps (writeElem.engLow c o va) := by
  mvcgen [writeElem.engLow, keeps_engAccess, keeps_throw, -Spec.throw_MonadExcept]

theorem keeps_writeElem {c : Nat} {o : EngOp} {kind base code i x : Nat} : Keeps (writeElem c o kind base code i x) := by
  mvcgen [writeElem, keeps_engLow, keeps_tileRead, keeps_writeAt]

theorem keeps_copyUnit {c : Nat} {o : EngOp} {i : Nat} : Keeps (copyUnit c o i) := by
  mvcgen [copyUnit, keeps_writeElem, keeps_readElem]

theorem keeps_rowPart {c : Nat} {o : EngOp} {m i : Nat} : Keeps (rowPart c o m i) := by
  refine .bind keeps_engRead fun n => ?_
  dsimp only
  split
  · exact keeps_pure
  · refine keeps_forM fun j => ?_
    split
    · exact .bind keeps_pure fun _ => keeps_writeElem
    · exact .bind keeps_readElem fun _ => .bind keeps_pure fun _ => keeps_writeElem

theorem keeps_rowUnit {c : Nat} {o : EngOp} {i : Nat} : Keeps (rowUnit c o i) := by
  mvcgen [rowUnit, keeps_rowPart]

theorem keeps_mvUnit {c : Nat} {o : EngOp} {i : Nat} : Keeps (mvUnit c o i) := by
  mvcgen [mvUnit, keeps_engRead, keeps_tileRead, keeps_elemWrite]

theorem keeps_mldUnit {c : Nat} {o : EngOp} : Keeps (mldUnit c o) := by
  mvcgen [mldUnit, keeps_tileRead]

theorem keeps_mstUnit {c : Nat} {o : EngOp} : Keeps (mstUnit c o) := by
  mvcgen [mstUnit, keeps_tileWrite]

theorem keeps_mclrUnit {c : Nat} {o : EngOp} {i : Nat} : Keeps (mclrUnit c o i) := keeps_modify fun _ h => (canonical_modCore ..).trans h

theorem keeps_writeRecord {c : Nat} {o : EngOp} {va : Nat} {kept : List (Nat × Nat)} {sumIn sumOut : Nat} :
    Keeps (writeRecord c o va kept sumIn sumOut) := .bind keeps_engWrite fun _ => .bind keeps_engWrite fun _ => keeps_engWrite

theorem keeps_topkUnit {c : Nat} {o : EngOp} {r : Nat} : Keeps (topkUnit c o r) := by
  mvcgen [topkUnit, keeps_engRead, keeps_writeRecord]

theorem keeps_mergelUnit {c : Nat} {o : EngOp} : Keeps (mergelUnit c o) := by
  unfold mergelUnit
  generalize 516 = outside
  refine .bind (keeps_mapM fun l => ?_) fun ls => keeps_writeRecord
  exact .bind keeps_engRead fun _ => .bind keeps_engRead fun _ => .bind keeps_engRead fun _ => keeps_pure

theorem keeps_engUnit {c : Nat} {o : EngOp} {i : Nat} : Keeps (engUnit c o i) := by
  mvcgen [engUnit, keeps_mvUnit, keeps_mclrUnit, keeps_mldUnit, keeps_mstUnit, keeps_copyUnit, keeps_rowUnit, keeps_topkUnit,
    keeps_mergelUnit]

theorem canonical_runUnits {c : Nat} {o : EngOp} : ∀ (n : Nat) {s : State} {i : Nat}, s.canonical = true →
    (s.runUnits c o n i).1.canonical = true := by
  intro n
  induction n with
  | zero => exact fun h => canonical_seePart h
  | succ n ih =>
    intro s i h
    unfold State.runUnits
    split
    · next e => exact ih ((canonical_modCore ..).trans (keeps_engUnit.run h e))
    · exact canonical_seePart h
    · exact h

theorem canonical_endNow {s : State} {c status : Nat} {t : BitVec 12} {popped : Bool} (h : s.canonical = true) :
    (s.endNow c t status popped).canonical = true := by
  unfold State.endNow
  split
  · exact canonical_endOp h
  · exact h

theorem canonical_gatherPart {s : State} {c : Nat} {o : EngOp} (h : s.canonical = true) : (s.gatherPart c o).canonical = true := by
  unfold State.gatherPart
  split
  · exact h
  · split
    · next e => exact canonical_seePart (keeps_rowPart.run ((canonical_free s).trans h) e)
    · exact h

theorem canonical_stopOp {status : Nat} {s : State} {c : Nat} {o : EngOp} {popped : Bool} (h : s.canonical = true) :
    (State.stopOp status s c o popped).canonical = true := by
  have hr (n i : Nat) : (s.free.2.runUnits c o n i).1.canonical = true := canonical_runUnits _ ((canonical_free s).trans h)
  exact canonical_ite (canonical_endNow h) (canonical_endNow (canonical_ite (canonical_gatherPart (hr _ _)) (hr _ _)))

theorem canonical_settleCore {s : State} {c : Nat} (h : s.canonical = true) : (s.settleCore c).canonical = true :=
    canonical_settleRings h fun _ _ _ _ ht => canonical_stopOp ht

theorem canonical_withdrawOp {s : State} {c : Nat} {t : BitVec 12} (h : s.canonical = true) : (s.withdrawOp c t).canonical = true := by
  unfold State.withdrawOp
  split
  · exact h
  · exact canonical_ite (canonical_settleCore (canonical_stopOp h)) h

theorem keeps_badReg {α : Type} {eng i : Nat} : Keeps (badReg eng i : M α) := keeps_trap

theorem keeps_needReg {eng i : Nat} {ok : Bool} : Keeps (needReg eng i ok) := by
  mvcgen [needReg, keeps_badReg]

theorem keeps_needOp {v : Word} {ok : Bool} : Keeps (needOp v ok) := by
  mvcgen [needOp, keeps_trap]

theorem keeps_checkRanges : ∀ {l : List Range}, Keeps (checkRanges l)
  | [] => by mvcgen [checkRanges]
  | [_] => keeps_needOp
  | _ :: _ :: _ => by mvcgen [checkRanges, keeps_needOp]

theorem keeps_snapshot {eng cmd : Nat} {ga gb : Word} {scope : Nat} : Keeps (snapshot eng cmd ga gb scope) := by
  mvcgen [snapshot, keeps_me]

theorem keeps_enqueue {d : Nat} {o : EngOp} {ranges : List Range} {ring : Option Nat} : Keeps (enqueue d o ranges ring) := by
  mvcgen [enqueue, keeps_release, keeps_myCore, keeps_newTag, keeps_isPort, keeps_modCore, keeps_setPending, keeps_count, keeps_park]

theorem keeps_checkMctl {o : EngOp} {ok : Bool} : Keeps (checkMctl o ok) := by
  mvcgen [checkMctl, keeps_needReg]

theorem keeps_checkCopy {o : EngOp} {src : Bool} : Keeps (checkCopy o src) := by
  refine .bind keeps_myCore fun k => .bind keeps_needReg fun _ => .bind (keeps_forM fun _ => keeps_needReg) fun _ => ?_
  refine .bind (keeps_forM fun _ => keeps_needReg) fun _ => .bind (keeps_forM fun _ => keeps_needReg) fun _ => ?_
  exact keeps_when keeps_needReg fun _ => keeps_when keeps_needOp fun _ => keeps_needOp

theorem keeps_copyIssue {cmd : Nat} {d a b : BitVec 5} : Keeps (copyIssue cmd d a b) := by
  mvcgen [copyIssue, keeps_twoG, keeps_readG, keeps_me, keeps_snapshot, keeps_checkCopy, keeps_checkRanges, keeps_needOp, keeps_enqueue]

theorem keeps_checkSlctl {o : EngOp} {topk : Bool} : Keeps (checkSlctl o topk) := by
  mvcgen [checkSlctl, keeps_needReg]

theorem canonical_stopGroup {s : State} {tag : BitVec 32} {status : Nat} {begun : Bool} (h : s.canonical = true) :
    (s.stopGroup tag status begun).canonical = true :=
  canonical_fold (f := fun s _ => s.modOp _ _ _) (fun _ _ ht => (canonical_modCore ..).trans ht) _ h

theorem canonical_clash {s : State} {tag : BitVec 32} (h : s.canonical = true) : (s.clash tag).canonical = true :=
    canonical_ite h (canonical_stopGroup h)

theorem keeps_colIssue {cmd : Nat} {d a b : BitVec 5} : Keeps (colIssue cmd d a b) := by
  mvcgen [colIssue, keeps_twoG, keeps_readG, keeps_me, keeps_snapshot, keeps_needReg, keeps_checkRanges, keeps_enqueue]
  all_goals grind [canonical_clash]

theorem keeps_pondSnap {cmd : Nat} {ga gb : Word} : Keeps (pondSnap cmd ga gb) := by
  mvcgen [pondSnap, keeps_me, keeps_snapshot, keeps_needReg]

theorem keeps_handleIssue {cmd : Nat} {d a b : BitVec 5} : Keeps (handleIssue cmd d a b) := by
  mvcgen [handleIssue, keeps_twoG, keeps_readG, keeps_pondSnap, keeps_needOp, keeps_enqueue]

theorem keeps_myPc : Keeps myPc := by
  mvcgen [myPc, keeps_me]

theorem keeps_branch {test : Word → Word → Bool} {a b : BitVec 5} {o : BitVec 16} : Keeps (branch test a b o) := by
  mvcgen [branch, keeps_twoG, keeps_readG, keeps_myPc]

theorem keeps_checkTarget {t : Word} : Keeps (checkTarget t) := by
  mvcgen [checkTarget, keeps_trap]

theorem keeps_markDead : Keeps markDead := by
  mvcgen [markDead, keeps_isPort, keeps_modMe]

theorem keeps_rasAccess {va : Word} {kind : Kind} : Keeps (rasAccess va kind) := by
  mvcgen [rasAccess, keeps_translate, keeps_checkControl, keeps_trap, keeps_park]

theorem keeps_callTo {t : Word} : Keeps (callTo t) := by
  mvcgen [callTo, keeps_me, keeps_modMe, keeps_markDead, keeps_rasAccess, keeps_pushStore]

theorem keeps_rasLoad {va : Word} {a : Access} : Keeps (rasLoad va a) := by
  mvcgen [rasLoad, keeps_me, keeps_park, keeps_countRemote, keeps_readCached, keeps_throw, -Spec.throw_MonadExcept]
  all_goals grind [canonical_readAtHome]

theorem keeps_mtsPriv {i : Instr} {n : Nat} : Keeps (mtsPriv i n) := by
  mvcgen [mtsPriv, keeps_me, keeps_needSup]

theorem keeps_fifoEmpty : Keeps fifoEmpty := by
  mvcgen [fifoEmpty, keeps_me, keeps_park]

theorem keeps_cctlLine {a : BitVec 5} {kind : Kind} : Keeps (cctlLine a kind) := by
  mvcgen [cctlLine, keeps_readG, keeps_fifoEmpty, keeps_translate, keeps_checkRefused]

theorem canonical_farSaved {s : State} {line : Nat} (h : s.canonical = true) : (s.farSaved line).canonical = true := h

theorem canonical_farLost {s : State} {line : Nat} (h : s.canonical = true) : (s.farLost line).canonical = true := by
  refine canonical_farSaved (canonical_fold (fun t c ht => ?_) _ h)
  obtain ⟨hm, hr⟩ := canonical_iff.mp ht
  exact canonical_iff.mpr ⟨Memory.wf_mput _ _ hm, hr⟩

theorem canonical_cctlWb {s : State} {x : Access} (h : s.canonical = true) : (s.cctlWb x).canonical = true :=
  canonical_farSaved (canonical_lineToMem _ (canonical_rdcFlush _ _ (canonical_settle _ h)))

theorem canonical_cctlDrop {s : State} {x : Access} (h : s.canonical = true) : (s.cctlDrop x).canonical = true := by
  have hs : (s.settle x.place).canonical = true := canonical_settle _ h
  unfold State.cctlDrop
  refine canonical_farLost (canonical_lineLost _ ?_)
  exact hs

theorem canonical_tlbinvEnd {s : State} {dies : List Nat} (h : s.canonical = true) : (s.tlbinvEnd dies).canonical = true :=
    canonical_fold (fun _ _ ht => canonical_rdcFlushAll ht) _ h

end Sys2Proof.Machine
end

section
/-! SUPPORT. Canonical memories (StepsKeepCanonicalMemory): ponds and the steps of the engines. What each operation leaves is canonical,
and each body of a strand or of an engine keeps the form. -/

open Std.Do

namespace Sys2Proof.Machine

set_option mvcgen.warning false

theorem canonical_turnIns {s : State} {d t : Nat} {p : Pond} (h : s.canonical = true) : (turnIns s d t p).2.canonical = true := by
  unfold turnIns
  split <;> exact h

theorem canonical_turnApp {s : State} {t : State} {o : EngOp} {d i : Nat} {p : Pond} {recs : List (List Byte)} {r : OpResult}
    (h : s.canonical = true) (e : turnApp s o d i p recs = .ok (r, t)) : t.canonical = true := by
  unfold turnApp at e
  dsimp only at e
  split at e
  · cases e; exact h
  split at e
  · cases e; exact h
  split at e
  · cases e; exact h
  split at e
  · cases e; exact h
  split at e
  · cases e
  · cases e
    exact (canonical_modDie ..).trans (canonical_fold (fun _ _ ht => canonical_homeWrite _ _ ht) _ h)

theorem canonical_turnCls {s : State} {o : EngOp} {d t : Nat} {p : Pond} (h : s.canonical = true) :
    (turnCls s o d t p).2.canonical = true := by
  unfold turnCls
  dsimp only
  split
  · exact h
  · split <;> exact h

theorem canonical_turnPri {s : State} {o : EngOp} {d t : Nat} {p : Pond} (h : s.canonical = true) :
    (turnPri s o d t p).2.canonical = true := by
  unfold turnPri
  dsimp only
  split
  · exact h
  · split <;> exact h

theorem canonical_turnEvi {s : State} {o : EngOp} {d t : Nat} {p : Pond} (h : s.canonical = true) :
    (turnEvi s o d t p).2.canonical = true := by
  unfold turnEvi
  dsimp only
  split <;> exact h

theorem canonical_turnSmp {s : State} {o : EngOp} {d t : Nat} {p : Pond} {draws : List Nat} (h : s.canonical = true) :
    (turnSmp s o d t p draws).2.canonical = true := by
  unfold turnSmp
  dsimp only
  split <;> exact h

theorem canonical_dropHold {s : State} {k : Nat} (h : s.canonical = true) : (s.dropHold k).canonical = true := by
  unfold State.dropHold
  dsimp only
  split <;> exact h

theorem canonical_passRec {s : State} {p : Pond} {win slot steps start : Nat} (h : s.canonical = true) :
    (s.passRec p win slot steps start).canonical = true :=
  canonical_fold (fun _ _ ht => canonical_fold (fun _ _ hu => canonical_passBy hu) _ ht) _ h

theorem canonical_turnGet {s : State} {o : EngOp} {d t : Nat} {p : Pond} {list : List (Word × Nat)} (h : s.canonical = true) :
    (turnGet s o d t p list).2.canonical = true := by
  have hp (l : List (Word × Nat)) :
      (l.foldl (fun s h => let i := (handleSlot h.1).1; s.passRec p o.pWin i (p.slot i).steps h.2) s).canonical = true := by
    refine canonical_fold (fun _ _ ht => ?_) _ h
    exact canonical_passRec ht
  unfold turnGet
  split
  · dsimp only
    split
    · exact (canonical_countUe ..).trans h
    · exact h
  split
  · exact h
  · dsimp only at hp ⊢
    refine (canonical_modDie ..).trans ?_
    split
    · exact hp _
    · split
      · exact (canonical_countUe ..).trans (hp _)
      · exact hp _

theorem keeps_getList {c : Nat} {o : EngOp} : Keeps (getList c o) :=
  keeps_mapM fun _ => .bind keeps_engRead fun _ => .bind keeps_engRead fun _ => keeps_pure

theorem keeps_pondTurn {c : Nat} {o : EngOp} : Keeps (pondTurn c o) := by
  have hd {r : OpResult × State} (h : r.2.canonical = true) : Keeps (do set r.2; pure r.1 : E OpResult) :=
    .bind (keeps_set h) fun _ => keeps_pure
  refine keeps_join (keeps_mapM fun _ => keeps_engRead) keeps_pure fun recs => ?_
  refine keeps_join (keeps_mapM fun _ => .bind keeps_engRead fun _ => keeps_pure) keeps_pure fun draws => keeps_get_bind fun s h => ?_
  split
  · exact keeps_pure
  · dsimp only
    split
    · exact keeps_throw_bind
    split
    · exact hd (canonical_turnIns h)
    · split
      · next e => exact hd (canonical_turnApp h e)
      · exact keeps_throw
    · exact hd (canonical_turnCls h)
    · exact hd (canonical_turnSmp h)
    · exact hd (canonical_turnPri h)
    · exact hd (canonical_turnEvi h)
    · exact hd h
    · exact hd h

theorem canonical_engStopped {s : State} {c : Nat} {t : BitVec 12} {e : EngStop} (h : s.canonical = true) :
    (s.engStopped c t e).canonical = true := by
  unfold State.engStopped
  split
  · exact h
  · dsimp only
    split
    · exact h
    · exact (canonical_modCore ..).trans (canonical_postFault h)
    · exact h
    · refine canonical_settleCore (canonical_endNow ?_)
      split
      · exact (canonical_countUe ..).trans h
      · exact h

theorem canonical_beginTiled {s : State} {c : Nat} {o : EngOp} (h : s.canonical = true) : (s.beginTiled c o).canonical = true := by
  have hf : ((s.endNow c o.tag 1).settleCore c).canonical = true := canonical_settleCore (canonical_endNow h)
  unfold State.beginTiled
  exact canonical_ite hf (canonical_ite h (canonical_ite hf h))

theorem canonical_beginGet {s : State} {c : Nat} {o : EngOp} (h : s.canonical = true) : (s.beginGet c o).canonical = true := by
  unfold State.beginGet
  split
  · exact canonical_engStopped h
  · next list t e =>
    have ht : t.canonical = true := keeps_getList.run h e
    have hf : ((t.endNow c o.tag 1).settleCore c).canonical = true := canonical_settleCore (canonical_endNow ht)
    refine canonical_ite hf (canonical_ite hf (canonical_ite ht ?_))
    dsimp only
    split
    · exact (canonical_modCore ..).trans ht
    · next p _ =>
      have hg (d i : Nat) : (turnGet t o d i p list).2.canonical = true := canonical_turnGet ht
      exact canonical_ite hf (canonical_ite ((canonical_modCore ..).trans (hg _ _)) ((canonical_modCore ..).trans (hg _ _)))

theorem canonical_mmaFree {s : State} {c : Nat} {o : EngOp} (h : s.canonical = true) : (s.mmaFree c o).canonical = true :=
  canonical_settleCore ((canonical_modCore ..).trans ((canonical_modCore ..).trans h))

theorem keeps_rowsRead {c t stride n : Nat} : Keeps (rowsRead c t stride n) :=
  .bind (keeps_mapM fun _ => keeps_tileRead) fun _ => keeps_pure

theorem canonical_mmaStrict {s : State} {c : Nat} {o : EngOp} (h : s.canonical = true) : (s.mmaStrict c o).canonical = true := by
  have hp {t : State} (ht : t.canonical = true) (f : Core → Core) (g : EngOp → EngOp) :
      ((t.modCore c f).modOp c o.tag g).canonical = true := (canonical_modCore ..).trans ((canonical_modCore ..).trans ht)
  unfold State.mmaStrict
  dsimp only
  split
  · refine canonical_settleCore ((canonical_modCore ..).trans (hp ?_ _ _))
    split
    · exact (canonical_countUe ..).trans h
    · exact h
  · next ts t e =>
    have ht : t.canonical = true := Keeps.run (.bind keeps_rowsRead fun _ => .bind keeps_rowsRead fun _ =>
      keeps_join keeps_rowsRead keeps_pure fun _ => keeps_join keeps_rowsRead keeps_pure fun _ => keeps_pure) h e
    exact canonical_settleCore ((canonical_modCore ..).trans (hp ((canonical_modCore ..).trans ht) _ _))

theorem keeps_colSource {c : Nat} {o : EngOp} : Keeps (colSource c o) := by
  mvcgen [colSource, keeps_engRead]

theorem keeps_colRead {c : Nat} {o : EngOp} : Keeps (colRead c o) := by
  mvcgen [colRead, keeps_engRead, keeps_colSource]

theorem canonical_bcastRead {s : State} {t : State} {g : List (Nat × EngOp)} {here : Nat} {ps qs : List Part} (h : s.canonical = true)
    (e : s.bcastRead g here ps = .ok (t, qs)) : t.canonical = true := by
  unfold State.bcastRead at e
  split at e
  · cases e; exact h
  split at e
  · cases e; exact h
  split at e
  · next e' => cases e; exact keeps_colSource.run h e'
  · cases e
  · cases e

theorem canonical_bcastRead_stop {s t : State} {g : List (Nat × EngOp)} {here : Nat} {ps : List Part} {f : State → State}
    (h : t.canonical = true)
    (e : s.bcastRead g here ps = .error f) : (f t).canonical = true := by
  unfold State.bcastRead at e
  split at e
  · cases e
  split at e
  · cases e
  split at e
  · cases e
  · next bad _ =>
    cases e
    refine canonical_stopGroup ?_
    cases bad with
    | none => exact h
    | some a => exact (canonical_countUe ..).trans h
  · cases e; exact canonical_engStopped h

theorem canonical_colReadAll : ∀ (g : List (Nat × EngOp)) {s : State}, s.canonical = true → (colReadAll s g).1.canonical = true := by
  intro g
  induction g with
  | nil => exact fun h => h
  | cons p g ih =>
    intro s h
    unfold colReadAll
    split
    · exact ih h
    split
    · exact h
    · next e => exact ih ((canonical_modCore ..).trans (keeps_colRead.run h e))

theorem canonical_combineRead {s : State} {tag : BitVec 32} (h : s.canonical = true) : (s.combineRead tag).canonical = true := by
  unfold State.combineRead
  dsimp only
  split
  · exact h
  refine canonical_ite (canonical_stopGroup h) (canonical_ite (canonical_stopGroup h) ?_)
  split
  · next e =>
    split at e
    · exact canonical_bcastRead_stop h e
    · cases e
  · next t chain e =>
    have ht : t.canonical = true := by
      split at e
      · exact canonical_bcastRead h e
      · cases e; exact h
    exact canonical_fold (f := fun s _ => s.modOp _ _ _) (fun _ _ hu => (canonical_modCore ..).trans hu) _ ht

theorem canonical_combine {s : State} {tag : BitVec 32} (h : s.canonical = true) : (s.combine tag).canonical = true := by
  have hc := canonical_colReadAll (s.group tag true) h
  refine canonical_ite (canonical_stopGroup h) (canonical_ite h ?_)
  split
  · next e =>
    rw [e] at hc
    refine canonical_stopGroup ?_
    split
    · exact (canonical_countUe ..).trans hc
    · exact hc
  · next e => rw [e] at hc; exact canonical_engStopped hc
  · next e => rw [e] at hc; exact canonical_combineRead hc

theorem canonical_runWrites {c : Nat} {o : EngOp} {ws : List (Nat × List Byte)} : ∀ (n : Nat) {s : State} {i : Nat}, s.canonical = true →
    (s.runWrites c o ws n i).1.canonical = true := by
  intro n
  induction n with
  | zero => exact fun h => h
  | succ n ih =>
    intro s i h
    unfold State.runWrites
    split
    · exact h
    split
    · next e => exact ih ((canonical_modCore ..).trans (keeps_engWrite.run h e))
    · exact h

theorem canonical_endRes {s : State} {c status count : Nat} {t : BitVec 12} (h : s.canonical = true) :
    (s.endRes c t status count).canonical = true := by
  unfold State.endRes
  split
  · exact h
  · refine canonical_settleCore (canonical_endOp ?_)
    split
    · exact canonical_ite (canonical_fold (fun _ _ ht => canonical_dropHold ht) _ h) h
    · exact h

theorem canonical_completeRes {s : State} {c : Nat} {o : EngOp} {r : OpResult} (h : s.canonical = true) :
    (s.completeRes c o r).canonical = true := by
  have hf : (if (o.eng == 3 && o.cancel == some 1) = true then (s.free.1 % (r.writes.length - o.step + 1), s.free.2)
      else (r.writes.length - o.step, s)).2.canonical = true := canonical_ite_snd h h
  unfold State.completeRes
  dsimp only
  generalize (if (o.eng == 3 && o.cancel == some 1) = true then (s.free.1 % (r.writes.length - o.step + 1), s.free.2)
      else (r.writes.length - o.step, s)) = p at hf
  have hr := canonical_runWrites p.1 hf (c := c) (o := o) (ws := r.writes) (i := o.step)
  split
  · next e =>
    rw [e] at hr
    split
    · exact canonical_endRes ((canonical_countUe ..).trans hr)
    · exact canonical_endRes hr
  · next e => rw [e] at hr; exact canonical_engStopped hr
  · next e =>
    rw [e] at hr
    refine canonical_ite (canonical_endRes hr) (canonical_endRes ?_)
    split
    · refine canonical_ite hr ?_
      split
      · next e' => exact keeps_tileWrite.run hr e'
      · exact hr
    · exact hr

theorem canonical_finishUnits {s : State} {c : Nat} {o : EngOp} (h : s.canonical = true) : (s.finishUnits c o).canonical = true := by
  have hr := canonical_runUnits (c := c) (o := o) (o.units - o.step) h (i := o.step)
  unfold State.finishUnits
  split
  · next e => rw [e] at hr; exact canonical_settleCore (canonical_endNow hr)
  · next e => rw [e] at hr; exact canonical_engStopped hr

theorem canonical_completeUnits {s : State} {c : Nat} {o : EngOp} (h : s.canonical = true) : (s.completeUnits c o).canonical = true := by
  have hf (status : Nat) : ((s.endNow c o.tag status).settleCore c).canonical = true := canonical_settleCore (canonical_endNow h)
  unfold State.completeUnits
  refine canonical_ite (canonical_ite (hf _) h) (canonical_ite ?_ ?_)
  · split
    · exact hf _
    · exact h
  · split
    · exact canonical_ite (canonical_settleCore (canonical_stopOp h)) (canonical_finishUnits h)
    · exact canonical_finishUnits h

end Sys2Proof.Machine
end

section
/-! SUPPORT. Canonical memories (StepsKeepCanonicalMemory): walks, drains, DRAM and streams. What each operation leaves is canonical, and
each body of a strand or of an engine keeps the form. -/

open Std.Do

namespace Sys2Proof.Machine

set_option mvcgen.warning false

theorem canonical_pickWalk {s : State} {d : Nat} (h : s.canonical = true) : (s.pickWalk d).2.canonical = true := by
  unfold State.pickWalk
  dsimp only
  split <;> exact h

theorem canonical_walked {s : State} {q : WalkReq} {r : Except (Nat × Nat) TlbEnt} (h : s.canonical = true) :
    (s.walked q r).canonical = true := by
  unfold State.walked
  split
  · dsimp only
    split <;> exact h
  · split
    · split
      · exact canonical_ite (canonical_engStopped h) h
      · exact h
    · exact canonical_ite (canonical_strandFault h) h

theorem canonical_countStore {s : State} {c l : Nat} {a : Access} (h : s.canonical = true) : (s.countStore c l a).canonical = true :=
    canonical_ite (u := State.modStrand _ _ _ _) h h

theorem canonical_storeMiss {s : State} {c l : Nat} {a : Access} (h : s.canonical = true) : (s.storeMiss c l a).canonical = true :=
    canonical_ite (t := State.countMiss _ _ _) h h

theorem canonical_drainPiece {s : State} {c l : Nat} {e : FifoEntry} (h : s.canonical = true) : (s.drainPiece c l e).canonical = true := by
  have hc (p : Prop) [Decidable p] : (if p then s.countStore c l e.acc else s).canonical = true := canonical_ite (canonical_countStore h) h
  unfold State.drainPiece
  dsimp only
  split
  · exact canonical_writeControl (hc _)
  · exact canonical_performAt _ _ _ (canonical_storeMiss (canonical_settle _ (hc _)))
  · exact canonical_ite (hc _) ((canonical_rdcWrite ..).trans (hc _))
  · exact hc _

theorem canonical_acceptMsg {s : State} {t : State} {c : Nat} {m : Msg} (h : s.canonical = true) (e : s.acceptMsg c m = some t) :
    t.canonical = true := by
  unfold State.acceptMsg at e
  dsimp only at e
  split at e
  · cases e
  · cases e; exact h

theorem canonical_holdFill {s : State} {t : State} {c : Nat} {key : BitVec 24} {m : Msg} (h : s.canonical = true)
    (e : s.holdFill c key m = some t) : t.canonical = true := by
  unfold State.holdFill at e
  split at e
  · cases e; exact canonical_modLaunch h
  · cases e

theorem canonical_deliver {s : State} {t : State} {c l : Nat} {d : Dest} {bs : List Byte} {acq : Option Nat} (h : s.canonical = true)
    (e : s.deliver c l d bs acq = some t) : t.canonical = true := by
  have hk : Keeps (do writeDest d bs; match acq with | some sc => acquire sc | none => pure () : M Unit) := by
    mvcgen [keeps_writeDest, keeps_acquire]
  unfold State.deliver at e
  split at e
  · next e' => cases e; exact (canonical_retireNext ..).trans (canonical_forStrand h hk e')
  · cases e

theorem canonical_deliver_getD {s : State} {u : State} {c l : Nat} {d : Dest} {bs : List Byte} {acq : Option Nat} (h : s.canonical = true)
    (hu : u.canonical = true) : ((s.deliver c l d bs acq).getD u).canonical = true :=
  canonical_getD hu fun _ e => canonical_deliver h e

theorem canonical_stopAt {s : State} {c l : Nat} {e : Stop} (h : s.canonical = true) : (s.stopAt c l e).canonical = true :=
    canonical_stopped (s := { s with cur := (c, l) }) h

theorem canonical_remoteRead {s : State} {c l n : Nat} {a : Access} {d : Dest} {got : List Byte} (h : s.canonical = true) :
    (s.remoteRead c l a n d got).canonical = true := by
  unfold State.remoteRead
  dsimp only
  split
  · exact canonical_stopAt h
  · have hr := canonical_readAtHome h (c := c) (l := l) (a := { a with pa := a.pa + got.length }) (n := min 8 (n - got.length))
    split
    · next e => rw [e] at hr; exact canonical_stopAt hr
    · next e => rw [e] at hr; exact canonical_ite ((canonical_parkStrand ..).trans hr) (canonical_deliver_getD hr h)

theorem keeps_elementAccess {va n : Nat} : Keeps (elementAccess va n) := by
  refine keeps_get_bind fun s h => ?_
  split
  · next e => exact .bind (keeps_set (keeps_checked.run h e)) fun _ => keeps_pure
  · exact keeps_pure
  · exact keeps_pure

theorem keeps_elementBytes {a : Access} {n : Nat} : Keeps (elementBytes a n) := by
  have hue : Keeps (do modify fun s => s.countUe a.pa; pure none : M (Option (List Byte))) :=
    .bind (keeps_modify fun _ h => (canonical_countUe ..).trans h) fun _ => keeps_pure
  refine keeps_get_bind fun s h => ?_
  split
  · exact hue
  · next e => exact .bind (keeps_set (keeps_loadHere.run h e)) fun _ => keeps_pure
  · refine .bind keeps_giveUp fun _ => .bind keeps_countRemote fun _ => keeps_get_bind fun t ht => ?_
    have hr := canonical_readAtHome ht (c := t.cur.1) (l := t.cur.2) (a := a) (n := n)
    split
    · next e => exact .bind (keeps_set (by rwa [e] at hr)) fun _ => keeps_pure
    · exact hue

theorem keeps_loadElement {i : Nat} : Keeps (loadElement i) := by
  mvcgen [loadElement, keeps_me, keeps_elementAccess, keeps_modStream, keeps_elementBytes]

end Sys2Proof.Machine
end

section
/-! SUPPORT. Canonical memories (StepsKeepCanonicalMemory): joins, timing and work. What each operation leaves is canonical, and each body
of a strand or of an engine keeps the form. -/

open Std.Do

namespace Sys2Proof.Machine

set_option mvcgen.warning false

theorem canonical_withdrawOperand {s : State} {pa i : Nat} {j : Join} (h : s.canonical = true) :
    (s.withdrawOperand pa i j).canonical = true := by
  unfold State.withdrawOperand
  dsimp only
  split
  · exact h
  · exact canonical_withdrawOp h
  · exact h

theorem canonical_withdrawAll {s : State} {pa : Nat} {j : Join} (h : s.canonical = true) : (s.withdrawAll pa j).canonical = true :=
  canonical_fold (fun _ _ ht => canonical_ite (canonical_withdrawOperand ht) ht) _ h

theorem canonical_fire {s : State} {pa r : Nat} {j : Join} (h : s.canonical = true) : (s.fire pa j r).canonical = true :=
    canonical_withdrawAll (canonical_pushFrom (canonical_putJoin h))

theorem canonical_recycleAt {s : State} {pa : Nat} (h : s.canonical = true) : (s.recycleAt pa).canonical = true := by
  unfold State.recycleAt
  split
  · exact h
  · exact canonical_ite (canonical_putJoin h) h

theorem canonical_joinNew {s : State} {pa : Nat} {j : Join} {cfg pc : Word} (h : s.canonical = true) :
    (s.joinNew pa j cfg pc).2.canonical = true :=
  canonical_ite_snd h (canonical_pair (canonical_putJoin h))

theorem canonical_joinReg {s : State} {pa i kind who : Nat} {j : Join} (h : s.canonical = true) :
    (s.joinReg pa j i kind who).2.canonical = true := by
  refine canonical_ite_snd h (canonical_ite_snd h (canonical_ite_snd h ?_))
  have hp (j : Join) (f : Strand → Strand) (g : EngOp → EngOp) (c l : Nat) (t : BitVec 12) :
      (if kind = 2 then (s.putJoin pa j).modStrand c l f
      else if kind = 3 then (s.putJoin pa j).modOp c t g else s.putJoin pa j).canonical = true :=
    have hj : (s.putJoin pa j).canonical = true := canonical_putJoin h
    canonical_ite ((canonical_modStrand ..).trans hj) (canonical_ite ((canonical_modCore ..).trans hj) hj)
  exact canonical_recycleAt (canonical_ite (canonical_withdrawOperand (hp ..)) (hp ..))

theorem canonical_joinVal {s : State} {pa i who : Nat} {j : Join} {x : Word} (h : s.canonical = true) :
    (s.joinVal pa j i x who).2.canonical = true := by
  have hs : (if j.kind i = 2 && j.who i = who then s.settleProducer pa i j else (j, s)).2.canonical = true :=
    canonical_ite_snd (canonical_settleProducer h) h
  unfold State.joinVal
  generalize (if j.kind i = 2 && j.who i = who then s.settleProducer pa i j else (j, s)) = p at hs
  obtain ⟨j, s⟩ := p
  dsimp only at hs ⊢
  split
  · exact canonical_pair (canonical_recycleAt (canonical_putJoin hs))
  split
  · exact canonical_pair (canonical_recycleAt (canonical_putJoin hs))
  split
  · exact canonical_pair (canonical_recycleAt (canonical_fire hs))
  · exact canonical_pair (canonical_recycleAt (canonical_putJoin hs))

theorem canonical_joinDrop {s : State} {pa i : Nat} {j : Join} (h : s.canonical = true) : (s.joinDrop pa j i).2.canonical = true :=
  canonical_ite_snd h (canonical_pair (canonical_recycleAt (canonical_putJoin (canonical_settleProducer h))))

theorem canonical_joinChk {s : State} {i : Nat} {j : Join} (h : s.canonical = true) : (s.joinChk j i).2.canonical = true :=
  canonical_ite_snd h (canonical_ite_snd h (canonical_ite_snd h h))

theorem canonical_joinFree {s : State} {pa : Nat} {j : Join} (h : s.canonical = true) : (s.joinFree pa j).2.canonical = true :=
  canonical_recycleAt (canonical_ite (canonical_withdrawAll (canonical_putJoin h)) (canonical_putJoin h))

theorem canonical_joinQuit {s : State} {pa who : Nat} {j : Join} (h : s.canonical = true) : (s.joinQuit pa j who).canonical = true := by
  have hf :=
      canonical_foldPair (f := fun (p : Join × State) i => if p.1.kind i = 2 && p.1.who i = who then p.2.settleProducer pa i p.1 else p) h
    (fun _ _ hp => canonical_ite_snd (canonical_settleProducer hp) hp) (List.range 4) (a := j)
  exact canonical_ite h (canonical_recycleAt (canonical_putJoin hf))

theorem canonical_joinRereg {s : State} {pa old new : Nat} {j : Join} (h : s.canonical = true) :
    (s.joinRereg pa j old new).canonical = true :=
  canonical_ite (canonical_unlist h)
      (canonical_fold (fun _ _ ht => canonical_ite (canonical_withdrawOperand ht) ht) _ (canonical_putJoin h))

theorem canonical_joinAct {s : State} {t : State} {q : JoinReq} {w : Word} (h : s.canonical = true) (e : s.joinAct q = .ok (w, t)) :
    t.canonical = true := by
  have hs : (match s.joinHome q.pa with | some h => s.applyDue h | none => s).canonical = true := by
    split
    · exact canonical_applyDue _ h
    · exact h
  have hn {u : State} (hu : u.canonical = true) {bad stale far : Prop} [Decidable bad] [Decidable stale] [Decidable far] {x y : Stop}
      {n : Word} {act : Word × State} (ha : act.2.canonical = true)
      (e : (if bad then .error x else if stale then .ok (n, u) else if far then .error y else .ok act : Except Stop (Word × State)) = .ok (w, t)) :
      t.canonical = true := by
    split at e
    · cases e
    split at e
    · cases e; exact hu
    split at e
    · cases e
    · cases e; exact ha
  have ho {p : Word × State} (hp : p.2.canonical = true) (e : (.ok p : Except Stop (Word × State)) = .ok (w, t)) : t.canonical = true := by
    cases e
    exact hp
  unfold State.joinAct at e
  dsimp only at e
  split at e
  · cases e
  split at e
  · split at e
    · cases e
    · exact ho (canonical_joinNew hs) e
  · exact hn hs (canonical_joinReg hs) e
  · exact hn hs (canonical_joinVal hs) e
  · exact hn hs (canonical_joinDrop hs) e
  · exact hn hs (canonical_joinChk hs) e
  · exact hn hs (canonical_joinFree hs) e
  · exact ho (canonical_pair (canonical_joinQuit hs)) e
  · exact ho (canonical_pair (canonical_joinRereg hs)) e
  · exact ho (canonical_pair (canonical_joinDone hs)) e

theorem keeps_joinGo {d : BitVec 5} {pa : Nat} {word : Word} {form : JoinForm} : Keeps (joinGo d pa word form) := by
  refine .bind keeps_tryDest fun _ => keeps_get_bind fun s h => ?_
  refine .bind keeps_me fun _ => .bind keeps_me fun _ => ?_
  dsimp only
  split
  · split
    · exact keeps_throw
    · next e => exact .bind (keeps_set (canonical_joinAct h e)) fun _ => .bind keeps_writeG fun _ => keeps_pure
  · exact .bind keeps_holdDest fun _ => .bind (keeps_modify fun _ h => h) fun _ => keeps_pure

theorem keeps_joinNamed {w : Word} : Keeps (joinNamed w) := by
  mvcgen [joinNamed, keeps_trap]

theorem canonical_answerTo {s : State} {t : State} {c l d : Nat} {gen : BitVec 8} {r : Except Stop Word} (h : s.canonical = true)
    (e : s.answerTo c l gen d r = some t) : t.canonical = true := by
  unfold State.answerTo at e
  split at e
  · cases e; exact h
  split at e
  · cases e; exact canonical_stopped (s := { s with cur := (c, l) }) h
  split at e
  · next e' => cases e; exact (canonical_retireNext ..).trans (canonical_forStrand h keeps_writeG e')
  · cases e

theorem canonical_arriveTimed {s : State} {p : Place} {e : CalEntry} (h : s.canonical = true) : (s.arriveTimed p e).canonical = true := by
  have hs : (s.settle p).canonical = true := canonical_settle p h
  exact canonical_ite (canonical_judgeLate p e hs) (canonical_letIn p ((canonical_setCal ..).trans hs))

theorem canonical_landLoad {s : State} {t : State} {c l : Nat} {a : Access} {d : Dest} {r : Option (List Byte)} (h : s.canonical = true)
    (e : s.landLoad c l a d r = some t) : t.canonical = true := by
  unfold State.landLoad at e
  split at e
  · cases e; exact canonical_stopAt h
  split at e
  · cases e; exact canonical_stopAt h
  · exact canonical_deliver h e

theorem canonical_landLoad_getD {s : State} {u : State} {c l : Nat} {a : Access} {d : Dest} {r : Option (List Byte)}
    (h : s.canonical = true) (hu : u.canonical = true) : ((s.landLoad c l a d r).getD u).canonical = true :=
  canonical_getD hu fun _ e => canonical_landLoad h e

theorem canonical_timedLoad {s : State} {c l n : Nat} {a : Access} {t : Word} {d : Dest} (h : s.canonical = true) :
    (s.timedLoad c l a n t d).canonical = true := by
  have hr : (s.readAtHome c l a n).2.canonical = true := canonical_readAtHome h
  refine canonical_ite ((canonical_parkStrand ..).trans ((canonical_setCal ..).trans h)) ?_
  exact canonical_landLoad_getD ((canonical_dropClean ..).trans hr) hr

theorem canonical_waitedLoad {s : State} {p : Place} {c l : Nat} (h : s.canonical = true) : (s.waitedLoad p c l).canonical = true := by
  have hg (x : Cal) : (s.setCal p x).canonical = true := (canonical_setCal ..).trans h
  unfold State.waitedLoad
  split
  · exact h
  split
  · exact h
  · dsimp only
    split
    · exact canonical_ite (canonical_landLoad_getD (hg _) h) (hg _)
    · exact hg _

theorem canonical_withdrawLoad {s : State} {c l : Nat} (h : s.canonical = true) : (s.withdrawLoad c l).canonical = true := by
  unfold State.withdrawLoad
  split
  · exact (canonical_setCal ..).trans h
  · exact h

theorem canonical_linkExchange {s : State} {off : Int} {ok : Bool} (h : s.canonical = true) : (s.linkExchange off ok).canonical = true := by
  unfold State.linkExchange
  exact canonical_ite h (canonical_ite (canonical_ite h (canonical_ite h h)) (canonical_ite h h))

theorem canonical_releaseAll {s : State} (h : s.canonical = true) : s.releaseAll.canonical = true := by
  have hl :
      ((s.posted.filter Posted.isStore).foldl State.landStore { s with posted := s.posted.filter fun p => !p.isStore }).canonical = true :=
    canonical_fold (fun _ _ ht => canonical_landStore ht) _ h
  exact canonical_flushCxl (canonical_fold (fun _ _ ht => canonical_rdcFlushAll ht) _ hl)

theorem canonical_hostPut {s : State} {addr : Word} {bs : List Byte} (h : s.canonical = true) : (s.hostPut addr bs).canonical = true := by
  unfold State.hostPut
  dsimp only
  split
  · obtain ⟨hm, hh, hd⟩ := canonical_iff.mp h
    exact canonical_iff.mpr ⟨hm, Memory.wf_mwrite _ _ hh, hd⟩
  · exact canonical_writeSpan h

theorem canonical_record {s : State} {q i status code lid gen nabort : Nat} {rest : List Word} (h : s.canonical = true) :
    (s.record q i status code lid gen nabort rest).canonical = true :=
  canonical_hostPut (canonical_releaseAll h)

theorem canonical_startCore {s : State} {q : Launch} {c : Nat} (h : s.canonical = true) : (s.startCore q c).canonical = true :=
  canonical_fold (fun _ _ ht => canonical_ite (canonical_startStrand ht) ht) _ ((canonical_modCore ..).trans h)

theorem canonical_launchRecord {s : State} {q : Launch} (h : s.canonical = true) : (s.launchRecord q).canonical = true := by
  unfold State.launchRecord
  split
  · exact canonical_record h
  · exact canonical_record h

theorem canonical_published {s : State} {t : State} {c v : Nat} (h : s.canonical = true) (e : s.published c v = some t) :
    t.canonical = true := by
  unfold State.published at e
  split at e
  · split at e
    · cases e; exact h
    split at e
    · cases e
    · cases e; exact canonical_ite h (canonical_rdcFlushAll h)
  · cases e; exact h

theorem canonical_ask {s : State} {c v : Nat} (h : s.canonical = true) : (s.ask c v).canonical = true := by
  unfold State.ask
  split
  · exact h
  · next e =>
    have ht := canonical_published h e
    split
    · next e' => exact (canonical_modCore ..).trans (canonical_stealRec ht e')
    · exact ht

theorem canonical_report {s : State} {key : BitVec 24} {rep : Option Report} {status count : Nat} (h : s.canonical = true) :
    (s.report key rep status count).canonical = true := by
  unfold State.report
  split <;> exact h

theorem canonical_tryFill {s : State} {t : State} {c : Nat} {m : Msg} (h : s.canonical = true) (e : s.tryFill c m = some t) :
    t.canonical = true := by
  unfold State.tryFill at e
  split at e
  · cases e
  · dsimp only at e
    split at e
    · cases e; exact canonical_report h
    split at e
    · cases e; exact canonical_report h
    split at e
    · cases e; exact canonical_report ((canonical_modStrand ..).trans h)
    · cases e

theorem canonical_deliverFills {s : State} {c : Nat} {l : List Msg} (h : s.canonical = true) : (s.deliverFills c l).2.canonical = true := by
  refine canonical_foldPair h (fun p m hp => ?_) _
  split
  · next e => exact canonical_tryFill hp e
  · exact hp

theorem canonical_landFills {s : State} {c : Nat} (h : s.canonical = true) : (s.landFills c).canonical = true :=
  canonical_ite h ((canonical_modCore ..).trans (canonical_deliverFills (canonical_deliverFills h)))

theorem canonical_landComp {s : State} {idx : Nat} (h : s.canonical = true) : (s.landComp idx).canonical = true := by
  unfold State.landComp
  split
  · exact h
  · dsimp only
    split
    · exact h
    · exact h
    · exact canonical_ite h (canonical_ite h h)

theorem canonical_landNotice {s : State} {idx : Nat} (h : s.canonical = true) : (s.landNotice idx).canonical = true := by
  unfold State.landNotice
  split
  · exact h
  · dsimp only
    split
    · exact h
    · exact h
    · exact canonical_ite h h

theorem canonical_landHeld {s : State} {key : BitVec 24} (h : s.canonical = true) : (s.landHeld key).canonical = true := by
  refine canonical_fold (fun t _ ht => ?_) _ (canonical_fold (fun t _ ht => ?_) _ h)
  · split
    · exact canonical_landNotice ht
    · exact ht
  · split
    · exact canonical_landComp ht
    · exact ht

theorem canonical_abandon {s : State} {c l : Nat} (h : s.canonical = true) : (s.abandon c l).canonical = true :=
    canonical_letGo (canonical_leaveFault (canonical_withdrawLoad h))

end Sys2Proof.Machine
end

section
/-! SUPPORT. Canonical memories (StepsKeepCanonicalMemory): pre-emption and the host. What each operation leaves is canonical, and each
body of a strand or of an engine keeps the form. -/

open Std.Do

namespace Sys2Proof.Machine

set_option mvcgen.warning false

theorem canonical_saveParts {s : State} {α : Type} {base : Nat} {x : α} {ps : List (BlockPart α)} (h : s.canonical = true) :
    (s.saveParts base x ps).canonical = true :=
  canonical_fold (fun _ _ ht => canonical_writeSpan ht) _ h

theorem canonical_loadParts {s : State} {α : Type} {base : Nat} {x : α} {ps : List (BlockPart α)} (h : s.canonical = true) :
    (s.loadParts base x ps).2.canonical = true := by
  refine canonical_foldPair h (fun r p hr => ?_) _
  have hs := canonical_readSpan hr (pa := base + p.off) (n := min p.len (p.get r.1).length)
  dsimp only
  split
  · exact hr
  split
  · next e => rwa [e] at hs
  · next e => rwa [e] at hs

theorem canonical_saveCore {s : State} {q : Launch} {c : Nat} (h : s.canonical = true) : (s.saveCore q c).canonical = true :=
  canonical_fold (fun _ _ ht => canonical_saveParts ht) _ (canonical_saveParts (canonical_writeSpan (canonical_applyDue c h)))

theorem canonical_loadSlot {s : State} {q : Launch} {c l : Nat} {x : Strand} (h : s.canonical = true) :
    (s.loadSlot q c l x).2.canonical = true := by
  have e : @State.loadSlot = @State.loadSlot := rfl
  conv at e => rhs; delta State.loadSlot
  obtain ⟨head, hh⟩ := exists_name slotHead
  rw [e, hh]
  exact canonical_loadParts (s := (State.loadParts _ _ _ _).2) (canonical_loadParts h)

theorem canonical_loadCore {s : State} {q : Launch} {c : Nat} (h : s.canonical = true) : (s.loadCore q c).canonical = true := by
  have hp {t : State} {base : Nat} {x : Core} {ps : List (BlockPart Core)} (ht : t.canonical = true) :
      (t.loadParts base x ps).2.canonical = true := canonical_loadParts ht
  have hq := @canonical_loadSlot
  have hr := @canonical_readSpan
  obtain ⟨slots, es⟩ := exists_name (List.range 16)
  obtain ⟨parts, ep⟩ := exists_name (@State.loadParts Core)
  obtain ⟨slot, eq⟩ := exists_name @State.loadSlot
  obtain ⟨span, er⟩ := exists_name @State.readSpan
  unfold State.loadCore
  rw [ep] at hp
  rw [eq] at hq
  rw [er] at hr
  rw [es, ep, eq, er]
  split
  · exact (canonical_modCore ..).trans h
  · next kept _ =>
    dsimp only
    have hf {base : Nat} {v : Vector Strand 16} : (slots.foldl (fun (r : Vector Strand 16 × State) l =>
        (vset r.1 l (slot r.2 q c l (vget r.1 l)).1, (slot r.2 q c l (vget r.1 l)).2)) (v,
        (parts s base kept coreParts).2)).2.canonical = true :=
      canonical_foldPair (hp h) (fun r l hr => canonical_pair (hq hr)) _
    have hs {base n : Nat} {v : Vector Strand 16} {k : Core} :=
      (canonical_setCore _ c k).trans (hr (pa := base) (n := n) (hf (v := v) (base := base)))
    split
    · exact (canonical_mendWords ..).trans (canonical_homePut _ _ (canonical_applyDue _ hs))
    · exact hs

theorem canonical_stopStrand {s : State} {c l : Nat} (h : s.canonical = true) : (s.stopStrand c l).canonical = true := by
  have hd : (s.modStrand c l Strand.discard).canonical = true := (canonical_modStrand ..).trans h
  unfold State.stopStrand
  dsimp only
  split
  · exact canonical_ite ((canonical_modStrand ..).trans (canonical_abandon hd)) hd
  · exact canonical_letGo hd

theorem canonical_stopCore {s : State} {c : Nat} (h : s.canonical = true) : (s.stopCore c).canonical = true := by
  obtain ⟨slots, es⟩ := exists_name (List.range 16)
  unfold State.stopCore
  rw [es]
  exact (canonical_modCore ..).trans ((canonical_modDie ..).trans (canonical_fold (fun _ _ ht => canonical_stopStrand ht) _ h))

theorem canonical_finish {s : State} {q i status code lid gen : Nat} (h : s.canonical = true) :
    (s.finish q i status code lid gen).canonical = true := canonical_record h

theorem canonical_pinLeaves {s : State} {p : Pond} (h : s.canonical = true) : (s.pinLeaves p).canonical = true := by
  refine canonical_fold (fun t a ht => ?_) _ h
  split
  · exact canonical_promoteRow ht
  · exact ht

theorem canonical_demoteLeaves {s : State} {p : Pond} (h : s.canonical = true) : (s.demoteLeaves p).canonical = true := by
  refine canonical_fold (fun t a ht => ?_) _ h
  split
  · exact canonical_demoteRow ht
  · exact ht

theorem canonical_hostWrites :
    ∀ (f : Nat) {s : State} {pa : Nat} {bs : List Byte}, s.canonical = true → (s.hostWrites f pa bs).canonical = true := by
  intro f
  induction f with
  | zero => exact fun h => h
  | succ f ih =>
    intro s pa bs h
    exact canonical_ite h (ih (canonical_perform _ _ (canonical_settleBoth h)))

theorem canonical_barAccess {s : State} {wr : Bool} {o : Nat} {data : List Byte} (h : s.canonical = true) :
    (s.barAccess wr o data).canonical = true := by
  unfold State.barAccess
  exact canonical_ite (canonical_ite (t := State.modQueue _ _ _) h h) h

theorem canonical_killEntry {s : State} {pa : Nat} {w : Word} (h : s.canonical = true) : (s.killEntry pa w).canonical = true :=
    canonical_ite (canonical_writeControl h) (canonical_perform _ _ h)

theorem canonical_killLeaves {run : Nat × Nat} : ∀ (level table : Nat) {s : State}, s.canonical = true →
    (State.killLeaves run level table s).canonical = true := by
  intro level
  induction level with
  | zero =>
    intro table s h
    refine canonical_fold (fun t i ht => ?_) _ h
    have hr := canonical_readEntry ht (pa := table + 8 * i)
    split
    · next e => rw [e] at hr; exact canonical_ite (canonical_killEntry hr) hr
    · next e => rwa [e] at hr
  | succ level ih =>
    intro table s h
    refine canonical_fold (fun t i ht => ?_) _ h
    have hr := canonical_readEntry ht (pa := table + 8 * i)
    split
    · next e =>
      rw [e] at hr
      split
      · exact canonical_ite (canonical_killEntry hr) hr
      · exact ih _ hr
      · exact hr
    · next e => rwa [e] at hr

theorem canonical_unmap {s : State} {run : Nat × Nat} (h : s.canonical = true) : (s.unmap run).canonical = true :=
  canonical_fold (f := fun s d => s.tlbDrop d _) (fun _ _ ht => canonical_tlbDrop ht) _
    (canonical_fold (f := fun s c => State.killLeaves run 4 (s.rootOf c) s) (fun _ _ ht => canonical_killLeaves 4 _ ht) _ h)

theorem canonical_flushRun {s : State} {run : Nat × Nat} (h : s.canonical = true) : (s.flushRun run).canonical = true := by
  refine canonical_fold (fun _ n ht => canonical_lineOut n ht) _ (canonical_fold (fun t d ht => ?_) _ (canonical_settleAll h))
  exact canonical_fold (fun _ n ht => canonical_rdcDrop d n ht) _ ht

theorem canonical_loseRun {s : State} {run : Nat × Nat} (h : s.canonical = true) : (s.loseRun run).canonical = true := by
  have hs : s.settleAll.canonical = true := canonical_settleAll h
  exact canonical_fold (fun _ n ht => canonical_lineLost n ht) _ hs

theorem canonical_loseDevices {s : State} {lost : List Nat} (h : s.canonical = true) : (s.loseDevices lost).canonical = true :=
  canonical_fold (f := State.ackStore) (fun _ _ ht => (canonical_modStrand ..).trans ht) _ h

end Sys2Proof.Machine
end

section
/-! SUPPORT. Canonical memories (StepsKeepCanonicalMemory): floating point, vectors and tiles. What each operation leaves is canonical,
and each body of a strand or of an engine keeps the form. -/

open Std.Do

namespace Sys2Proof.Machine

set_option mvcgen.warning false

theorem keeps_settleMine : Keeps settleMine := keeps_modify fun _ h => canonical_settleCore h

theorem keeps_needTile {t : BitVec 6} : Keeps (needTile t) := by
  mvcgen [needTile, keeps_myCore, keeps_trap]

theorem keeps_unowned {t : BitVec 6} : Keeps (unowned t) := by
  mvcgen [unowned, keeps_myCore, keeps_park]

theorem keeps_needRing {r : BitVec 4} : Keeps (needRing r) := by
  mvcgen [needRing, keeps_myCore, keeps_trap]

theorem keeps_tileAccess {t : BitVec 6} {off : Word} : Keeps (tileAccess t off) := by
  mvcgen [tileAccess, keeps_needTile, keeps_park, keeps_trap]

end Sys2Proof.Machine
end

section
/-! SUPPORT. Canonical memories (StepsKeepCanonicalMemory): fetching, the barrel and the loss of cached contents. What each operation
leaves is canonical, and each body of a strand or of an engine keeps the form. -/

open Std.Do

namespace Sys2Proof.Machine

set_option mvcgen.warning false

theorem canonical_fetched {s t : State} {p : Place} (h : t.canonical = true) : (s.fetched t p).canonical = true := canonical_ite h h

theorem keeps_readSector {a : Access} : Keeps (readSector a) := by
  refine .bind (keeps_modify fun _ h => canonical_settle _ h) fun _ => keeps_get_bind fun s h => ?_
  dsimp only
  split
  · split
    · refine .bind keeps_readCached fun r => ?_
      split
      · exact .bind (keeps_modify fun _ h => canonical_fetched h) fun _ => keeps_pure
      · exact keeps_trap
    · split
      · refine .bind (keeps_set (canonical_fetched ((canonical_fillFor ..).trans h))) fun _ => ?_
        exact keeps_when keeps_countRemote fun _ => keeps_pure
      · exact keeps_trap
  · have hr := canonical_readAt h (p := a.place) (pa := a.pa / 64 * 64) (n := 64)
    split
    · next e => exact .bind (keeps_set (by rwa [e] at hr)) fun _ => .bind keeps_countRemote fun _ => keeps_pure
    · exact keeps_trap

theorem keeps_fetch : Keeps fetch := by
  mvcgen [fetch, keeps_me, keeps_translate, keeps_checkRefused, keeps_myCore, keeps_freeNat, keeps_readSector, keeps_modCore, keeps_trap]

theorem canonical_fetchStopped {s : State} {e : Stop} (h : s.canonical = true) : (s.fetchStopped e).canonical = true := by
  unfold State.fetchStopped
  split
  · exact canonical_fetchTrap (canonical_ite ((canonical_countUe ..).trans h) h)
  · exact canonical_stopped h

theorem canonical_barDone {s : State} {t : State} {u : Nat} {p : BitVec 32} (h : s.canonical = true) (e : s.barDone u p = some t) :
    t.canonical = true := by
  unfold State.barDone at e
  split at e
  · split at e
    · split at e
      · next e' => cases e; exact (canonical_retireNext ..).trans (canonical_forStrand h keeps_acquire e')
      · cases e
    · cases e
  · cases e

theorem canonical_barDone_getD {s : State} {u : Nat} {p : BitVec 32} (h : s.canonical = true) : ((s.barDone u p).getD s).canonical = true :=
  canonical_getD h fun _ e => canonical_barDone h e

theorem canonical_unpark {s : State} (h : s.canonical = true) : s.unpark.canonical = true := by
  unfold State.unpark
  dsimp only
  split
  · split
    · exact h
    split
    · exact canonical_barDone_getD h
    · exact (canonical_retireNext ..).trans (canonical_tlbinvEnd h)
    · exact h
  · exact h

theorem canonical_boundary {s : State} {c : Nat} (h : s.canonical = true) : (s.boundary c).canonical = true :=
  canonical_fold (f := fun s l => { State.unpark { s with cur := (c, l) } with cur := s.cur })
    (fun t l ht => canonical_unpark (s := { t with cur := (c, l) }) ht) _ (canonical_landFills h)

theorem canonical_finishTlbinv {s : State} {c : Nat} (h : s.canonical = true) : (s.finishTlbinv c).canonical = true := by
  refine canonical_fold (fun t l ht => ?_) _ h
  split
  · exact canonical_unpark (s := { t with cur := (c, l) }) ht
  · exact ht

theorem canonical_pass {s : State} {dt : Nat} {slew : List Int} (h : s.canonical = true) : (s.pass dt slew).canonical = true := h

theorem canonical_spoilClean {s : State} {q : Nat} (h : s.canonical = true) : (s.spoilClean q).canonical = true :=
    canonical_ite (t := State.countCache _ _) ((canonical_dropValid ..).trans h) h

theorem canonical_evict {s : State} {e : Evict} (h : s.canonical = true) : (s.evict e).canonical = true := by
  unfold State.evict
  split
  · exact canonical_ite (t := State.modCore _ _ _) h h
  · exact h
  · exact canonical_ite (t := State.modCore _ _ _) h h
  · exact canonical_ite (t := State.countCache _ _) h h
  · exact canonical_rdcDrop _ _ h
  · split
    · exact canonical_ite (t := State.countCache _ _) h h
    · exact h
  · exact canonical_spoilClean h
  · exact canonical_evictHome _ h
  · exact canonical_evictMsc _ h
  · exact canonical_ite h h
  · exact canonical_ite h h
  · refine canonical_ite ?_ h
    unfold State.spoilRdc
    split
    · exact canonical_ite h h
    · exact h

end Sys2Proof.Machine
end

section
/-! SUPPORT. Canonical memories (StepsKeepCanonicalMemory): what an instruction, or a step of the device, answers. -/

open Std.Do

namespace Sys2Proof.Machine

set_option mvcgen.warning false

/-- When an instruction, or a step of the device, answers a next state, it is canonical. -/
def Leaves (o : Host.Outcome State Fault Refusal) : Prop := ∀ t, o = .next t → t.canonical = true

theorem Leaves.next {t : State} (h : t.canonical = true) : Leaves (.next t) := by
  rintro _ ⟨⟩
  exact h

theorem leaves_fault {r : Fault} : Leaves (.fault r) := fun _ e => nomatch e

theorem leaves_ite {p : Prop} [Decidable p] {a b : Host.Outcome State Fault Refusal} (ha : Leaves a) (hb : Leaves b) :
    Leaves (if p then a else b) := by
  split
  · exact ha
  · exact hb

/-- An instruction leaves a canonical state when its body keeps the form: what ends it, traps and parks do too (`canonical_run`). -/
theorem leaves_instr {s : State} {m : M After} (h : s.canonical = true) (hm : Keeps m) : Leaves (instr m s) :=
  .next (canonical_run h hm)

theorem keeps_fourV {a b c d : Nat} : Keeps (four readV a b c d) := keeps_four fun _ => keeps_readV

/-! Records that the form does not speak of, stated for a state of its own: what made that state is not to be unfolded -/

section
variable {s : State} (h : s.canonical = true)
include h

theorem canonical_pushes {d : Nat} {f : Die → Die} {p : List Push} : ({ s.modDie d f with pushes := p } : State).canonical = true := h
theorem canonical_msix {l : List Nat} : ({ s with msix := l } : State).canonical = true := h
theorem canonical_cxlRels {r : List CxlRel} : ({ s with cxlRels := r } : State).canonical = true := h
theorem canonical_withdrawExtent {base size : Nat} : (s.withdrawExtent base size).canonical = true := h
end

/-- A memory whose cells are moved under another device number keeps its form. -/
theorem wf_rekey {old new : Nat} {m : Memory} (h : m.wf = true) : (rekey old new m).wf = true :=
  foldl_keeps (P := fun m : Memory => m.wf = true) (fun _ _ ht => Memory.wf_mput _ _ ht) _ (Memory.wf_filter _ h)

end Sys2Proof.Machine
end

section
/-! SUPPORT. Canonical memories (StepsKeepCanonicalMemory): the instructions and the steps of the device, integer arithmetic, flags, loads
and stores. -/

open Std.Do

namespace Sys2Proof.Machine

set_option mvcgen.warning false

theorem leaves_sel {s : State} {d a b c : BitVec 5} (h : s.canonical = true) : Leaves (execSel d a b c s) := by
  refine leaves_instr h ?_
  mvcgen [keeps_threeG, keeps_readG, keeps_writeG]

theorem leaves_ldi {s : State} {d : BitVec 5} {imm : BitVec 21} (h : s.canonical = true) : Leaves (execLdi d imm s) := by
  refine leaves_instr h ?_
  mvcgen [keeps_writeG]

theorem leaves_vld {s : State} {d : BitVec 4} {a : BitVec 5} {imm : BitVec 16} (h : s.canonical = true) : Leaves (execVld d a imm s) := by
  refine leaves_instr h ?_
  mvcgen [keeps_readG, keeps_load]

theorem leaves_vst {s : State} {b : BitVec 4} {a : BitVec 5} {imm : BitVec 16} (h : s.canonical = true) : Leaves (execVst b a imm s) := by
  refine leaves_instr h ?_
  mvcgen [keeps_readG, keeps_readV, keeps_store]

theorem leaves_ldx {s : State} {d a b : BitVec 5} {h : BitVec 2} {n : BitVec 1} {sc : BitVec 2} (hs : s.canonical = true) :
    Leaves (execLdx d a b h n sc s) := by
  refine leaves_instr hs ?_
  mvcgen [keeps_twoG, keeps_load]

theorem leaves_stx {s : State} {d a b : BitVec 5} {h : BitVec 2} {sc : BitVec 2} (hs : s.canonical = true) :
    Leaves (execStx d a b h sc s) := by
  refine leaves_instr hs ?_
  mvcgen [keeps_threeG, keeps_store]

theorem leaves_ldt {s : State} {d a b : BitVec 5} {n : BitVec 1} {sc : BitVec 2} (h : s.canonical = true) :
    Leaves (execLdt d a b n sc s) := by
  refine leaves_instr h ?_
  mvcgen [keeps_twoG, keeps_readG, keeps_checked, keeps_me, keeps_tryDest, keeps_predict, keeps_giveUp, keeps_holdDest,
    keeps_countRemote, keeps_park]

theorem leaves_stt {s : State} {d a b : BitVec 5} {sc : BitVec 2} (h : s.canonical = true) : Leaves (execStt d a b sc s) := by
  refine leaves_instr h ?_
  mvcgen [keeps_threeG, keeps_readG, keeps_checked, keeps_predict, keeps_pushStore]

theorem leaves_promote {s : State} {d a : BitVec 5} {p : BitVec 1} (h : s.canonical = true) : Leaves (execPromote d a p s) := by
  refine leaves_instr h ?_
  mvcgen [keeps_rowCommand, keeps_promoteAt, keeps_promoteFar]

theorem leaves_demote {s : State} {d a : BitVec 5} (h : s.canonical = true) : Leaves (execDemote d a s) := by
  refine leaves_instr h ?_
  mvcgen [keeps_rowCommand, keeps_demoteAt, keeps_demoteFar]

theorem leaves_pref {s : State} {a : BitVec 5} (h : s.canonical = true) : Leaves (execPref a s) := by
  refine leaves_instr h ?_
  mvcgen [keeps_readable, keeps_readG]
  all_goals grind [canonical_prefAccess, canonical_settle, canonical_homeFill, canonical_countUe, canonical_rdcRead]

theorem leaves_leap {s : State} {d a : BitVec 5} (h : s.canonical = true) : Leaves (execLeap d a s) := by
  refine leaves_instr h ?_
  mvcgen [keeps_readG, keeps_translate, keeps_standing, keeps_writeG, keeps_leapTo, keeps_trap]

theorem leaves_fence {s : State} {sc : BitVec 3} (h : s.canonical = true) : Leaves (execFence sc s) := by
  refine leaves_instr h ?_
  mvcgen [keeps_release, keeps_acquire]

theorem leaves_acq {s : State} {sc : BitVec 3} (h : s.canonical = true) : Leaves (execAcq sc s) := by
  refine leaves_instr h ?_
  mvcgen [keeps_acquire]

theorem leaves_rel {s : State} {sc : BitVec 3} (h : s.canonical = true) : Leaves (execRel sc s) := by
  refine leaves_instr h ?_
  mvcgen [keeps_release]

theorem leaves_amocas {s : State} {d a b : BitVec 5} {r q sc : BitVec 1} (h : s.canonical = true) : Leaves (execAmocas d a b r q sc s) := by
  refine leaves_instr h ?_
  mvcgen [keeps_threeG, keeps_readG, keeps_amoChecked, keeps_amoGo]

end Sys2Proof.Machine
end

section
/-! SUPPORT. Canonical memories (StepsKeepCanonicalMemory): the instructions and the steps of the device, tasks, barriers and strands. -/

open Std.Do

namespace Sys2Proof.Machine

set_option mvcgen.warning false

theorem leaves_arrive {s : State} {d a : BitVec 5} (h : s.canonical = true) : Leaves (execArrive d a s) := by
  refine leaves_instr h ?_
  mvcgen [keeps_readG, keeps_barrierOf, keeps_release, keeps_holdArrival, keeps_writeG]
  all_goals grind [canonical_arrive]

theorem leaves_waitb {s : State} {a b : BitVec 5} (h : s.canonical = true) : Leaves (execWaitb a b s) := by
  refine leaves_instr h ?_
  mvcgen [keeps_twoG, keeps_readG, keeps_barrierOf, keeps_acquire, keeps_park]

theorem leaves_bar {s : State} {a : BitVec 5} (h : s.canonical = true) : Leaves (execBar a s) := by
  refine leaves_instr h ?_
  mvcgen [keeps_me, keeps_barWait, keeps_readG, keeps_barrierOf, keeps_release, keeps_holdArrival]
  all_goals grind [canonical_arrive]

theorem leaves_binit {s : State} {a b : BitVec 5} (h : s.canonical = true) : Leaves (execBinit a b s) := by
  refine leaves_instr h ?_
  mvcgen [keeps_twoG, keeps_readG, keeps_me, keeps_trap]

theorem leaves_tsleep {s : State} {a : BitVec 5} (h : s.canonical = true) : Leaves (execTsleep a s) := by
  refine leaves_instr h ?_
  mvcgen [keeps_readG, keeps_park]

theorem leaves_wpset {s : State} {d a : BitVec 5} (h : s.canonical = true) : Leaves (execWpset d a s) := by
  refine leaves_instr h ?_
  mvcgen [keeps_readG, keeps_wordsAt, keeps_translate, keeps_me, keeps_trap, keeps_writeG]
  all_goals grind [canonical_modDie, canonical_settleAll]

theorem leaves_wpclr {s : State} {a : BitVec 5} (h : s.canonical = true) : Leaves (execWpclr a s) := by
  refine leaves_instr h (.bind keeps_readG fun w => keeps_get_bind fun s h => keeps_when keeps_trap fun _ => ?_)
  dsimp only
  split
  · exact keeps_trap
  · refine .bind keeps_me fun x => ?_
    split
    · exact keeps_trap
    · exact .bind (keeps_set (canonical_pushes (canonical_settleAll h))) fun _ => keeps_pure

theorem leaves_spawn {s : State} {d a b : BitVec 5} (h : s.canonical = true) : Leaves (execSpawn d a b s) := by
  refine leaves_instr h ?_
  mvcgen [keeps_twoG, keeps_readG, keeps_checkEntry, keeps_checkCore, keeps_payload, keeps_me, keeps_releaseKept, keeps_tryDest,
    keeps_writeG, keeps_holdDest]
  all_goals grind [canonical_spawnAt]

theorem leaves_fork {s : State} {a c : BitVec 5} (h : s.canonical = true) : Leaves (execFork a c s) := by
  refine leaves_instr h ?_
  mvcgen [keeps_twoG, keeps_readG, keeps_checkEntry, keeps_payload, keeps_linkRec, keeps_releaseKept, keeps_trap]
  all_goals grind [canonical_pushRec]

theorem leaves_spawnq {s : State} {a b c : BitVec 5} (h : s.canonical = true) : Leaves (execSpawnq a b c s) := by
  refine leaves_instr h ?_
  mvcgen [keeps_threeG, keeps_readG, keeps_checkEntry, keeps_checkCore, keeps_payload, keeps_linkRec, keeps_releaseKept, keeps_trap,
    keeps_checkPath, keeps_place]
  all_goals grind [canonical_pushRec]

theorem leaves_msg {s : State} {a b : BitVec 5} (h : s.canonical = true) : Leaves (execMsg a b s) := by
  refine leaves_instr h ?_
  mvcgen [keeps_twoG, keeps_readG, keeps_checkEntry, keeps_checkCore, keeps_payload, keeps_me, keeps_releaseKept, keeps_checkPath,
    keeps_place]

theorem leaves_quit {s : State} (h : s.canonical = true) : Leaves (execQuit s) := by
  refine leaves_instr h ?_
  mvcgen [keeps_me, keeps_modCore, keeps_modMe, keeps_park]

theorem leaves_fill {s : State} {d a b : BitVec 5} (h : s.canonical = true) : Leaves (execFill d a b s) := by
  refine leaves_instr h ?_
  mvcgen [keeps_twoG, keeps_readG, keeps_checkFill, keeps_release, keeps_checkPath, keeps_newReport, keeps_place]

theorem leaves_fwd {s : State} {d a b : BitVec 5} (h : s.canonical = true) : Leaves (execFwd d a b s) := by
  refine leaves_instr h ?_
  mvcgen [keeps_readG, keeps_checkFill, keeps_me, keeps_isPort, keeps_release, keeps_checkPath, keeps_newReport, keeps_place,
    keeps_fwdHandle, keeps_modMe, keeps_acquire, keeps_trap]

theorem leaves_empty {s : State} {d : BitVec 5} {k : BitVec 2} (h : s.canonical = true) : Leaves (execEmpty d k s) := by
  refine leaves_instr h ?_
  mvcgen [keeps_special, keeps_modMe, keeps_trap]

theorem leaves_take {s : State} {d a : BitVec 5} {k : BitVec 2} (h : s.canonical = true) : Leaves (execTake d a k s) := by
  refine leaves_instr h ?_
  mvcgen [keeps_special, keeps_readG, keeps_modMe, keeps_writeG, keeps_readF, keeps_writeF, keeps_readV, keeps_writeV, keeps_trap]

theorem leaves_rstate {s : State} {d a : BitVec 5} {k : BitVec 2} (h : s.canonical = true) : Leaves (execRstate d a k s) := by
  refine leaves_instr h ?_
  mvcgen [keeps_special, keeps_me, keeps_writeG]

theorem leaves_await {s : State} {d a : BitVec 5} (h : s.canonical = true) : Leaves (execAwait d a s) := by
  refine leaves_instr h ?_
  mvcgen [keeps_readG, keeps_me, keeps_writeG, keeps_park, keeps_modMe, keeps_acquire]

theorem leaves_ftest {s : State} {d a : BitVec 5} (h : s.canonical = true) : Leaves (execFtest d a s) := by
  refine leaves_instr h (.bind keeps_me fun x => .bind keeps_get fun s => .bind keeps_isPort fun port => ?_)
  extract_lets waits _
  clear_value waits
  split
  · exact .bind keeps_writeG fun _ => keeps_pure
  · exact .bind keeps_readG fun _ => .bind keeps_writeG fun _ => keeps_pure

theorem leaves_fcancel {s : State} {a : BitVec 5} (h : s.canonical = true) : Leaves (execFcancel a s) := by
  refine leaves_instr h ?_
  mvcgen [keeps_me, keeps_modCore]

theorem leaves_pipe {s : State} {d a : BitVec 5} (h : s.canonical = true) : Leaves (execPipe d a s) := by
  refine leaves_instr h ?_
  mvcgen [keeps_readG, keeps_writeG, keeps_modCore, keeps_trap]

end Sys2Proof.Machine
end

section
/-! SUPPORT. Canonical memories (StepsKeepCanonicalMemory): the instructions and the steps of the device, floating point, vectors and
tiles. -/

open Std.Do

namespace Sys2Proof.Machine

set_option mvcgen.warning false

theorem leaves_fsgn {s : State} {d a b : BitVec 5} {m f : BitVec 2} (h : s.canonical = true) : Leaves (execFsgn d a b m f s) := by
  refine leaves_instr h ?_
  mvcgen [keeps_twoF, keeps_readF, keeps_writeF]

theorem leaves_fclass {s : State} {d a : BitVec 5} {f : BitVec 2} (h : s.canonical = true) : Leaves (execFclass d a f s) := by
  refine leaves_instr h ?_
  mvcgen [keeps_readF, keeps_writeG]

theorem leaves_fcvt {s : State} {d a b c : BitVec 5} (h : s.canonical = true) : Leaves (execFcvt d a b c s) := by
  refine leaves_instr h ?_
  mvcgen [keeps_me, keeps_checkNarrow, keeps_readF, keeps_converted, keeps_writeF]

theorem leaves_fcvti {s : State} {d a b c : BitVec 5} (h : s.canonical = true) : Leaves (execFcvti d a b c s) := by
  refine leaves_instr h ?_
  mvcgen [keeps_me, keeps_checkNarrow, keeps_readF, keeps_converted, keeps_writeG]

theorem leaves_icvtf {s : State} {d a b c : BitVec 5} (h : s.canonical = true) : Leaves (execIcvtf d a b c s) := by
  refine leaves_instr h ?_
  mvcgen [keeps_me, keeps_checkNarrow, keeps_readG, keeps_converted, keeps_writeF]

theorem leaves_fmvgf {s : State} {d a : BitVec 5} (h : s.canonical = true) : Leaves (execFmvgf d a s) := by
  refine leaves_instr h ?_
  mvcgen [keeps_readG, keeps_writeF]

theorem leaves_fmvfg {s : State} {d a : BitVec 5} (h : s.canonical = true) : Leaves (execFmvfg d a s) := by
  refine leaves_instr h ?_
  mvcgen [keeps_readF, keeps_writeG]

theorem leaves_vfma {s : State} {d a b c : BitVec 4} (h : s.canonical = true) : Leaves (execVfma d a b c s) := by
  refine leaves_instr h ?_
  mvcgen [keeps_laneType, keeps_threeV, keeps_readV, keeps_me, keeps_roundLanes, keeps_writeV]

theorem leaves_vsel {s : State} {d a b c : BitVec 4} (h : s.canonical = true) : Leaves (execVsel d a b c s) := by
  refine leaves_instr h ?_
  mvcgen [keeps_laneType, keeps_threeV, keeps_readV, keeps_writeV]

theorem leaves_vscale {s : State} {d a b : BitVec 4} (h : s.canonical = true) : Leaves (execVscale d a b s) := by
  refine leaves_instr h ?_
  mvcgen [keeps_laneType, keeps_illop, keeps_twoV, keeps_readV, keeps_me, keeps_roundLanes]

theorem leaves_vbcast {s : State} {d : BitVec 4} {a : BitVec 5} (h : s.canonical = true) : Leaves (execVbcast d a s) := by
  refine leaves_instr h ?_
  mvcgen [keeps_laneType, keeps_readG, keeps_writeV]

theorem leaves_vextr {s : State} {d : BitVec 5} {a : BitVec 4} {b : BitVec 5} (h : s.canonical = true) : Leaves (execVextr d a b s) := by
  refine leaves_instr h ?_
  mvcgen [keeps_laneType, keeps_readV, keeps_readG, keeps_writeG]

theorem leaves_vinsr {s : State} {d : BitVec 4} {a b : BitVec 5} (h : s.canonical = true) : Leaves (execVinsr d a b s) := by
  refine leaves_instr h ?_
  mvcgen [keeps_laneType, keeps_twoG, keeps_readG, keeps_readV, keeps_writeV]

theorem leaves_vperm {s : State} {d a b : BitVec 4} (h : s.canonical = true) : Leaves (execVperm d a b s) := by
  refine leaves_instr h ?_
  mvcgen [keeps_twoV, keeps_readV, keeps_writeV]

theorem leaves_vslide {s : State} {d a b : BitVec 4} {c : BitVec 5} (h : s.canonical = true) : Leaves (execVslide d a b c s) := by
  refine leaves_instr h ?_
  mvcgen [keeps_moveType, keeps_twoV, keeps_readV, keeps_readG, keeps_writeV]

theorem leaves_vzip {s : State} {d a b : BitVec 4} {h : BitVec 1} (hs : s.canonical = true) : Leaves (execVzip d a b h s) := by
  refine leaves_instr hs ?_
  mvcgen [keeps_moveType, keeps_twoV, keeps_writeV]

theorem leaves_vunzip {s : State} {d a b : BitVec 4} {h : BitVec 1} (hs : s.canonical = true) : Leaves (execVunzip d a b h s) := by
  refine leaves_instr hs ?_
  mvcgen [keeps_moveType, keeps_twoV, keeps_writeV]

theorem leaves_vmov {s : State} {d a : BitVec 4} (h : s.canonical = true) : Leaves (execVmov d a s) := by
  refine leaves_instr h ?_
  mvcgen [keeps_readV, keeps_writeV]

theorem leaves_vredsum {s : State} {d : BitVec 5} {a : BitVec 4} (h : s.canonical = true) : Leaves (execVredsum d a s) := by
  refine leaves_instr h ?_
  mvcgen [keeps_laneType, keeps_readV, keeps_me, keeps_deliver, keeps_writeG]

theorem leaves_vmergek {s : State} {d a b : BitVec 4} (h : s.canonical = true) : Leaves (execVmergek d a b s) := by
  refine leaves_instr h ?_
  mvcgen [keeps_fourV, keeps_writeV]

theorem leaves_vcvt {s : State} {d a p : BitVec 4} (h : s.canonical = true) : Leaves (execVcvt d a p s) := by
  refine leaves_instr h ?_
  mvcgen [keeps_me, keeps_readV, keeps_writeV, keeps_raise, keeps_illop]

theorem leaves_vdot {s : State} {d a b : BitVec 4} {c : BitVec 5} {p : BitVec 6} (h : s.canonical = true) :
    Leaves (execVdot d a b c p s) := by
  refine leaves_instr h ?_
  mvcgen [keeps_me, keeps_twoV, keeps_readV, keeps_readF, keeps_writeV, keeps_roundLanes, keeps_illop]

end Sys2Proof.Machine
end

section
/-! SUPPORT. Canonical memories (StepsKeepCanonicalMemory): the instructions and the steps of the device, engines, their commands and the
control instructions. -/

open Std.Do

namespace Sys2Proof.Machine

set_option mvcgen.warning false

theorem leaves_eset {s : State} {a : BitVec 5} {er : BitVec 10} (h : s.canonical = true) : Leaves (execEset a er s) := by
  refine leaves_instr h ?_
  mvcgen [keeps_readG, keeps_modMe]

theorem leaves_eget {s : State} {d : BitVec 5} {er : BitVec 10} (h : s.canonical = true) : Leaves (execEget d er s) := by
  refine leaves_instr h ?_
  mvcgen [keeps_me, keeps_writeG]

theorem leaves_mma {s : State} {d a : BitVec 5} {p : BitVec 4} (h : s.canonical = true) : Leaves (execMma d a p s) := by
  refine leaves_instr h ?_
  mvcgen [keeps_me, keeps_readG, keeps_snapshot, keeps_myCore, keeps_checkMctl, keeps_needOp, keeps_enqueue, keeps_illop]

theorem leaves_mmv {s : State} {d a b : BitVec 5} (h : s.canonical = true) : Leaves (execMmv d a b s) := by
  refine leaves_instr h ?_
  mvcgen [keeps_twoG, keeps_readG, keeps_me, keeps_snapshot, keeps_checkMctl, keeps_needReg, keeps_needOp, keeps_checkRanges,
    keeps_enqueue]

theorem leaves_mclr {s : State} {d a : BitVec 5} (h : s.canonical = true) : Leaves (execMclr d a s) := by
  refine leaves_instr h ?_
  mvcgen [keeps_readG, keeps_me, keeps_snapshot, keeps_checkMctl, keeps_needOp, keeps_enqueue]

theorem leaves_mld {s : State} {d a b : BitVec 5} (h : s.canonical = true) : Leaves (execMld d a b s) := by
  refine leaves_instr h ?_
  mvcgen [keeps_twoG, keeps_readG, keeps_me, keeps_snapshot, keeps_checkMctl, keeps_needOp, keeps_enqueue]

theorem leaves_mst {s : State} {d a b : BitVec 5} (h : s.canonical = true) : Leaves (execMst d a b s) := by
  refine leaves_instr h ?_
  mvcgen [keeps_twoG, keeps_readG, keeps_me, keeps_snapshot, keeps_checkMctl, keeps_needReg, keeps_needOp, keeps_enqueue]

theorem leaves_topk {s : State} {d a b : BitVec 5} (h : s.canonical = true) : Leaves (execTopk d a b s) := by
  refine leaves_instr h ?_
  mvcgen [keeps_twoG, keeps_readG, keeps_me, keeps_snapshot, keeps_checkSlctl, keeps_needReg, keeps_needOp, keeps_checkRanges,
    keeps_enqueue]

theorem leaves_mergel {s : State} {d a b : BitVec 5} (h : s.canonical = true) : Leaves (execMergel d a b s) := by
  refine leaves_instr h ?_
  mvcgen [keeps_twoG, keeps_readG, keeps_me, keeps_snapshot, keeps_checkSlctl, keeps_needReg, keeps_needOp, keeps_checkRanges,
    keeps_enqueue]

theorem leaves_tjins {s : State} {d : BitVec 5} (h : s.canonical = true) : Leaves (execTjins d s) := by
  refine leaves_instr h ?_
  mvcgen [keeps_pondSnap, keeps_enqueue]

theorem leaves_tjapp {s : State} {d a b : BitVec 5} (h : s.canonical = true) : Leaves (execTjapp d a b s) := by
  refine leaves_instr h ?_
  mvcgen [keeps_twoG, keeps_readG, keeps_pondSnap, keeps_needReg, keeps_needOp, keeps_checkRanges, keeps_enqueue]

theorem leaves_tjsmp {s : State} {d a b : BitVec 5} (h : s.canonical = true) : Leaves (execTjsmp d a b s) := by
  refine leaves_instr h ?_
  mvcgen [keeps_readG, keeps_me, keeps_pondSnap, keeps_needReg, keeps_needOp, keeps_checkRanges, keeps_enqueue]

theorem leaves_tjget {s : State} {d a b : BitVec 5} (h : s.canonical = true) : Leaves (execTjget d a b s) := by
  refine leaves_instr h ?_
  mvcgen [keeps_twoG, keeps_readG, keeps_pondSnap, keeps_myCore, keeps_needReg, keeps_needOp, keeps_checkRanges, keeps_enqueue]

theorem leaves_tjevi {s : State} {d a : BitVec 5} (h : s.canonical = true) : Leaves (execTjevi d a s) := by
  refine leaves_instr h ?_
  mvcgen [keeps_readG, keeps_pondSnap, keeps_needOp, keeps_enqueue]

theorem leaves_tjver {s : State} {d a b : BitVec 5} (h : s.canonical = true) : Leaves (execTjver d a b s) := by
  refine leaves_instr h ?_
  mvcgen [keeps_twoG, keeps_readG, keeps_pondSnap, keeps_needOp, keeps_enqueue]

theorem leaves_tjstat {s : State} {d b : BitVec 5} (h : s.canonical = true) : Leaves (execTjstat d b s) := by
  refine leaves_instr h ?_
  mvcgen [keeps_readG, keeps_pondSnap, keeps_needOp, keeps_checkRanges, keeps_enqueue]

theorem leaves_jmp {s : State} {o : BitVec 26} (h : s.canonical = true) : Leaves (execJmp o s) := by
  refine leaves_instr h ?_
  mvcgen [keeps_myPc]

theorem leaves_jr {s : State} {a : BitVec 5} (h : s.canonical = true) : Leaves (execJr a s) := by
  refine leaves_instr h ?_
  mvcgen [keeps_readG, keeps_checkTarget]

theorem leaves_call {s : State} {o : BitVec 26} (h : s.canonical = true) : Leaves (execCall o s) := by
  refine leaves_instr h ?_
  mvcgen [keeps_myPc, keeps_callTo]

theorem leaves_callr {s : State} {a : BitVec 5} (h : s.canonical = true) : Leaves (execCallr a s) := by
  refine leaves_instr h ?_
  mvcgen [keeps_readG, keeps_checkTarget, keeps_callTo]

theorem leaves_ret {s : State} (h : s.canonical = true) : Leaves (execRet s) := by
  refine leaves_instr h ?_
  mvcgen [keeps_me, keeps_checkTarget, keeps_modMe, keeps_markDead, keeps_rasAccess, keeps_rasLoad, keeps_trap]

theorem leaves_eret {s : State} (h : s.canonical = true) : Leaves (execEret s) := by
  refine leaves_instr h ?_
  mvcgen [keeps_me, keeps_checkTarget, keeps_modMe]

theorem leaves_mfs {s : State} {d : BitVec 5} {sc : BitVec 10} (h : s.canonical = true) : Leaves (execMfs d sc s) := by
  refine leaves_instr h ?_
  mvcgen [keeps_me, keeps_writeG]

theorem leaves_mts {s : State} {a : BitVec 5} {sc : BitVec 10} (h : s.canonical = true) : Leaves (execMts a sc s) := by
  refine leaves_instr h ?_
  mvcgen [keeps_mtsPriv, keeps_readG, keeps_modMe, keeps_trap]

theorem leaves_mfk {s : State} {d : BitVec 5} {k : BitVec 4} (h : s.canonical = true) : Leaves (execMfk d k s) := by
  refine leaves_instr h ?_
  mvcgen [keeps_writeG, keeps_modCore, keeps_throw, -Spec.throw_MonadExcept]

theorem leaves_mtk {s : State} {k : BitVec 4} {a : BitVec 5} (h : s.canonical = true) : Leaves (execMtk k a s) := by
  refine leaves_instr h ?_
  mvcgen [keeps_readG, keeps_releaseOr, keeps_modCore, keeps_throw, -Spec.throw_MonadExcept]

theorem leaves_cctlWb {s : State} {a : BitVec 5} (h : s.canonical = true) : Leaves (execCctlWb a s) := by
  refine leaves_instr h (.bind keeps_cctlLine fun o => ?_)
  cases o with
  | none => exact keeps_pure
  | some x => exact .bind (keeps_modify fun _ ht => canonical_cctlWb ht) fun _ => keeps_pure

theorem leaves_cctlInv {s : State} {a : BitVec 5} (h : s.canonical = true) : Leaves (execCctlInv a s) := by
  refine leaves_instr h (.bind keeps_cctlLine fun o => ?_)
  cases o with
  | none => exact keeps_pure
  | some x =>
    exact .bind (keeps_modify fun _ ht => canonical_lineOut _ (canonical_rdcDrop _ _ (canonical_cctlWb ht))) fun _ => keeps_pure

theorem leaves_cctlDrop {s : State} {a : BitVec 5} (h : s.canonical = true) : Leaves (execCctlDrop a s) := by
  refine leaves_instr h ?_
  mvcgen [keeps_needSup, keeps_cctlLine]
  all_goals grind [canonical_cctlDrop]

theorem leaves_cctlFlash {s : State} (h : s.canonical = true) : Leaves (execCctlFlash s) := by
  refine leaves_instr h ?_
  mvcgen [keeps_fifoEmpty]

theorem leaves_cctlIinv {s : State} (h : s.canonical = true) : Leaves (execCctlIinv s) := by
  refine leaves_instr h ?_
  mvcgen [keeps_fifoEmpty]

theorem leaves_tlbinv {s : State} {a b : BitVec 5} {l : BitVec 1} {k : BitVec 3} (h : s.canonical = true) :
    Leaves (execTlbinv a b l k s) := by
  refine leaves_instr h (.bind keeps_needSup fun _ => ?_)
  extract_lets byVa jp
  have hj (p : Word × Word) : Keeps (jp p) := by
    refine keeps_when keeps_trap fun _ => .bind keeps_me fun x => keeps_when keeps_park fun _ => .bind keeps_releaseKept fun _ => ?_
    refine .bind keeps_get fun s => .bind (keeps_modify fun t ht => canonical_fold (fun _ _ hu => canonical_tlbDrop hu) _ ht) fun _ => ?_
    refine .bind keeps_get fun s => keeps_ite ?_ keeps_pure
    exact .bind (keeps_modify fun t ht => canonical_tlbinvEnd ht) fun _ => keeps_pure
  exact keeps_ite (.bind keeps_twoG hj) (.bind keeps_readG fun _ => .bind keeps_pure hj)

theorem leaves_waitev {s : State} {d a : BitVec 5} (h : s.canonical = true) : Leaves (execWaitev d a s) := by
  refine leaves_instr h ?_
  mvcgen [keeps_readG, keeps_me, keeps_writeG, keeps_modMe, keeps_park]

end Sys2Proof.Machine
end

section
/-! SUPPORT. Canonical memories (StepsKeepCanonicalMemory): the instructions and the steps of the device, ponds and the steps of the
engines. -/

open Std.Do

namespace Sys2Proof.Machine

set_option mvcgen.warning false

theorem leaves_engineOpBegin {s : State} {core eng : Nat} (h : s.canonical = true) : Leaves (execEngineOpBegin core eng s) := by
  unfold execEngineOpBegin
  dsimp only
  split
  · exact .next h
  · refine leaves_ite (.next h) (leaves_ite (leaves_ite (.next (canonical_beginGet h)) ?_) (.next (canonical_beginTiled h)))
    split
    · exact .next (canonical_engStopped h)
    · next e => exact .next ((canonical_modCore ..).trans (keeps_pondTurn.run h e))

theorem leaves_mmaStep {s : State} {core : Nat} (h : s.canonical = true) : Leaves (execMmaStep core s) := by
  unfold execMmaStep
  dsimp only
  split
  · exact .next h
  · next o _ =>
    have hf : ((s.failMma core o).settleCore core).canonical = true := canonical_settleCore ((canonical_modCore ..).trans h)
    have hb {p q r : Prop} [Decidable p] [Decidable q] [Decidable r] {u : State} (hu : u.canonical = true) :
        (if p then (s.failMma core o).settleCore core else if q then s else if r then (s.failMma core o).settleCore core else u).canonical
        = true :=
      canonical_ite hf (canonical_ite h (canonical_ite hf hu))
    have ht {rs : List Nat} : (s.mmaTake core o rs).canonical = true := (canonical_modCore ..).trans h
    exact leaves_ite (.next (canonical_ite (canonical_mmaStrict h) (canonical_mmaFree h)))
      (leaves_ite (leaves_ite (.next h) (.next (hb ht))) (.next (hb ht)))

theorem leaves_collectiveCombine {s : State} {tag : BitVec 32} {far : List FarPart} (h : s.canonical = true) :
    Leaves (execCollectiveCombine tag far s) := by
  unfold execCollectiveCombine
  dsimp only
  refine leaves_ite (.next (canonical_combine h)) ?_
  split
  · exact .next h
  · refine leaves_ite (.next (canonical_stopGroup h)) (leaves_ite (.next h) (.next (canonical_combine ?_)))
    exact canonical_fold (fun _ _ ht => (canonical_modCore ..).trans ht) _ h

theorem leaves_engineOpComplete {s : State} {core : Nat} {tag : BitVec 12} (h : s.canonical = true) :
    Leaves (execEngineOpComplete core tag s) := by
  unfold execEngineOpComplete
  split
  · exact .next h
  · next o _ =>
    have he (status : Nat) : ((s.endNow core tag status).settleCore core).canonical = true := canonical_settleCore (canonical_endNow h)
    have hs : (match o.cancel with
        | some status => if o.stoppable then (s.endNow core tag status).settleCore core else s
        | none => s).canonical = true := by
      split
      · exact canonical_ite (he _) h
      · exact h
    dsimp only
    split
    · split
      · exact .next (he _)
      · exact .next h
    · exact leaves_ite (.next (canonical_stopGroup h)) (.next (canonical_endRes h))
    · exact .next hs
    · exact .next hs
    · exact .next hs
    · split
      · exact .next (canonical_completeRes h)
      · exact .next (canonical_completeUnits h)
    · split
      · exact .next (canonical_completeRes h)
      · exact leaves_ite (.next (canonical_completeUnits h)) (.next hs)

end Sys2Proof.Machine
end

section
/-! SUPPORT. Canonical memories (StepsKeepCanonicalMemory): the instructions and the steps of the device, walks, drains, DRAM and streams.
-/

open Std.Do

namespace Sys2Proof.Machine

set_option mvcgen.warning false

theorem leaves_tableWalk {s : State} {die : Nat} (h : s.canonical = true) : Leaves (execTableWalk die s) := by
  have hp : (s.pickWalk die).2.canonical = true := canonical_pickWalk h
  unfold execTableWalk
  dsimp only
  split
  · exact .next h
  · exact leaves_ite (.next hp) (.next (canonical_walked (canonical_walk ((canonical_modDie ..).trans hp))))

theorem leaves_faultPostDeferred {s : State} {die : Nat} (h : s.canonical = true) : Leaves (execFaultPostDeferred die s) := by
  unfold execFaultPostDeferred
  dsimp only
  split
  · exact .next h
  · exact leaves_ite (.next h) (.next h)

theorem leaves_storeDrain {s : State} {core slot : Nat} (h : s.canonical = true) : Leaves (execStoreDrain core slot s) := by
  unfold execStoreDrain
  split
  · exact .next h
  · split
    · exact leaves_ite (.next h) (.next ((canonical_modStrand ..).trans (canonical_countStore (canonical_yieldLine _ _ h))))
    · exact .next ((canonical_modStrand ..).trans (canonical_drainPiece h))

theorem leaves_postedAccept {s : State} {idx : Nat} (h : s.canonical = true) : Leaves (execPostedAccept idx s) := by
  unfold execPostedAccept
  split
  · exact .next h
  · next p _ =>
    have hg : ({ s with posted := s.posted.eraseIdx idx } : State).canonical = true := h
    split
    · exact .next h
    · refine leaves_ite (.next h) ?_
      dsimp only
      split
      · split
        · exact .next (canonical_getD h fun _ e => canonical_holdFill hg e)
        · exact .next h
      · exact .next hg
      · split
        · exact .next (canonical_getD h fun _ e => canonical_acceptMsg hg e)
        · exact .next (canonical_pushFrom hg)
        · exact .next (canonical_getD h fun _ e => canonical_acceptMsg hg e)
        · exact .next h

theorem leaves_farStoreAck {s : State} {idx : Nat} (h : s.canonical = true) : Leaves (execFarStoreAck idx s) := by
  unfold execFarStoreAck
  split
  · exact .next h
  · split
    · have hg : ({ s with posted := s.posted.eraseIdx idx } : State).canonical = true := h
      refine leaves_ite (.next h) (leaves_ite (.next ((canonical_modStrand ..).trans h)) (leaves_ite (.next h) (.next ?_)))
      exact (canonical_modStrand ..).trans (canonical_farStore hg)
    · exact .next h

theorem leaves_probeEcho {s : State} {core slot grp : Nat} (h : s.canonical = true) : Leaves (execProbeEcho core slot grp s) := by
  unfold execProbeEcho
  dsimp only
  split
  · exact leaves_ite (.next h) (.next h)
  · exact leaves_ite (.next h) (.next h)
  · exact .next h

theorem leaves_remoteWordAccess {s : State} {core slot : Nat} (h : s.canonical = true) : Leaves (execRemoteWordAccess core slot s) := by
  unfold execRemoteWordAccess
  split
  · exact leaves_ite (.next h) (.next (canonical_remoteRead h))
  · refine leaves_ite (.next h) ?_
    split
    · exact .next (canonical_stopAt h)
    · split
      · exact .next (canonical_stopAt h)
      · next e => exact .next (canonical_deliver_getD (canonical_amoAt ((canonical_dropClean ..).trans h) e) h)
  · exact .next h

theorem leaves_leapArrival {s : State} {core slot : Nat} (h : s.canonical = true) : Leaves (execLeapArrival core slot s) := by
  unfold execLeapArrival
  split
  · exact .next h
  · split
    · exact .next h
    · exact leaves_ite (.next h) (.next h)

theorem leaves_dramAccess {s : State} {pa : Nat} {wr : Bool} {lc : BitVec 2} (h : s.canonical = true) :
    Leaves (execDramAccess pa wr lc s) := by
  unfold execDramAccess
  split
  · exact .next h
  · dsimp only
    split
    · exact .next h
    · exact leaves_ite (.next h) (.next h)

theorem leaves_autoPromotion {s : State} {ch bank : Nat} (h : s.canonical = true) : Leaves (execAutoPromotion ch bank s) := by
  unfold execAutoPromotion
  dsimp only
  split
  · exact .next h
  · exact .next (canonical_ite h (canonical_promoteRow h))

theorem leaves_patrolScrub {s : State} {ch row fixed : Nat} {bad : List Nat} (h : s.canonical = true) :
    Leaves (execPatrolScrub ch row fixed bad s) := by
  unfold execPatrolScrub
  refine leaves_ite (.next h) (.next ?_)
  exact canonical_fold (fun _ _ ht => (canonical_countSector ..).trans ht) _ h

theorem leaves_scfg {s : State} {a : BitVec 5} {n : BitVec 3} (h : s.canonical = true) : Leaves (execScfg a n s) := by
  refine leaves_instr h ?_
  mvcgen [keeps_readG, keeps_wordsAt, keeps_me, keeps_trap, keeps_modStream]

theorem leaves_sbind {s : State} {r : BitVec 2} {k : BitVec 1} {n : BitVec 3} (h : s.canonical = true) : Leaves (execSbind r k n s) := by
  refine leaves_instr h ?_
  mvcgen [keeps_me, keeps_modStream, keeps_modMe, keeps_trap]

theorem leaves_sunbind {s : State} {r : BitVec 2} {k : BitVec 1} (h : s.canonical = true) : Leaves (execSunbind r k s) := by
  refine leaves_instr h ?_
  mvcgen [keeps_me, keeps_modStream, keeps_modMe]

theorem leaves_sstat {s : State} {d : BitVec 5} {n : BitVec 3} (h : s.canonical = true) : Leaves (execSstat d n s) := by
  refine leaves_instr h ?_
  mvcgen [keeps_me, keeps_writeG]

theorem leaves_streamElementLoad {s : State} {core slot str : Nat} (h : s.canonical = true) :
    Leaves (execStreamElementLoad core slot str s) := by
  unfold execStreamElementLoad
  refine leaves_ite ?_ (.next h)
  split
  · next e => exact .next ((canonical_modStrand ..).trans (canonical_forStrand h keeps_loadElement e))
  · exact .next h

end Sys2Proof.Machine
end

section
/-! SUPPORT. Canonical memories (StepsKeepCanonicalMemory): the instructions and the steps of the device, joins, timing and work. -/

open Std.Do

namespace Sys2Proof.Machine

set_option mvcgen.warning false

theorem leaves_jnew {s : State} {d a b c : BitVec 5} (h : s.canonical = true) : Leaves (execJnew d a b c s) := by
  refine leaves_instr h ?_
  mvcgen [keeps_threeG, keeps_readG, keeps_translate, keeps_joinGo, keeps_trap]

theorem leaves_jreg {s : State} {d a b c : BitVec 5} (h : s.canonical = true) : Leaves (execJreg d a b c s) := by
  refine leaves_instr h ?_
  mvcgen [keeps_twoG, keeps_readG, keeps_joinNamed, keeps_me, keeps_joinGo, keeps_trap, keeps_illop]

theorem leaves_jval {s : State} {d a b : BitVec 5} {i : BitVec 2} (h : s.canonical = true) : Leaves (execJval d a b i s) := by
  refine leaves_instr h ?_
  mvcgen [keeps_twoG, keeps_readG, keeps_joinNamed, keeps_releaseKept, keeps_joinGo]

theorem leaves_jdrop {s : State} {d a : BitVec 5} {i : BitVec 2} (h : s.canonical = true) : Leaves (execJdrop d a i s) := by
  refine leaves_instr h ?_
  mvcgen [keeps_readG, keeps_joinNamed, keeps_joinGo]

theorem leaves_wchk {s : State} {d a : BitVec 5} {i : BitVec 2} (h : s.canonical = true) : Leaves (execWchk d a i s) := by
  refine leaves_instr h ?_
  mvcgen [keeps_readG, keeps_joinNamed, keeps_joinGo]

theorem leaves_jfree {s : State} {d a : BitVec 5} (h : s.canonical = true) : Leaves (execJfree d a s) := by
  refine leaves_instr h ?_
  mvcgen [keeps_readG, keeps_joinNamed, keeps_joinGo]

theorem leaves_joinEvent {s : State} {idx : Nat} (h : s.canonical = true) : Leaves (execJoinEvent idx s) := by
  unfold execJoinEvent
  split
  · exact .next h
  · next q _ =>
    have hg : ({ s with joins := s.joins.eraseIdx idx } : State).canonical = true := h
    refine leaves_ite (.next h) (leaves_ite (.next h) ?_)
    split
    · exact .next h
    · split
      · exact .next (canonical_ite (canonical_getD h fun _ e => canonical_answerTo hg e) hg)
      · next e =>
        have ht := canonical_joinAct hg e
        exact .next (canonical_ite (canonical_getD h fun _ e => canonical_answerTo ht e) ht)

theorem leaves_joinReregistration {s : State} {core slot : Nat} (h : s.canonical = true) : Leaves (execJoinReregistration core slot s) := by
  unfold execJoinReregistration
  dsimp only
  split
  · exact .next h
  · split
    · exact .next h
    · refine .next ((canonical_modStrand ..).trans ?_)
      split
      · next e => exact canonical_joinAct (by exact h) e
      · exact h

theorem leaves_timedStoreArrival {s : State} {core slot : Nat} (h : s.canonical = true) : Leaves (execTimedStoreArrival core slot s) := by
  unfold execTimedStoreArrival
  dsimp only
  split
  · exact .next h
  · split
    · exact .next h
    · refine leaves_ite (.next h) (leaves_ite (.next ?_) (leaves_ite (.next ?_) (.next (canonical_arriveTimed h))))
      · exact (canonical_setVerdict ..).trans ((canonical_weedWait ..).trans h)
      · exact canonical_letIn _ (canonical_settle _ h)

theorem leaves_verdictReturn {s : State} {core slot : Nat} (h : s.canonical = true) : Leaves (execVerdictReturn core slot s) := by
  unfold execVerdictReturn
  dsimp only
  split
  · exact .next h
  · split
    · exact leaves_ite (.next h) (leaves_ite (.next (canonical_ite h h)) (.next h))
    · exact .next h

theorem leaves_timedLoadArrival {s : State} {core slot : Nat} (h : s.canonical = true) : Leaves (execTimedLoadArrival core slot s) := by
  unfold execTimedLoadArrival
  split
  · exact leaves_ite (leaves_ite (.next h) (.next (canonical_timedLoad h))) (.next (canonical_waitedLoad (canonical_settle _ h)))
  · exact .next h

theorem leaves_tsleepWake {s : State} {core slot : Nat} (h : s.canonical = true) : Leaves (execTsleepWake core slot s) := by
  unfold execTsleepWake
  split
  · exact leaves_ite (.next h) (.next h)
  · exact .next h

theorem leaves_launchStart {s : State} {key : Nat} (h : s.canonical = true) : Leaves (execLaunchStart key s) := by
  unfold execLaunchStart
  split
  · exact .next h
  · refine leaves_ite (.next (canonical_fold (fun _ _ ht => canonical_startCore ht) _ ?_)) (.next h)
    exact canonical_modLaunch h

theorem leaves_launchEnd {s : State} {key : Nat} (h : s.canonical = true) : Leaves (execLaunchEnd key s) := by
  unfold execLaunchEnd
  split
  · exact .next h
  · refine leaves_ite (.next h) (.next ?_)
    refine canonical_launchRecord (canonical_ite h (canonical_applyOrdered ?_))
    exact h

theorem leaves_dispatchPop {s : State} {core : Nat} (h : s.canonical = true) : Leaves (execDispatchPop core s) := by
  unfold execDispatchPop
  refine leaves_ite ?_ (.next h)
  split
  · next e => exact .next (canonical_dispatch (canonical_popRec h e))
  · exact .next h

theorem leaves_messageStart {s : State} {core : Nat} (h : s.canonical = true) : Leaves (execMessageStart core s) := by
  unfold execMessageStart
  dsimp only
  split
  · exact .next h
  · split
    · refine leaves_ite (.next h) ?_
      split
      · exact leaves_ite (.next (canonical_startStrand ((canonical_setCore ..).trans h))) (.next h)
      · exact .next h
    · exact .next h

theorem leaves_remotePush {s : State} {idx : Nat} (h : s.canonical = true) : Leaves (execRemotePush idx s) := by
  unfold execRemotePush
  split
  · exact .next h
  · have hg : ({ s with pushes := s.pushes.eraseIdx idx } : State).canonical = true := h
    dsimp only
    split
    · exact .next h
    · exact .next (canonical_pushLanded hg)
    · refine leaves_ite (.next (canonical_enterWaiting _ h)) ?_
      split
      · next e => exact .next (canonical_pushLanded (canonical_pushRec hg e))
      · exact .next hg

theorem leaves_stealRequest {s : State} {core : Nat} (h : s.canonical = true) : Leaves (execStealRequest core s) := by
  unfold execStealRequest
  split
  · refine leaves_ite (.next h) ?_
    split
    · exact .next (canonical_ask h)
    · exact .next h
  · exact leaves_ite (.next (canonical_ask h)) (.next h)
  · exact .next h

theorem leaves_stealReply {s : State} {core : Nat} (h : s.canonical = true) : Leaves (execStealReply core s) := by
  unfold execStealReply
  dsimp only
  split
  · exact leaves_ite (.next (canonical_dispatch ((canonical_modCore ..).trans h))) (.next h)
  · refine leaves_ite (.next h) ?_
    split
    · exact .next h
    · exact .next h
  · exact .next h

theorem leaves_stealRetry {s : State} {core : Nat} (h : s.canonical = true) : Leaves (execStealRetry core s) := by
  unfold execStealRetry
  split
  · exact leaves_ite (.next h) (.next h)
  · exact .next h

theorem leaves_fillDelivery {s : State} {core idx : Nat} (h : s.canonical = true) : Leaves (execFillDelivery core idx s) := by
  unfold execFillDelivery
  dsimp only
  split
  · exact leaves_ite (.next h) (.next (canonical_getD h fun _ e => canonical_tryFill ((canonical_setCore ..).trans h) e))
  · exact .next h

theorem leaves_spawnRequest {s : State} {idx : Nat} (h : s.canonical = true) : Leaves (execSpawnRequest idx s) := by
  unfold execSpawnRequest
  split
  · exact .next h
  · have hg : ({ s with spawns := s.spawns.eraseIdx idx } : State).canonical = true := h
    dsimp only
    split
    · exact .next h
    · exact .next hg
    · exact .next (canonical_getD h fun _ e => canonical_answerTo (canonical_spawnAt hg) e)

theorem leaves_deadline {s : State} (h : s.canonical = true) : Leaves (execDeadline s) := by
  unfold execDeadline
  dsimp only
  split
  · exact leaves_ite (.next (canonical_trapEntry ((canonical_modStrand ..).trans (canonical_abandon h)))) (.next h)
  · exact .next h

end Sys2Proof.Machine
end

section
/-! SUPPORT. Canonical memories (StepsKeepCanonicalMemory): the instructions and the steps of the device, pre-emption and the host. -/

open Std.Do

namespace Sys2Proof.Machine

set_option mvcgen.warning false

theorem leaves_preempt {s : State} {key : Nat} (h : s.canonical = true) : Leaves (execPreempt key s) := by
  unfold execPreempt
  split
  · exact .next h
  · exact leaves_ite (.next (canonical_fold (fun _ _ ht => canonical_stopCore ht) _ (canonical_modLaunch h))) (.next h)

theorem leaves_saveComplete {s : State} {core : Nat} (h : s.canonical = true) : Leaves (execSaveComplete core s) := by
  unfold execSaveComplete
  split
  · exact .next h
  · next q _ =>
    refine leaves_ite ?_ (.next h)
    have hl (l : List Completion) :
        (l.foldl (fun s _ => match s.comps.findIdx? (·.core == core) with | some i => s.landComp i | none => s) s).canonical = true := by
      refine canonical_fold (fun t _ ht => ?_) _ h
      split
      · exact canonical_landComp ht
      · exact ht
    have hs := canonical_saveCore (canonical_landFills (hl s.comps) (c := core)) (q := q) (c := core)
    have hc {f : Launch → Launch} {k : Core} := (canonical_setCore _ core k).trans (canonical_modLaunch hs (k := q.key) (f := f))
    exact .next (canonical_ite (canonical_modLaunch hc) hc)

theorem leaves_resume {s : State} {key : Nat} (h : s.canonical = true) : Leaves (execResume key s) := by
  unfold execResume
  split
  · exact .next h
  · refine leaves_ite (.next ?_) (.next h)
    refine canonical_fold (fun _ _ ht => canonical_landFills ht) _ (canonical_landHeld ?_)
    refine canonical_fold (fun t c ht => canonical_fold (fun _ _ hu => canonical_clash hu) _ ht) _ ?_
    exact canonical_modLaunch (canonical_fold (fun _ _ ht => canonical_loadCore ht) _ h)

theorem leaves_launch {s : State} {q : Nat} (h : s.canonical = true) : Leaves (execLaunch q s) := by
  unfold execLaunch
  split
  · exact .next h
  · refine leaves_ite (.next h)
      (leaves_ite (.next (canonical_finish h)) (leaves_ite (.next h) (leaves_ite (.next (canonical_finish h)) ?_)))
    dsimp only
    split
    · exact .next (canonical_finish h)
    · exact .next h

theorem leaves_setlevel {s : State} {q : Nat} (h : s.canonical = true) : Leaves (execSetlevel q s) := by
  unfold execSetlevel
  split
  · exact .next h
  · exact leaves_ite (.next (canonical_finish h)) (.next (canonical_finish (by exact h)))

theorem leaves_qfence {s : State} {q : Nat} (h : s.canonical = true) : Leaves (execQfence q s) := by
  unfold execQfence
  split
  · exact .next h
  · exact leaves_ite (.next (canonical_finish h)) (leaves_ite (.next (canonical_finish h)) (.next h))

theorem leaves_signal {s : State} {q : Nat} (h : s.canonical = true) : Leaves (execSignal q s) := by
  unfold execSignal
  split
  · exact .next h
  · next i ws _ =>
    refine leaves_ite (.next (canonical_finish h))
        (leaves_ite (.next (canonical_finish h)) (leaves_ite (.next h) (.next (canonical_finish ?_))))
    have hr : s.releaseAll.canonical = true := canonical_releaseAll h
    have hw {p : Prop} [Decidable p] {a : Nat} {x : Word} {bs : List Byte} :
        (if p then s.releaseAll.writeControl a x else (s.releaseAll.settleBoth a).perform a bs).canonical = true :=
      canonical_ite (canonical_writeControl hr) (canonical_perform _ _ (canonical_settleBoth hr))
    exact canonical_ite (canonical_msix hw) hw

theorem leaves_waitval {s : State} {q : Nat} (h : s.canonical = true) : Leaves (execWaitval q s) := by
  unfold execWaitval
  split
  · exact .next h
  · exact leaves_ite (.next (canonical_finish h)) (leaves_ite (.next (canonical_finish h)) (.next h))

theorem leaves_waitvalSatisfied {s : State} {q : Nat} (h : s.canonical = true) : Leaves (execWaitvalSatisfied q s) := by
  have hd {t : State} {o : Option Word} {ws : List Word} {i : Nat} (ht : t.canonical = true) : Leaves (match o with
      | none => .next t
      | some m => if waitvalTest ws m then .next ((((List.range 4).foldl State.rdcFlash t).flashCxl).finish q i 0 0) else .next t) := by
    cases o with
    | none => exact .next ht
    | some m => exact leaves_ite (.next (canonical_finish (canonical_fold (f := State.rdcFlash) (fun _ _ hu => hu) _ ht))) (.next ht)
  unfold execWaitvalSatisfied
  extract_lets x
  split
  · exact .next h
  split
  · exact .next h
  extract_lets a
  refine leaves_ite (.next (canonical_finish h)) (leaves_ite (.next h) ?_)
  split
  next m t e =>
  refine hd ?_
  split at e
  · cases e
    exact h
  · cases e
    exact canonical_readSpan h

theorem leaves_pondcfg {s : State} {q : Nat} (h : s.canonical = true) : Leaves (execPondcfg q s) := by
  unfold execPondcfg
  split
  · exact .next h
  · dsimp only
    refine leaves_ite (.next (canonical_finish h))
        (leaves_ite (.next h) (leaves_ite (.next (canonical_finish h)) (.next (canonical_finish ?_))))
    exact canonical_pinLeaves ((canonical_modDie ..).trans (canonical_settleAll h))

theorem leaves_pondcfgDestroy {s : State} {q : Nat} (h : s.canonical = true) : Leaves (execPondcfgDestroy q s) := by
  unfold execPondcfgDestroy
  split
  · exact .next h
  · dsimp only
    refine leaves_ite (.next h) ?_
    split
    · exact .next (canonical_finish h)
    · exact leaves_ite (.next h) (.next h)

theorem leaves_pondDestroy {s : State} {die store : Nat} (h : s.canonical = true) : Leaves (execPondDestroy die store s) := by
  unfold execPondDestroy
  split
  · exact .next h
  · split
    · exact .next h
    · refine leaves_ite (.next h) ?_
      have hd := fun p => (canonical_demoteLeaves (canonical_settleAll h) (p := p))
      dsimp only
      split
      · exact .next (canonical_finish (by exact hd _))
      · exact .next (hd _)

theorem leaves_resync {s : State} {q : Nat} (h : s.canonical = true) : Leaves (execResync q s) := by
  unfold execResync
  split
  · exact .next h
  · exact leaves_ite (.next (canonical_finish h)) (leaves_ite (.next h) (.next (canonical_finish (canonical_hostPut h))))

theorem leaves_hostAccess {s : State} {wr : Bool} {pa : Nat} {data : List Byte} (h : s.canonical = true) :
    Leaves (execHostAccess wr pa data s) := by
  unfold execHostAccess
  refine leaves_ite (.next (canonical_barAccess h))
      (leaves_ite (.next ?_) (leaves_ite (.next h) (leaves_ite (.next (canonical_hostWrites _ h)) ?_)))
  · exact canonical_ite (canonical_ite (canonical_writeControl h) h) h
  · exact .next (canonical_readSpan h)

theorem leaves_cxlForcedRelease {s : State} {base size : Nat} (h : s.canonical = true) : Leaves (execCxlForcedRelease base size s) := by
  unfold execCxlForcedRelease
  refine leaves_ite (.next ?_) (.next h)
  have hu {p : Prop} [Decidable p] {r : List CxlRel} :
      (if p then s else { s.unmap (s.cxlBase base, size) with cxlRels := r }).canonical = true :=
    canonical_ite h (canonical_cxlRels (canonical_unmap h))
  exact canonical_ite hu (canonical_withdrawExtent (canonical_loseRun hu))

theorem leaves_domainBringup {s : State} {dev : BitVec 11} {reach : List Nat} {gm : Bool} (h : s.canonical = true) :
    Leaves (execDomainBringup dev reach gm s) := by
  unfold execDomainBringup
  extract_lets busy old t u
  refine leaves_ite (.next h) (.next ?_)
  have hu : u.canonical = true := canonical_fold (fun _ n ht => canonical_lineOut n ht) _ (canonical_settleAll (canonical_releaseAll h))
  clear_value u
  obtain ⟨hm, hr⟩ := canonical_iff.mp hu
  refine canonical_iff.mpr ⟨?_, hr⟩
  dsimp only
  split
  · exact hm
  · exact wf_rekey hm

theorem leaves_securityAlarm {s : State} (h : s.canonical = true) : Leaves (execSecurityAlarm s) := by
  unfold execSecurityAlarm
  refine leaves_ite (.next ?_) (.next h)
  refine canonical_loseDevices (canonical_fold (fun t p ht => canonical_abortLaunch (canonical_ite ?_ ht)) _ ?_)
  · exact ht
  · exact h

theorem leaves_coldReset {s : State} (h : s.canonical = true) : Leaves (execColdReset s) := by
  obtain ⟨hm, hh, -⟩ := canonical_iff.mp h
  exact .next (canonical_iff.mpr ⟨wf_rekey (Memory.wf_filter _ hm), hh, rfl, rfl⟩)

theorem leaves_warmReset {s : State} (h : s.canonical = true) : Leaves (execWarmReset s) := by
  unfold execWarmReset
  extract_lets t u mine
  have hu : u.canonical = true := canonical_fold (fun _ n ht => canonical_lineOut n ht) _ (canonical_settleAll (canonical_releaseAll h))
  clear_value u
  obtain ⟨hm, hr⟩ := canonical_iff.mp hu
  exact .next (canonical_iff.mpr ⟨Memory.wf_filter _ hm, hr⟩)

end Sys2Proof.Machine
end

section
/-! SUPPORT. Canonical memories (StepsKeepCanonicalMemory): the instructions and the steps of the device, floating point, vectors and
tiles. -/

open Std.Do

namespace Sys2Proof.Machine

set_option mvcgen.warning false

theorem leaves_tset {s : State} {a : BitVec 5} {t : BitVec 6} (h : s.canonical = true) : Leaves (execTset a t s) := by
  refine leaves_instr h ?_
  mvcgen [keeps_readG, keeps_me, keeps_unowned, keeps_modCore, keeps_settleMine, keeps_trap, keeps_park]

theorem leaves_tstate {s : State} {d : BitVec 5} {t : BitVec 6} (h : s.canonical = true) : Leaves (execTstate d t s) := by
  refine leaves_instr h ?_
  mvcgen [keeps_needTile, keeps_writeG]

theorem leaves_twait {s : State} {a : BitVec 5} {t : BitVec 6} (h : s.canonical = true) : Leaves (execTwait a t s) := by
  refine leaves_instr h ?_
  mvcgen [keeps_readG, keeps_needTile, keeps_park]

theorem leaves_tmark {s : State} {a : BitVec 5} {t : BitVec 6} (h : s.canonical = true) : Leaves (execTmark a t s) := by
  refine leaves_instr h ?_
  mvcgen [keeps_readG, keeps_needTile, keeps_unowned, keeps_settleMine, keeps_modCore, keeps_release, keeps_trap]

theorem leaves_tring {s : State} {a : BitVec 5} {r : BitVec 4} (h : s.canonical = true) : Leaves (execTring a r s) := by
  refine leaves_instr h ?_
  mvcgen [keeps_readG, keeps_myCore, keeps_modCore, keeps_park, keeps_trap]

theorem leaves_ringhd {s : State} {d a : BitVec 5} {r : BitVec 4} (h : s.canonical = true) : Leaves (execRinghd d a r s) := by
  refine leaves_instr h ?_
  mvcgen [keeps_readG, keeps_needRing, keeps_writeG, keeps_myCore, keeps_modCore, keeps_settleMine, keeps_park]

theorem leaves_ringtl {s : State} {d a : BitVec 5} {r : BitVec 4} (h : s.canonical = true) : Leaves (execRingtl d a r s) := by
  refine leaves_instr h ?_
  mvcgen [keeps_readG, keeps_needRing, keeps_writeG, keeps_myCore, keeps_modCore, keeps_settleMine, keeps_park]

theorem leaves_vldt {s : State} {d : BitVec 4} {a : BitVec 5} {t : BitVec 6} (h : s.canonical = true) : Leaves (execVldt d a t s) := by
  refine leaves_instr h ?_
  mvcgen [keeps_readG, keeps_tileAccess, keeps_loadTail]

theorem leaves_vstt {s : State} {d : BitVec 4} {a : BitVec 5} {t : BitVec 6} (h : s.canonical = true) : Leaves (execVstt d a t s) := by
  refine leaves_instr h ?_
  mvcgen [keeps_readG, keeps_readV, keeps_tileAccess, keeps_predict, keeps_me, keeps_modMe, keeps_park]

end Sys2Proof.Machine
end

section
/-! SUPPORT. Canonical memories (StepsKeepCanonicalMemory): every instruction, every step of the device, every turn. -/

open Std.Do

namespace Sys2Proof.Machine

set_option mvcgen.warning false

/-- What an instruction, or a step of the device, answers is canonical when the state is. -/
theorem leaves_exec {s : State} (h : s.canonical = true) (i : Instr) : Leaves (exec i s) := by
  cases i with
  | trap | brk => exact leaves_instr h keeps_trap
  | eret => exact leaves_eret h
  | mfs => exact leaves_mfs h
  | mts => exact leaves_mts h
  | mfk => exact leaves_mfk h
  | mtk => exact leaves_mtk h
  | cctlWb => exact leaves_cctlWb h
  | cctlInv => exact leaves_cctlInv h
  | cctlDrop => exact leaves_cctlDrop h
  | cctlFlash => exact leaves_cctlFlash h
  | cctlIinv => exact leaves_cctlIinv h
  | tlbinv => exact leaves_tlbinv h
  | waitev => exact leaves_waitev h
  | add | sub | and | or | xor | sll | srl | sra | slt | sltn | min | max | minn | maxn | mul | mulh | mulhn | div | divn | rem
  | remn | addsh =>
    exact leaves_instr h keeps_bin
  | clz | ctz | popc | addi | andi | ori | xori | slti | slli | srli | srai | ext | ldhi | ldxh => exact leaves_instr h keeps_una
  | sel => exact leaves_sel h
  | ins => exact leaves_instr h keeps_upd
  | ldi => exact leaves_ldi h
  | beq | bne | blt | bge | bltn | bgen => exact leaves_instr h keeps_branch
  | jmp => exact leaves_jmp h
  | call => exact leaves_call h
  | jr => exact leaves_jr h
  | callr => exact leaves_callr h
  | ret => exact leaves_ret h
  | ldb | ldbn | ldh | ldhn | ldw | ldwn | ldd => exact leaves_instr h keeps_loadG
  | stb | sth | stw | std => exact leaves_instr h keeps_storeG
  | vld => exact leaves_vld h
  | vst => exact leaves_vst h
  | fldd | flds => exact leaves_instr h keeps_loadF
  | fstd | fsts => exact leaves_instr h keeps_storeF
  | ldx => exact leaves_ldx h
  | stx => exact leaves_stx h
  | ldt => exact leaves_ldt h
  | stt => exact leaves_stt h
  | promote => exact leaves_promote h
  | demote => exact leaves_demote h
  | pref => exact leaves_pref h
  | leap => exact leaves_leap h
  | fence => exact leaves_fence h
  | acq => exact leaves_acq h
  | rel => exact leaves_rel h
  | amoadd | amoand | amoor | amoxor | amomin | amomax | amominn | amomaxn | amoswap => exact leaves_instr h keeps_amo
  | amocas => exact leaves_amocas h
  | amofadd | amofmax => exact leaves_instr h keeps_famoInstr
  | arrive => exact leaves_arrive h
  | waitb => exact leaves_waitb h
  | bar => exact leaves_bar h
  | binit => exact leaves_binit h
  | tsleep => exact leaves_tsleep h
  | wpset => exact leaves_wpset h
  | wpclr => exact leaves_wpclr h
  | spawn => exact leaves_spawn h
  | spawnq => exact leaves_spawnq h
  | fork => exact leaves_fork h
  | quit => exact leaves_quit h
  | msg => exact leaves_msg h
  | fill => exact leaves_fill h
  | empty => exact leaves_empty h
  | take => exact leaves_take h
  | rstate => exact leaves_rstate h
  | await => exact leaves_await h
  | ftest => exact leaves_ftest h
  | fcancel => exact leaves_fcancel h
  | fwd => exact leaves_fwd h
  | pipe => exact leaves_pipe h
  | jnew => exact leaves_jnew h
  | jreg => exact leaves_jreg h
  | jval => exact leaves_jval h
  | jdrop => exact leaves_jdrop h
  | wchk => exact leaves_wchk h
  | jfree => exact leaves_jfree h
  | fadd | fsub | fmul | fdiv => exact leaves_instr h keeps_fop2
  | fma | fnma => exact leaves_instr h keeps_fused
  | fsqrt | fexp2 | flog2 | frcp | frsqrt => exact leaves_instr h keeps_fop1
  | fmin | fmax => exact leaves_instr h keeps_fminmax
  | feq | flt | fle => exact leaves_instr h keeps_fcmp
  | fsgn => exact leaves_fsgn h
  | fclass => exact leaves_fclass h
  | fcvt => exact leaves_fcvt h
  | fcvti => exact leaves_fcvti h
  | icvtf => exact leaves_icvtf h
  | fmvgf => exact leaves_fmvgf h
  | fmvfg => exact leaves_fmvfg h
  | scfg => exact leaves_scfg h
  | sbind => exact leaves_sbind h
  | sunbind => exact leaves_sunbind h
  | sstat => exact leaves_sstat h
  | vadd | vsub | vmul | vdiv => exact leaves_instr h keeps_valu2
  | vfma => exact leaves_vfma h
  | vmin | vmax => exact leaves_instr h keeps_vminmax
  | vabs | vneg => exact leaves_instr h keeps_vsign
  | vceq | vclt | vcle => exact leaves_instr h keeps_vcmp
  | vsel => exact leaves_vsel h
  | vand | vor | vxor => exact leaves_instr h keeps_vbits
  | vshl | vshr | vsra => exact leaves_instr h keeps_vshift
  | vsqrt | vexp2 | vlog2 | vrcp | vrsqrt => exact leaves_instr h keeps_valu1
  | vscale => exact leaves_vscale h
  | vbcast => exact leaves_vbcast h
  | vextr => exact leaves_vextr h
  | vinsr => exact leaves_vinsr h
  | vperm => exact leaves_vperm h
  | vslide => exact leaves_vslide h
  | vzip => exact leaves_vzip h
  | vunzip => exact leaves_vunzip h
  | vredsum => exact leaves_vredsum h
  | vredmax | vredmin => exact leaves_instr h keeps_vredm
  | vmergek => exact leaves_vmergek h
  | vcvt => exact leaves_vcvt h
  | vmov => exact leaves_vmov h
  | vdot => exact leaves_vdot h
  | mma => exact leaves_mma h
  | mmv => exact leaves_mmv h
  | mclr => exact leaves_mclr h
  | mld => exact leaves_mld h
  | mst => exact leaves_mst h
  | copy | fillt | gather | scatter => exact leaves_instr h keeps_copyIssue
  | topk => exact leaves_topk h
  | mergel => exact leaves_mergel h
  | allred | bcast => exact leaves_instr h keeps_colIssue
  | tjins => exact leaves_tjins h
  | tjapp => exact leaves_tjapp h
  | tjcls | tjpri => exact leaves_instr h keeps_handleIssue
  | tjsmp => exact leaves_tjsmp h
  | tjget => exact leaves_tjget h
  | tjevi => exact leaves_tjevi h
  | tjver => exact leaves_tjver h
  | tjstat => exact leaves_tjstat h
  | eset => exact leaves_eset h
  | eget => exact leaves_eget h
  | tset => exact leaves_tset h
  | tstate => exact leaves_tstate h
  | twait => exact leaves_twait h
  | tring => exact leaves_tring h
  | ringhd => exact leaves_ringhd h
  | ringtl => exact leaves_ringtl h
  | vldt => exact leaves_vldt h
  | vstt => exact leaves_vstt h
  | tmark => exact leaves_tmark h
  | deadline => exact leaves_deadline h
  | withdrawn => exact leaves_ite (.next (canonical_trapEntry ((canonical_modStrand ..).trans (canonical_abandon h)))) (.next h)
  | tableWalk => exact leaves_tableWalk h
  | faultPostDeferred => exact leaves_faultPostDeferred h
  | fqTail => exact .next (canonical_writeFqTail h)
  | fqReplayReplay => exact .next (canonical_resolveFault h)
  | fqReplayFail => exact .next (canonical_resolveFault h)
  | fqReplayDeny => exact .next (canonical_resolveFault h)
  | fqReplayGone => exact .next (canonical_resolveFault h)
  | cxlRelease => exact leaves_ite (.next (canonical_cxlRels (canonical_flushRun (canonical_unmap h)))) (.next h)
  | cxlReleaseAck => exact leaves_ite (.next (canonical_withdrawExtent (canonical_flushRun h))) (.next h)
  | cxlForcedRelease => exact leaves_cxlForcedRelease h
  | dramAccess => exact leaves_dramAccess h
  | autoPromotion => exact leaves_autoPromotion h
  | refresh | busCodeWindowEnd | chcodePin | chcodeUnpin | tcap | throttleStepChange | rerouteComplete | darningMapEntry => exact .next h
  | patrolScrub => exact leaves_patrolScrub h
  | remoteWordAccess => exact leaves_remoteWordAccess h
  | leapArrival => exact leaves_leapArrival h
  | rdcWriteback => exact .next (canonical_ite (canonical_rdcDrop _ _ h) (canonical_rdcFlush _ _ h))
  | storeDrain => exact leaves_storeDrain h
  | postedAccept => exact leaves_postedAccept h
  | farStoreAck => exact leaves_farStoreAck h
  | probeEcho => exact leaves_probeEcho h
  | timedStoreArrival => exact leaves_timedStoreArrival h
  | calendarApply => exact .next (canonical_fold (fun _ _ ht => canonical_waitedLoad ht) _ (canonical_settle _ h))
  | timedLoadArrival => exact leaves_timedLoadArrival h
  | verdictReturn => exact leaves_verdictReturn h
  | tsleepWake => exact leaves_tsleepWake h
  | timeExchange => exact leaves_ite (.next (canonical_linkExchange h)) (.next h)
  | domainJoin => exact leaves_ite (.next h) (leaves_ite (.next h) (.next h))
  | launchStart => exact leaves_launchStart h
  | launchEnd => exact leaves_launchEnd h
  | dispatchPop => exact leaves_dispatchPop h
  | remotePush => exact leaves_remotePush h
  | stealRequest => exact leaves_stealRequest h
  | stealReply => exact leaves_stealReply h
  | stealRetry => exact leaves_stealRetry h
  | messageStart => exact leaves_messageStart h
  | fillDelivery => exact leaves_fillDelivery h
  | completionDelivery => exact .next (canonical_landComp h)
  | streamElementLoad => exact leaves_streamElementLoad h
  | withdrawalNotice => exact .next (canonical_landNotice h)
  | joinReregistration => exact leaves_joinReregistration h
  | engineOpBegin => exact leaves_engineOpBegin h
  | mmaStep => exact leaves_mmaStep h
  | engineOpComplete => exact leaves_engineOpComplete h
  | collectiveCombine => exact leaves_collectiveCombine h
  | preempt => exact leaves_preempt h
  | saveComplete => exact leaves_saveComplete h
  | resume => exact leaves_resume h
  | pondDestroy => exact leaves_pondDestroy h
  | launch => exact leaves_launch h
  | setlevel => exact leaves_setlevel h
  | qfence => exact leaves_qfence h
  | signal => exact leaves_signal h
  | waitval => exact leaves_waitval h
  | waitvalSatisfied => exact leaves_waitvalSatisfied h
  | pondcfg => exact leaves_pondcfg h
  | pondcfgDestroy => exact leaves_pondcfgDestroy h
  | resync => exact leaves_resync h
  | qtail => exact leaves_ite (.next h) (.next h)
  | registerWrite =>
    exact leaves_ite (.next h) (leaves_ite (leaves_ite (.next h) (.next h)) (leaves_ite (.next (canonical_writeControl h)) (.next h)))
  | hostAccess => exact leaves_hostAccess h
  | domainBringup => exact leaves_domainBringup h
  | linkFailure => exact leaves_ite (.next (canonical_loseDevices h)) (.next h)
  | securityAlarm => exact leaves_securityAlarm h
  | attestationRequest => exact leaves_ite (.next h) (.next h)
  | coldReset => exact leaves_coldReset h
  | warmReset => exact leaves_warmReset h
  | illop => exact .next (canonical_stopped h)
  | qcfg => exact leaves_ite (.next h) (.next h)
  | spawnRequest => exact leaves_spawnRequest h
  | joinEvent => exact leaves_joinEvent h

/-! The turns and the step -/

theorem leaves_issueWord {s : State} (h : s.canonical = true) : Leaves s.issueWord := by
  unfold State.issueWord
  split
  · exact .next (canonical_fetchStopped h)
  · next e =>
    have ht := keeps_fetch.run h e
    split
    · exact leaves_exec ht _
    · exact .next (canonical_stopped ht)

theorem leaves_issue {s : State} (h : s.canonical = true) : Leaves s.issue :=
  leaves_ite (leaves_exec h _) (leaves_ite (leaves_exec h _) (leaves_issueWord h))

theorem leaves_cycle {s : State} {c : Nat} (h : s.canonical = true) : Leaves (s.cycle c) := by
  unfold State.cycle
  extract_lets t k
  have ht : t.canonical = true := canonical_boundary h
  clear_value t
  refine leaves_ite leaves_fault (leaves_ite (.next (canonical_ite (canonical_finishTlbinv h) h)) ?_)
  split
  · exact .next ((canonical_setCore ..).trans ht)
  · next l _ =>
    have hi : ({ t.setCore c (k.tickCycle.note l k.cyc) with cur := (c, l) } : State).canonical = true := ht
    exact leaves_issue hi

theorem leaves_turn {s : State} (h : s.canonical = true) (t : Turn) : Leaves (s.turn t) := by
  unfold State.turn
  split
  · exact leaves_cycle h
  · exact .next (canonical_pass h)
  · exact leaves_ite (leaves_exec h _) leaves_fault
  · exact .next (canonical_evict h)

theorem canonical_nextTurn {s : State} (h : s.canonical = true) : s.nextTurn.2.canonical = true := by
  unfold State.nextTurn
  split <;> exact h

/-- Settles O7: every turn answers a canonical state, and giving up what has no room keeps it canonical. -/
theorem stepsKeepCanonicalMemory : Obligations.StepsKeepCanonicalMemory := by
  unfold Obligations.StepsKeepCanonicalMemory
  intro s t h e
  have hn := canonical_nextTurn h
  unfold step at e
  split at e
  next turn u en =>
  rw [en] at hn
  split at e
  · next v ev =>
    rw [← Host.Outcome.next.inj e]
    exact canonical_trim (leaves_turn hn turn v ev)
  · exact nomatch e
  · exact nomatch e

end Sys2Proof.Machine
end

section
/-! SUPPORT. The tables of a channel (ChannelsKeepTheirTables): banks and near directories read after a write, the candidate table, the
bus code of a window, and the address of a scrubbed row. -/

namespace Sys2Proof.Machine

/-! Banks and near directories -/

@[simp] theorem Channel.bank_modBank (c : Channel) (b : Nat) (f : Bank → Bank) : (c.modBank b f).bank b = f (c.bank b) := by
  simp [Channel.bank, Channel.modBank]

theorem Channel.modBank_modBank (c : Channel) (b : Nat) (f g : Bank → Bank) : (c.modBank b f).modBank b g = c.modBank b fun x => g (f x) := by
  simp [Channel.modBank, Channel.bank]

theorem Channel.modBank_const {c : Channel} {b : Nat} {f : Bank → Bank} {x : Bank} (h : f (c.bank b) = x) :
    c.modBank b f = c.modBank b fun _ => x := by
  rw [← h]
  rfl

@[simp] theorem Channel.sub_modBank (c : Channel) (b : Nat) (f : Bank → Bank) (r : RowAt) : (c.modBank b f).sub r = c.sub r := rfl

@[simp] theorem Channel.sub_setSub (c : Channel) (r : RowAt) (x : Near) : (c.setSub r x).sub r = x := by
  simp [Channel.sub, Channel.setSub]

theorem sameBytes_modChan (s : State) (h : Nat) (f : Channel → Channel) : sameBytes s (s.modChan h f) := fun _ => rfl

/-- In a table none of whose entries a search finds, it finds the entry that is listed next. -/
theorem find_tset {α : Type} {t : Tab α} {n : Nat} {x : α} {p : Nat × α → Bool} (ht : t.find? p = none) (hp : p (n, x) = true) :
    (tset t n x).find? p = some (n, x) := by
  induction t with
  | nil => simp [tset, hp]
  | cons q t ih =>
    obtain ⟨k, v⟩ := q
    obtain ⟨hq, ht⟩ : p (k, v) = false ∧ t.find? p = none := by
      rw [List.find?_cons] at ht
      split at ht
      · cases ht
      · next hq => exact ⟨hq, ht⟩
    simp only [tset]
    split
    · simp [hp]
    · split
      · simp [hp]
      · simp [hq, ih ht]

/-- A subarray with room gives a near row that is free, and nothing leaves it. -/
theorem Near.take_of_free {x : Near} (h : ∃ k, k < 32 ∧ tget x.rows k = none) : ∃ k, x.take = some (k, none) := by
  obtain ⟨k, hk, he⟩ := h
  have : ((List.range 32).find? fun i => (tget x.rows i).isNone).isSome := by
    rw [List.find?_isSome]
    exact ⟨k, List.mem_range.mpr hk, by simp [he]⟩
  obtain ⟨i, hi⟩ := Option.isSome_iff_exists.mp this
  exact ⟨i, by simp [Near.take, hi]⟩

theorem Near.renumber_of_lt {x : Near} (h : x.next < 2 ^ 32) : x.renumber = x := if_neg (Nat.not_le.mpr h)

/-- What a channel is when a row of it has taken a free near row (R48): its bank's remembered row is closed, and the promotion counts. -/
def Channel.inNear (c : Channel) (r : RowAt) (k : Nat) (pin soft : Bool) : Channel :=
  { (c.setSub r ⟨tset (c.sub r).rows k ⟨r.frow, false, pin, soft, (c.sub r).next⟩, (c.sub r).next + 1⟩).rowOp r.bank with prom := c.prom + 1 }

theorem Channel.inNear_bank (c : Channel) (r : RowAt) (k : Nat) (pin soft : Bool) :
    (c.inNear r k pin soft).bank r.bank = { c.bank r.bank with mem := none } :=
  Channel.bank_modBank (c.setSub r _) r.bank fun x => { x with mem := none }

theorem Channel.inNear_sub (c : Channel) (r : RowAt) (k : Nat) (pin soft : Bool) : (c.inNear r k pin soft).sub r =
    ⟨tset (c.sub r).rows k ⟨r.frow, false, pin, soft, (c.sub r).next⟩, (c.sub r).next + 1⟩ := Channel.sub_setSub ..

/-- The row is resident then. -/
theorem Channel.inNear_find {c : Channel} {r : RowAt} (k : Nat) (pin soft : Bool) (hn : (c.sub r).find r.frow = none) :
    ((c.inNear r k pin soft).sub r).find r.frow = some (k, ⟨r.frow, false, pin, soft, (c.sub r).next⟩) := by
  rw [Channel.inNear_sub]
  exact find_tset hn (by simp)

/-- R47, R48: a row that is not resident takes a free near row. -/
theorem Channel.promote_of_free {c : Channel} {r : RowAt} (pin soft : Bool) (hn : (c.sub r).find r.frow = none) (hx : (c.sub r).next < 2 ^ 32)
    (hf : ∃ k, k < 32 ∧ tget (c.sub r).rows k = none) :
    ∃ k, (c.sub r).take = some (k, none) ∧ c.promote r pin soft = (0, pin, false, c.inNear r k pin soft) := by
  obtain ⟨k, hk⟩ := Near.take_of_free hf
  refine ⟨k, hk, ?_⟩
  simp only [Channel.promote, Near.renumber_of_lt hx, hn, hk]
  rfl

/-- The state that such a promotion leaves. -/
theorem promoteRow_of_free {s : State} {r : RowAt} (pin soft : Bool) (hn : ((s.chan r.ch).sub r).find r.frow = none)
    (hx : ((s.chan r.ch).sub r).next < 2 ^ 32) (hf : ∃ k, k < 32 ∧ tget ((s.chan r.ch).sub r).rows k = none) :
    ∃ k, s.promoteRow r pin soft = (0, pin, false, (s.modChan r.ch fun c => c.inNear r k pin soft).toNear r) := by
  obtain ⟨k, hk, hp⟩ := Channel.promote_of_free pin soft hn hx hf
  refine ⟨k, ?_⟩
  simp only [State.promoteRow, hp, Near.renumber_of_lt hx, hk]
  rfl

/-! The candidate table (R52) -/

theorem oldestCand_spec : ∀ {l : List (Nat × Nat)}, l ≠ [] → ∃ o, oldestCand l = some o ∧ o ∈ l ∧ ∀ p ∈ l, o.2 ≤ p.2
  | [], h => absurd rfl h
  | [p], _ => ⟨p, rfl, by simp, by simp⟩
  | p :: q :: l, _ => by
    obtain ⟨o, ho, hm, hl⟩ := oldestCand_spec (List.cons_ne_nil q l)
    rw [oldestCand, ho]
    dsimp only
    split
    · next h => exact ⟨p, rfl, by simp, List.forall_mem_cons.mpr ⟨le_rfl, fun r hr => h.trans (hl r hr)⟩⟩
    · next h => exact ⟨o, rfl, by simp [hm], List.forall_mem_cons.mpr ⟨(Nat.not_le.mp h).le, hl⟩⟩

/-! The bus code of a window (R60) -/

/-- The smallest of four counts, the first of equal ones. -/
theorem bestCode_eq {l : List Nat} {b : Nat} (hb : b < 4) (hmin : ∀ k, k < 4 → l.getD b 0 ≤ l.getD k 0)
    (hfirst : ∀ k, k < b → l.getD b 0 < l.getD k 0) : bestCode l = b := by
  have h0 := hmin 0 (by omega)
  have h1 := hmin 1 (by omega)
  have h2 := hmin 2 (by omega)
  have h3 := hmin 3 (by omega)
  have f0 := hfirst 0
  have f1 := hfirst 1
  have f2 := hfirst 2
  simp only [bestCode, show List.range 4 = [0, 1, 2, 3] from rfl, List.foldl_cons, List.foldl_nil]
  obtain rfl | rfl | rfl | rfl : b = 0 ∨ b = 1 ∨ b = 2 ∨ b = 3 := by omega
  all_goals grind

/-! An access (R51, R52, R56, R57, R60) -/

/-- What a channel is after an access to a row with some LC, at some time, that moves some bytes. -/
def Channel.accessed (c : Channel) (r : RowAt) (lc : BitVec 2) (now : Nat) (data : List Byte) : Channel :=
  let hit := (c.bank r.bank).mem == some (r.m, true)
  let near := ((c.sub r).find r.frow).isSome
  let c' := c.learn r.bank r.m
  let c' := if !near && lc = 2 && !hit then c'.modBank r.bank fun b => b.vote r.m (c.counter r.bank r.m) now else c'
  (c'.modBank r.bank fun b => { b with mem := some (r.m, decide (2 ≤ c'.counter r.bank r.m)) }).burst data

/-- The access leaves the channel of its row so, and takes its request from those that wait. -/
theorem dramAccess_next {s : State} {pa : Nat} {wr : Bool} {lc : BitVec 2} {r : RowAt} {q : DramReq} (hd : devOf pa = s.devid.toNat)
    (hr : rowOf pa = some r) (hb : (s.chan r.ch).beats < 2 ^ 20)
    (hq : s.dram.find? (fun p => p.pa == pa / 64 * 64 && p.lc == lc && p.wr == wr) = some q) :
    exec (.dramAccess pa wr lc) s = .next (({ s with dram := s.dram.erase q } : State).modChan r.ch fun _ =>
      (s.chan r.ch).accessed r lc (s.atime (r.ch / 64)) q.data) := by
  simp only [exec, execDramAccess, hd, hr, hq, if_true, if_neg (Nat.not_le.mpr hb)]
  rfl

/-- What an access leaves of its bank (R52, R56): the candidate table after the vote, if there was one, and its own row remembered. -/
def Channel.bankAfter (c : Channel) (r : RowAt) (lc : BitVec 2) (now : Nat) : Bank :=
  { (if ((c.sub r).find r.frow).isSome = false ∧ lc = 2 ∧ (c.bank r.bank).mem ≠ some (r.m, true) then
      (c.bank r.bank).vote r.m (c.counter r.bank r.m) now else c.bank r.bank) with
    mem := some (r.m, decide (2 ≤ (c.learn r.bank r.m).counter r.bank r.m)) }

/-- Learning touches the counters alone. -/
theorem Channel.learn_eq (c : Channel) (bank m : Nat) : ∃ p, c.learn bank m = { c with pred := p } := by
  unfold Channel.learn
  split
  · exact ⟨_, rfl⟩
  · exact ⟨_, rfl⟩

/-- An access learns, leaves its bank, and sends its burst; nothing else of the channel changes. -/
theorem Channel.accessed_eq (c : Channel) (r : RowAt) (lc : BitVec 2) (now : Nat) (data : List Byte) :
    c.accessed r lc now data = ((c.learn r.bank r.m).modBank r.bank fun _ => c.bankAfter r lc now).burst data := by
  obtain ⟨p, hp⟩ := c.learn_eq r.bank r.m
  have hb : (c.learn r.bank r.m).bank r.bank = c.bank r.bank := by rw [hp]; rfl
  unfold Channel.accessed
  dsimp only
  by_cases h : ((c.sub r).find r.frow).isSome = false ∧ lc = 2 ∧ (c.bank r.bank).mem ≠ some (r.m, true)
  · rw [if_pos (by simpa [and_assoc] using h), Channel.modBank_modBank]
    refine congrArg (Channel.burst · data) (Channel.modBank_const ?_)
    rw [hb, Channel.bankAfter, if_pos h]
    rfl
  · rw [if_neg (by simpa [and_assoc] using h)]
    refine congrArg (Channel.burst · data) (Channel.modBank_const ?_)
    rw [hb, Channel.bankAfter, if_neg h]

end Sys2Proof.Machine
end

section
/-! SUPPORT. What the fields of a channel are after an access; votes; and the address of a scrubbed row. -/

namespace Sys2Proof.Machine

/-! The fields of a channel after an access -/

section
variable (c : Channel) (r : RowAt) (lc : BitVec 2) (now : Nat) (data : List Byte)

@[simp] theorem Channel.accessed_near : (c.accessed r lc now data).near = c.near := by
  obtain ⟨p, hp⟩ := c.learn_eq r.bank r.m
  rw [Channel.accessed_eq, hp]
  rfl

@[simp] theorem Channel.accessed_cur : (c.accessed r lc now data).cur = c.armed.getD c.cur := by
  obtain ⟨p, hp⟩ := c.learn_eq r.bank r.m
  rw [Channel.accessed_eq, hp]
  rfl

@[simp] theorem Channel.accessed_armed : (c.accessed r lc now data).armed = none := rfl

@[simp] theorem Channel.accessed_beats : (c.accessed r lc now data).beats = c.beats + 4 := by
  obtain ⟨p, hp⟩ := c.learn_eq r.bank r.m
  rw [Channel.accessed_eq, hp]
  rfl

@[simp] theorem Channel.accessed_shadow : (c.accessed r lc now data).shadow = (List.range 4).map fun k =>
    c.shadow.getD k 0 + burstCost k ((List.range 4).map fun i => leNat ((data.drop (16 * i)).take 16)) := by
  obtain ⟨p, hp⟩ := c.learn_eq r.bank r.m
  rw [Channel.accessed_eq, hp]
  rfl

@[simp] theorem Channel.accessed_pred : (c.accessed r lc now data).pred = (c.learn r.bank r.m).pred := by
  rw [Channel.accessed_eq]
  rfl

theorem Channel.accessed_counter (bank m : Nat) : (c.accessed r lc now data).counter bank m = (c.learn r.bank r.m).counter bank m := by
  simp [Channel.counter]

@[simp] theorem Channel.accessed_bank : (c.accessed r lc now data).bank r.bank = c.bankAfter r lc now := by
  rw [Channel.accessed_eq]
  exact Channel.bank_modBank (c.learn r.bank r.m) r.bank fun _ => c.bankAfter r lc now

end

/-- The counter of the remembered row goes up at an access to that row, and down at one to another (R57). -/
theorem Channel.learn_counter {c : Channel} {bank m old : Nat} {o : Bool} (h : (c.bank bank).mem = some (old, o)) :
    (c.learn bank m).counter bank old = if old = m then min 3 (c.counter bank old + 1) else c.counter bank old - 1 := by
  simp [Channel.learn, h, Channel.counter]

theorem Channel.learn_of_none {c : Channel} {bank m : Nat} (h : (c.bank bank).mem = none) : c.learn bank m = c := by
  simp [Channel.learn, h]

/-- An access that hits the row left open, finds a near copy or does not carry LC 10 leaves the candidate table alone. -/
theorem Channel.bankAfter_of_no_vote {c : Channel} {r : RowAt} {lc : BitVec 2} {now : Nat}
    (h : ((c.sub r).find r.frow).isSome = true ∨ lc ≠ 2 ∨ (c.bank r.bank).mem = some (r.m, true)) :
    (c.bankAfter r lc now).cands = (c.bank r.bank).cands ∧ (c.bankAfter r lc now).pend = (c.bank r.bank).pend := by
  have hn : ¬(((c.sub r).find r.frow).isSome = false ∧ lc = 2 ∧ (c.bank r.bank).mem ≠ some (r.m, true)) := by
    rintro ⟨hx, hl, hm⟩
    obtain h | h | h := h
    · simp [h] at hx
    · exact h hl
    · exact hm h
  rw [Channel.bankAfter, if_neg hn]
  exact ⟨rfl, rfl⟩

/-- Any other is a far activation, and votes. -/
theorem Channel.bankAfter_of_vote {c : Channel} {r : RowAt} {now : Nat} (hn : (c.sub r).find r.frow = none)
    (hm : (c.bank r.bank).mem ≠ some (r.m, true)) :
    (c.bankAfter r 2 now).cands = ((c.bank r.bank).vote r.m (c.counter r.bank r.m) now).cands ∧
    (c.bankAfter r 2 now).pend = ((c.bank r.bank).vote r.m (c.counter r.bank r.m) now).pend := by
  rw [Channel.bankAfter, if_pos ⟨by simp [hn], rfl, hm⟩]
  exact ⟨rfl, rfl⟩

/-! Votes (R52) -/

theorem Bank.vote_of_listed {b : Bank} {m n now t : Nat} (h : b.cands.find? (fun p => p.1 == m) = some (m, t)) : b.vote m n now =
    if 2 ≤ n then { b with cands := b.cands.filter fun p => p.1 != m }
    else if now ≤ t + 2000 then { b with cands := b.cands.filter (fun p => p.1 != m), pend := if m ∈ b.pend then b.pend else b.pend ++ [m] }
    else { b with cands := b.cands.map fun p => if p.1 = m then (m, now) else p } := by
  simp [Bank.vote, h]

theorem Bank.vote_of_unlisted {b : Bank} {m n now : Nat} (h : b.cands.find? (fun p => p.1 == m) = none) : (b.vote m n now).pend = b.pend ∧
    if 2 ≤ n then (b.vote m n now).cands = b.cands
    else if b.cands.length < 4 then (b.vote m n now).cands = b.cands ++ [(m, now)]
    else ∃ o ∈ b.cands, (∀ p ∈ b.cands, o.2 ≤ p.2) ∧ (b.vote m n now).cands = b.cands.erase o ++ [(m, now)] := by
  by_cases hn : 2 ≤ n
  · simp [Bank.vote, h, hn]
  by_cases hl : b.cands.length < 4
  · simp [Bank.vote, h, hn, hl]
  have hne : b.cands ≠ [] := by
    intro he
    simp [he] at hl
  obtain ⟨o, ho, hm, hmin⟩ := oldestCand_spec hne
  rw [if_neg hn, if_neg hl]
  exact ⟨by simp [Bank.vote, h, hn, hl, ho], o, hm, hmin, by simp [Bank.vote, h, hn, hl, ho]⟩

/-! A scrub (R63) -/

/-- The channel of an address in DRAM (R9), from its stack's place and its offset there. -/
theorem chanOf_dram {a d o : Nat} (hl : localOf a = d * 0x3000000000 + o) (hd : d < 4) (ho : o < 0x3000000000) :
    chanOf a = some (d * 64 + o / 2 ^ 11 % 2 ^ 6) := by
  have hlt : localOf a < 0x00C000000000 := by omega
  have hdiv : localOf a / 0x3000000000 = d := by omega
  have hmod : localOf a % 0x3000000000 = o := by omega
  unfold chanOf regionOf
  rw [if_pos hlt, hdiv, hmod]
  rfl

/-- The address of a row in a channel of a device. -/
def rowBase (dev ch row : Nat) : Nat := dev * 2 ^ 46 + ch / 64 * 0x3000000000 + row * 2 ^ 17 + ch % 64 * 2 ^ 11

/-- The address of a sector of it. -/
def sectorAt (dev ch row i : Nat) : Nat := rowBase dev ch row + 64 * i

/-- It lies in that channel. -/
theorem chanOf_sectorAt {dev ch row i : Nat} (hc : ch < 256) (hr : row < 0x180000) (hi : i < 32) : chanOf (sectorAt dev ch row i) = some ch := by
  have hl : localOf (sectorAt dev ch row i) = ch / 64 * 0x3000000000 + (row * 2 ^ 17 + ch % 64 * 2 ^ 11 + 64 * i) := by
    unfold localOf sectorAt rowBase
    omega
  rw [chanOf_dram hl (by omega) (by omega)]
  congr 1
  omega

/-- The sectors of a row in a channel lie in the two kilobytes that start at its address. -/
theorem sectorAt_block {dev ch row i : Nat} (hi : i < 32) : sectorAt dev ch row i / 2048 = rowBase dev ch row / 2048 := by
  unfold sectorAt rowBase
  omega

theorem countSector_of {s : State} {a h : Nat} (hc : chanOf a = some h) (ha : a / 64 * 64 = a) :
    s.countSector a = s.modChan h fun c => { c with ue := c.ue + 1, ueAddr := BitVec.ofNat 64 a } := by
  unfold State.countSector
  rw [hc, ha]
  rfl

theorem sectorAt_aligned (dev ch row i : Nat) : sectorAt dev ch row i / 64 * 64 = sectorAt dev ch row i := by
  unfold sectorAt rowBase
  omega

end Sys2Proof.Machine
end

section
/-! SUPPORT. ChannelsKeepTheirTables (O52): what a scrub finds and counts, and the obligation from its parts. -/

namespace Sys2Proof.Machine

/-! A scrub (R63) -/

/-- The sectors that are bad after a scrub that finds some of its row's sectors bad: in the authoritative copy. -/
def scrubTop (s : State) (ch row : Nat) (bad : List Nat) : List Nat :=
  joinNew s.badSectors ((bad.filter (· < 32)).map (sectorAt s.devid.toNat ch row))

/-- Likewise in the far row under a near copy. -/
def scrubUnder (s : State) (ch row : Nat) (bad : List Nat) : List Nat :=
  if (((s.chan ch).sub (rowAt ch row)).find (rowAt ch row).frow).isSome then
    joinNew s.badFar ((bad.filter fun i => decide (32 ≤ i ∧ i < 64)).map fun i => sectorAt s.devid.toNat ch row (i - 32))
  else s.badFar

/-- Those of some addresses that lie in a row of a channel. -/
def ofRow (s : State) (ch row : Nat) (l : List Nat) : List Nat := l.filter fun a => a / 2048 == rowBase s.devid.toNat ch row / 2048

theorem patrolScrub_next {s : State} {ch row n : Nat} {bad : List Nat} (hr : row < 0x180000) : exec (.patrolScrub ch row n bad) s =
    .next ((ofRow s ch row (scrubTop s ch row bad) ++ ofRow s ch row (scrubUnder s ch row bad)).foldl State.countSector
      { s.modChan ch fun c => { c with ce := c.ce + BitVec.ofNat 64 n } with
        badSectors := scrubTop s ch row bad, badFar := scrubUnder s ch row bad }) := by
  exact (if_neg (Nat.not_le.mpr hr)).trans rfl

/-- A sector counted a number of times in its channel: each adds one, and its address stays. -/
theorem countSectors_state {ch a : Nat} (hc : chanOf a = some ch) (ha : a / 64 * 64 = a) : ∀ (k : Nat) {s : State},
    (List.replicate (k + 1) a).foldl State.countSector s =
      s.modChan ch fun c => { c with ue := c.ue + BitVec.ofNat 64 (k + 1), ueAddr := BitVec.ofNat 64 a }
  | 0, s => countSector_of hc ha
  | k + 1, s => by
    rw [List.replicate_succ, List.foldl_cons, countSectors_state hc ha k, countSector_of hc ha]
    have hk : BitVec.ofNat 64 (k + 2) = 1 + BitVec.ofNat 64 (k + 1) := by
      rw [show k + 2 = 1 + (k + 1) by omega, BitVec.ofNat_add]
      rfl
    simp [State.modChan, State.chan, BitVec.add_assoc, hk]

/-- A scrub that finds one sector bad so often, in one copy or in both: it is counted as often. -/
theorem patrolScrub_counts {s : State} {ch row n i : Nat} {bad : List Nat} (k : Nat) (hc : ch < 256) (hr : row < 0x180000) (hi : i < 32)
    (hb : ofRow s ch row (scrubTop s ch row bad) ++ ofRow s ch row (scrubUnder s ch row bad) =
      List.replicate (k + 1) (sectorAt s.devid.toNat ch row i)) :
    ∃ u, exec (.patrolScrub ch row n bad) s = .next u ∧ sameBytes s u ∧ u.badSectors = scrubTop s ch row bad ∧
      u.badFar = scrubUnder s ch row bad ∧ u.chan ch = { s.chan ch with
        ce := (s.chan ch).ce + BitVec.ofNat 64 n, ue := (s.chan ch).ue + BitVec.ofNat 64 (k + 1)
        ueAddr := BitVec.ofNat 64 (sectorAt s.devid.toNat ch row i) } := by
  refine ⟨_, patrolScrub_next hr, ?_⟩
  rw [hb, countSectors_state (chanOf_sectorAt hc hr hi) (sectorAt_aligned ..)]
  exact ⟨fun _ => rfl, rfl, rfl, by simp [State.modChan, State.chan]⟩

/-- What lies in another row is not among a row's. -/
theorem ofRow_eq_nil {s : State} {ch row i : Nat} {l : List Nat} (hi : i < 32) (h : ∀ x ∈ l, x / 2048 ≠ sectorAt s.devid.toNat ch row i / 2048) :
    ofRow s ch row l = [] := by
  rw [ofRow, List.filter_eq_nil_iff]
  intro x hx
  simpa [sectorAt_block hi] using h x hx

theorem ofRow_sectorAt {s : State} {ch row i : Nat} (hi : i < 32) :
    ofRow s ch row [sectorAt s.devid.toNat ch row i] = [sectorAt s.devid.toNat ch row i] := by
  simp [ofRow, sectorAt_block hi]

/-- With nothing found in the far row, what is bad there stays as it was. -/
theorem scrubUnder_of_top {s : State} {ch row : Nat} {bad : List Nat} (h : ∀ i ∈ bad, i < 32) : scrubUnder s ch row bad = s.badFar := by
  have hf : (bad.filter fun i => decide (32 ≤ i ∧ i < 64)) = [] := by
    rw [List.filter_eq_nil_iff]
    intro i hi
    have := h i hi
    simp
    omega
  rw [scrubUnder, hf]
  simp [joinNew]

/-- A sector found bad where none of its row was is the only one counted. -/
theorem patrolScrub_new {s : State} {ch row n i : Nat} (hc : ch < 256) (hr : row < 0x180000) (hi : i < 32)
    (hn : ∀ x ∈ s.badSectors ++ s.badFar, x / 2048 ≠ sectorAt s.devid.toNat ch row i / 2048) :
    ∃ u, exec (.patrolScrub ch row n [i]) s = .next u ∧ sameBytes s u ∧ sectorAt s.devid.toNat ch row i ∈ u.badSectors ∧
      u.chan ch = { s.chan ch with
        ce := (s.chan ch).ce + BitVec.ofNat 64 n, ue := (s.chan ch).ue + 1, ueAddr := BitVec.ofNat 64 (sectorAt s.devid.toNat ch row i) } := by
  have ht : scrubTop s ch row [i] = s.badSectors ++ [sectorAt s.devid.toNat ch row i] := by
    have hx : sectorAt s.devid.toNat ch row i ∉ s.badSectors := fun hx => hn _ (List.mem_append_left _ hx) rfl
    simp [scrubTop, joinNew, hi, hx]
  have hu : scrubUnder s ch row [i] = s.badFar := scrubUnder_of_top (by simpa using hi)
  obtain ⟨u, he, hb, hs, -, hch⟩ := patrolScrub_counts (s := s) (n := n) (bad := [i]) 0 hc hr hi (by
    rw [ht, hu, ofRow_eq_nil hi fun x hx => hn x (List.mem_append_right _ hx), ofRow, List.filter_append]
    rw [← ofRow, ← ofRow, ofRow_eq_nil hi fun x hx => hn x (List.mem_append_left _ hx), ofRow_sectorAt hi]
    rfl)
  exact ⟨u, he, hb, by rw [hs, ht]; simp, hch⟩

/-- A sector that was the only bad one is counted once, found again or not. -/
theorem patrolScrub_old {s : State} {ch row n i : Nat} {bad : List Nat} (hc : ch < 256) (hr : row < 0x180000) (hi : i < 32)
    (hs : s.badSectors = [sectorAt s.devid.toNat ch row i]) (hf : s.badFar = []) (hb : bad = [] ∨ bad = [i]) :
    ∃ u, exec (.patrolScrub ch row n bad) s = .next u ∧ sameBytes s u ∧ sectorAt s.devid.toNat ch row i ∈ u.badSectors ∧
      u.chan ch = { s.chan ch with
        ce := (s.chan ch).ce + BitVec.ofNat 64 n, ue := (s.chan ch).ue + 1, ueAddr := BitVec.ofNat 64 (sectorAt s.devid.toNat ch row i) } := by
  have ht : scrubTop s ch row bad = [sectorAt s.devid.toNat ch row i] := by
    obtain rfl | rfl := hb
    · simp [scrubTop, joinNew, hs]
    · simp [scrubTop, joinNew, hs, hi]
  have hu : scrubUnder s ch row bad = [] := by
    rw [scrubUnder_of_top, hf]
    obtain rfl | rfl := hb
    · simp
    · simpa using hi
  obtain ⟨u, he, hsame, htop, -, hch⟩ := patrolScrub_counts (s := s) (n := n) (bad := bad) 0 hc hr hi (by
    rw [ht, hu, ofRow_sectorAt hi]
    rfl)
  exact ⟨u, he, hsame, by rw [htop, ht]; simp, hch⟩

/-- A sector found bad in a near copy and in the far row under it is counted for each. -/
theorem patrolScrub_both {s : State} {ch row n i : Nat} (hc : ch < 256) (hr : row < 0x180000) (hi : i < 32)
    (hn : (((s.chan ch).sub (rowAt ch row)).find (rowAt ch row).frow).isSome = true) (hs : s.badSectors = []) (hf : s.badFar = []) :
    ∃ u, exec (.patrolScrub ch row n [i, 32 + i]) s = .next u ∧ sameBytes s u ∧ u.badSectors = [sectorAt s.devid.toNat ch row i] ∧
      u.badFar = [sectorAt s.devid.toNat ch row i] ∧ u.chan ch = { s.chan ch with
        ce := (s.chan ch).ce + BitVec.ofNat 64 n, ue := (s.chan ch).ue + 2, ueAddr := BitVec.ofNat 64 (sectorAt s.devid.toNat ch row i) } := by
  have ht : scrubTop s ch row [i, 32 + i] = [sectorAt s.devid.toNat ch row i] := by simp [scrubTop, joinNew, hs, hi]
  have hu : scrubUnder s ch row [i, 32 + i] = [sectorAt s.devid.toNat ch row i] := by
    have h64 : 32 + i < 64 := by omega
    have hlt : ¬ 32 ≤ i := by omega
    simp [scrubUnder, joinNew, hf, hn, h64, hlt]
  obtain ⟨u, he, hsame, htop, hunder, hch⟩ := patrolScrub_counts (s := s) (n := n) (bad := [i, 32 + i]) 1 hc hr hi (by
    rw [ht, hu, ofRow_sectorAt hi]
    rfl)
  exact ⟨u, he, hsame, htop.trans ht, hunder.trans hu, hch⟩

end Sys2Proof.Machine
end

section
/-! THEOREM. ChannelsKeepTheirTables (O52), from its parts. -/

namespace Sys2Proof.Machine

/-- An access on its way to a controller is performed with its LC. -/
theorem dramAccess_keeps_tables {s : State} {pa : Nat} {wr : Bool} {lc : BitVec 2} {r : RowAt} {bs : List Byte} (hd : devOf pa = s.devid.toNat)
    (hr : rowOf pa = some r) (hb : (s.chan r.ch).beats < 2 ^ 20)
    (hq : s.dram.find? (fun p => p.pa == pa / 64 * 64 && p.lc == lc && p.wr == wr) = some ⟨pa / 64 * 64, lc, wr, bs⟩) :
    ∃ u, exec (.dramAccess pa wr lc) s = .next u ∧ sameBytes s u ∧ u.dram = s.dram.erase ⟨pa / 64 * 64, lc, wr, bs⟩ ∧
      u.chan r.ch = (s.chan r.ch).accessed r lc (s.atime (r.ch / 64)) bs :=
  ⟨_, dramAccess_next hd hr hb hq, fun _ => rfl, rfl, State.chan_modChan ..⟩

/-- A row whose promotion waits is promoted, and its bank's remembered row closed (R52). -/
theorem autoPromotion_promotes {s : State} {ch bank m : Nat} {ms : List Nat} (hp : ((s.chan ch).bank bank).pend = m :: ms) {r : RowAt}
    (hr : r = ⟨ch, bank, bits m 15 9, bits m 8 0, m⟩) (hn : ((s.chan ch).sub r).find r.frow = none) (hx : ((s.chan ch).sub r).next < 2 ^ 32)
    (hf : ∃ k, k < 32 ∧ tget ((s.chan ch).sub r).rows k = none) :
    ∃ u k, exec (.autoPromotion ch bank) s = .next u ∧ sameBytes s u ∧ ((u.chan ch).bank bank).pend = ms ∧
      ((u.chan ch).bank bank).mem = none ∧ (u.chan ch).prom = (s.chan ch).prom + 1 ∧
      ((u.chan ch).sub r).find r.frow = some (k, ⟨r.frow, false, false, false, ((s.chan ch).sub r).next⟩) := by
  have hch : r.ch = ch := by rw [hr]
  have hbk : r.bank = bank := by rw [hr]
  have he : exec (.autoPromotion ch bank) s = .next (((s.modChan ch fun c => c.modBank bank fun b => { b with pend := ms }).promoteRow
      r false false).2.2.2) := by
    rw [hr] at hn ⊢
    simp only [exec, execAutoPromotion, hp, hn]
    rfl
  have hc : (s.modChan ch fun c => c.modBank bank fun b => { b with pend := ms }).chan ch =
      (s.chan ch).modBank bank fun b => { b with pend := ms } := State.chan_modChan ..
  obtain ⟨k, hk⟩ := promoteRow_of_free (s := s.modChan ch fun c => c.modBank bank fun b => { b with pend := ms }) (r := r) false false
    (by rw [hch, hc]; exact hn) (by rw [hch, hc]; exact hx) (by rw [hch, hc]; exact hf)
  rw [hk, hch] at he
  refine ⟨_, k, he, fun _ => rfl, ?_⟩
  have hchan : (((s.modChan ch fun c => c.modBank bank fun b => { b with pend := ms }).modChan ch fun c => c.inNear r k false false).toNear r).chan ch =
      ((s.chan ch).modBank bank fun b => { b with pend := ms }).inNear r k false false := by
    rw [← hc]
    exact State.chan_modChan _ ch fun c => c.inNear r k false false
  rw [hchan, ← hbk, Channel.inNear_bank, Channel.bank_modBank]
  exact ⟨rfl, rfl, rfl, Channel.inNear_find k false false hn⟩

/-- A refresh closes the bank's remembered row, and arms a switch of the bus code that is scheduled. -/
theorem refresh_keeps_tables (s : State) (ch bank : Nat) : ∃ u, exec (.refresh ch bank) s = .next u ∧ sameBytes s u ∧
    (u.chan ch).cur = (s.chan ch).cur ∧ (u.chan ch).armed = (s.chan ch).pend.or (s.chan ch).armed ∧ (u.chan ch).pend = none ∧
    ((u.chan ch).bank bank).mem = none ∧ ((u.chan ch).bank bank).cands = ((s.chan ch).bank bank).cands ∧
    (u.chan ch).near = (s.chan ch).near ∧ (u.chan ch).pred = (s.chan ch).pred := by
  refine ⟨_, rfl, fun _ => rfl, ?_⟩
  rw [State.chan_modChan]
  have hb : ((s.chan ch).rowOp bank).bank bank = { (s.chan ch).bank bank with mem := none } := Channel.bank_modBank ..
  exact ⟨rfl, rfl, rfl, (congrArg Bank.mem hb :), (congrArg Bank.cands hb :), rfl, rfl⟩

/-- The end of a full window keeps its counts, and names the code of its smallest. -/
theorem busCodeWindowEnd_counts {s : State} {ch b : Nat} (hf : 2 ^ 20 ≤ (s.chan ch).beats) (hb : b < 4)
    (hmin : ∀ k, k < 4 → (s.chan ch).shadow.getD b 0 ≤ (s.chan ch).shadow.getD k 0)
    (hfirst : ∀ k, k < b → (s.chan ch).shadow.getD b 0 < (s.chan ch).shadow.getD k 0) {good : Bool}
    (hg : good = (!(s.chan ch).pin && decide ((s.chan ch).shadow.getD b 0 ≤
      (s.chan ch).shadow.getD (s.chan ch).cur.toNat 0 - (s.chan ch).shadow.getD (s.chan ch).cur.toNat 0 / 16))) :
    ∃ u, exec (.busCodeWindowEnd ch) s = .next u ∧ sameBytes s u ∧ u.chan ch = { s.chan ch with
      cnt := (s.chan ch).shadow, shadow := [0, 0, 0, 0], beats := 0, streak := if good then some (BitVec.ofNat 2 b) else none
      pend := if good && (s.chan ch).streak == some (BitVec.ofNat 2 b) && BitVec.ofNat 2 b != (s.chan ch).cur then some (BitVec.ofNat 2 b)
        else (s.chan ch).pend } := by
  refine ⟨_, rfl, fun _ => rfl, ?_⟩
  have hn : (BitVec.ofNat 2 b).toNat = b := by
    rw [BitVec.toNat_ofNat]
    omega
  rw [State.chan_modChan, if_neg (Nat.not_lt.mpr hf), bestCode_eq hb hmin hfirst]
  dsimp only
  rw [hn, ← hg]

/-- A write of CHCODE with PIN, and one without it (R61). -/
theorem writeCode_pin (c : Channel) (code : BitVec 2) : c.writeCode (w64 (16 + code.toNat * 4)) =
    { c with pin := true, pcode := code, pend := if c.armed.getD c.cur = code then none else some code } := by
  have hb : wbit (w64 (16 + code.toNat * 4)) 4 = true ∧ BitVec.ofNat 2 (wbits (w64 (16 + code.toNat * 4)) 3 2) = code := by
    revert code
    decide
  rw [Channel.writeCode, hb.1, hb.2]
  simp

theorem writeCode_unpin (c : Channel) : c.writeCode (w64 (c.pcode.toNat * 4)) = { c with pin := false } := by
  have hb (p : BitVec 2) : wbit (w64 (p.toNat * 4)) 4 = false ∧ BitVec.ofNat 2 (wbits (w64 (p.toNat * 4)) 3 2) = p := by
    revert p
    decide
  rw [Channel.writeCode, (hb c.pcode).1, (hb c.pcode).2]
  rfl

/-- Settles O52, each operation by its own lemma; for a vote the branches of `Bank.vote` are those of R52. -/
theorem channelsKeepTheirTables : Obligations.ChannelsKeepTheirTables := by
  unfold Obligations.ChannelsKeepTheirTables
  refine ⟨?_, ?_, refresh_keeps_tables, fun s ch b hf hb hmin hfirst => busCodeWindowEnd_counts hf hb hmin hfirst rfl, ?_, ?_⟩
  · intro s pa wr lc r bs hd hr c b q hb hq
    obtain ⟨u, he, hs, hdram, hch⟩ := dramAccess_keeps_tables hd hr hb hq
    refine ⟨u, he, hs, hdram, ?_⟩
    rw [hch]
    refine ⟨Channel.accessed_near .., Channel.accessed_shadow .., Channel.accessed_beats .., Channel.accessed_cur .., rfl, ?_, ?_, ?_, ?_, ?_⟩
    · rw [Channel.accessed_bank, Channel.accessed_counter, Channel.bankAfter]
    · intro m o hm
      rw [Channel.accessed_counter]
      exact Channel.learn_counter hm
    · intro hm
      rw [Channel.accessed_pred, Channel.learn_of_none hm]
    · intro h
      rw [Channel.accessed_bank]
      exact Channel.bankAfter_of_no_vote h
    · rintro hn rfl hm
      rw [Channel.accessed_bank]
      obtain ⟨hcands, hpend⟩ := Channel.bankAfter_of_vote (now := s.atime (r.ch / 64)) hn hm
      dsimp only
      rw [hcands, hpend]
      refine ⟨fun t ht => ?_, fun ht => ?_⟩
      · rw [Bank.vote_of_listed ht]
        simp only [decide_eq_true_eq]
        split
        · exact ⟨rfl, rfl⟩
        · split
          · exact ⟨rfl, rfl⟩
          · exact ⟨rfl, rfl⟩
      · simp only [decide_eq_true_eq]
        exact Bank.vote_of_unlisted ht
  · intro s ch bank m ms hp c r hn hx hf
    exact autoPromotion_promotes hp (by simp [r, bits]) hn hx hf
  · intro s ch row n i hc hr hi a c found
    exact ⟨patrolScrub_new hc hr hi, fun hs hf => ⟨patrolScrub_old hc hr hi hs hf (.inl rfl), patrolScrub_old hc hr hi hs hf (.inr rfl)⟩,
      fun hn hs hf => patrolScrub_both hc hr hi hn hs hf⟩
  · intro s ch code stk ent
    refine ⟨?_, ?_, rfl⟩
    · exact congrArg (fun f => Host.Outcome.next (s.modChan ch f)) (funext fun c => writeCode_pin c code)
    · exact congrArg (fun f => Host.Outcome.next (s.modChan ch f)) (funext writeCode_unpin)

end Sys2Proof.Machine
end

section
/-! THEOREM. RowsAndPlacementAreControlled (O32) fails: a PREF that reaches the strand's own core performs what waits there, a timed load of
the same slot among it, and the miss of that load counts in the strand's s.hpm5. -/

namespace Sys2Proof.Machine

/-- The access of the page at zero of `waitingLoad`: the first bytes of DRAM, whose home is core 0. -/
def firstBytes : Access := ⟨0, .core 0, 0, false⟩

/-- Reset, with a page of core 0 mapped readable for the user, and a timed load of its slot 0 due there and not yet performed. -/
def waitingLoad : State :=
  { State.reset with cores := [(0, { Core.reset with tlb := [⟨0, 0, 0, 0x53⟩], loads := [⟨firstBytes, 8, 0, 0, 0, 0, none⟩] })] }

/-- A PREF through that page runs, and leaves the count of s.hpm5 at one. -/
theorem pref_waitingLoad_counts : ∃ t, exec (.pref 0) waitingLoad = .next t ∧ vget t.self.hpm 5 = 1 := by
  refine ⟨_, rfl, ?_⟩
  decide +kernel

/-- Refutes O32: its second clause lets PREF change nothing of the strand but PC, s.hpm0 and the FIFO, in every state; in `waitingLoad` the
PREF counts a miss in s.hpm5 as well. -/
theorem not_rowsAndPlacementAreControlled : ¬ Obligations.RowsAndPlacementAreControlled := by
  unfold Obligations.RowsAndPlacementAreControlled
  rintro ⟨hrows, -⟩
  obtain ⟨-, ⟨t, ht, hself, -⟩, -⟩ := hrows waitingLoad 0 0 0 rfl
  obtain ⟨u, hu, hcount⟩ := pref_waitingLoad_counts
  have htu : t = u := Host.Outcome.next.inj (ht.symm.trans hu)
  have hzero : vget waitingLoad.self.went.hpm 5 = 0 := by decide +kernel
  have hfive : vget t.self.hpm 5 = vget waitingLoad.self.went.hpm 5 := by rw [hself]
  rw [htu, hcount, hzero] at hfive
  exact absurd hfive (by decide)

end Sys2Proof.Machine
end

section
/-! SUPPORT. The way of a load to its home (UncorrectableReadsTrap): the loading forms as bodies, the checks that `reaches` promises, and what
comes before the read itself, which changes nothing but cores. -/

namespace Sys2Proof.Machine

/-! Changes of cores alone -/

/-- Only cores differ, and none in the timed accesses at it. -/
def OnlyCores (s t : State) : Prop :=
  (∃ cs, t = { s with cores := cs }) ∧ ∀ c, (t.core c).cal = (s.core c).cal ∧ (t.core c).calWait = (s.core c).calWait ∧
    (t.core c).loads = (s.core c).loads

theorem OnlyCores.refl (s : State) : OnlyCores s s := ⟨⟨s.cores, rfl⟩, fun _ => ⟨rfl, rfl, rfl⟩⟩

theorem OnlyCores.trans {s t u : State} (h : OnlyCores s t) (h' : OnlyCores t u) : OnlyCores s u := by
  obtain ⟨⟨cs, rfl⟩, hc⟩ := h
  obtain ⟨⟨ds, rfl⟩, hd⟩ := h'
  refine ⟨⟨ds, rfl⟩, fun c => ?_⟩
  obtain ⟨h1, h2, h3⟩ := hc c
  obtain ⟨h4, h5, h6⟩ := hd c
  exact ⟨h4.trans h1, h5.trans h2, h6.trans h3⟩

theorem onlyCores_modCore (s : State) (c : Nat) {f : Core → Core} (hf : ∀ k, (f k).cal = k.cal ∧ (f k).calWait = k.calWait ∧ (f k).loads = k.loads) :
    OnlyCores s (s.modCore c f) := by
  refine ⟨⟨_, rfl⟩, fun c' => ?_⟩
  by_cases h : c' = c
  · rw [h, State.core_modCore]
    exact hf _
  · rw [State.core_modCore_ne _ _ h]
    exact ⟨rfl, rfl, rfl⟩

theorem onlyCores_modStrand (s : State) (c l : Nat) (f : Strand → Strand) : OnlyCores s (s.modStrand c l f) :=
  onlyCores_modCore (f := fun k => { k with slots := vset k.slots l (f (s.strand c l)) }) s c fun _ => ⟨rfl, rfl, rfl⟩

theorem onlyCores_unreserve (s : State) (c l : Nat) : OnlyCores s (s.unreserve c l) := by
  unfold State.unreserve
  split
  · exact .refl s
  · exact (onlyCores_modStrand ..).trans (onlyCores_modStrand ..)

theorem onlyCores_unpop (s : State) (c l : Nat) : OnlyCores s (s.unpop c l) := by
  unfold State.unpop
  dsimp only
  split
  · exact onlyCores_modStrand ..
  · exact (onlyCores_modStrand ..).trans (onlyCores_modCore _ _ fun _ => ⟨rfl, rfl, rfl⟩)

theorem onlyCores_ite {p : Prop} [Decidable p] {s t u : State} (ht : OnlyCores s t) (hu : OnlyCores s u) : OnlyCores s (if p then t else u) := by
  split
  · exact ht
  · exact hu

theorem onlyCores_letGo (s : State) (c l : Nat) : OnlyCores s (s.letGo c l) :=
  have h : OnlyCores s ((if ((s.core c).pipeOf l).isSome then s.unpop c l else s).unreserve c l) :=
    (onlyCores_ite (onlyCores_unpop ..) (.refl s)).trans (onlyCores_unreserve ..)
  onlyCores_ite (h.trans (onlyCores_modCore (f := (·.leaveK l)) _ _ fun _ => ⟨rfl, rfl, rfl⟩)) h

theorem Same.onlyCores {s t : State} (h : Same s t) : OnlyCores s t := by
  rcases h with rfl | rfl
  · exact .refl _
  · exact onlyCores_modStrand ..

theorem OnlyCores.cur {s t : State} (h : OnlyCores s t) : t.cur = s.cur := by
  obtain ⟨⟨cs, rfl⟩, -⟩ := h
  rfl

theorem OnlyCores.upToDate {s t : State} (h : OnlyCores s t) (c : Nat) : t.upToDate c = s.upToDate c := by
  obtain ⟨⟨cs, rfl⟩, hc⟩ := h
  obtain ⟨h1, h2, h3⟩ := hc c
  simp only [State.upToDate, State.current, State.calOf, h1, h2, h3]
  rfl

theorem OnlyCores.homeRead {s t : State} (h : OnlyCores s t) (pa n : Nat) : t.homeRead pa n = s.homeRead pa n := by
  obtain ⟨⟨cs, rfl⟩, -⟩ := h
  rfl

/-! The checks (R178 step 4) -/

/-- An access that is mapped is translated. -/
theorem translate_maps {s : State} {va : Word} {n : Nat} {kind : Kind} {a : Access} (h : s.maps va n kind a = true) :
    translate va kind false s = .ok ((a, false), s) := by
  unfold State.maps at h
  simp only [Bool.and_eq_true, beq_iff_eq, decide_eq_true_eq, Bool.not_eq_true'] at h
  obtain ⟨⟨⟨⟨⟨⟨-, hva⟩, htlb⟩, -⟩, -⟩, -⟩, -⟩ := h
  have hdiv : va.toNat / 2 ^ 57 = 0 := Nat.div_eq_of_lt hva
  unfold translate
  rw [if_neg (not_not.mpr hdiv), M_bind_ok (get_run s), M_bind_ok (me_run s)]
  have hctx : myCtx s = .ok (s.ctxOf s.self.launch, s) := rfl
  rw [M_bind_ok hctx]
  split at htlb
  · next e he =>
    simp only [Bool.and_eq_true, Bool.not_eq_true', beq_iff_eq] at htlb
    obtain ⟨⟨hleaf, hstale⟩, hacc⟩ := htlb
    simp [he, hleaf, hstale, hacc]
  · exact absurd htlb (by simp)

/-- Every check passes for an access that reaches its home, and nothing changes. -/
theorem checked_reaches {s : State} {va : Word} {n : Nat} {kind : Kind} {a : Access} (h : s.reaches va n kind a = true) :
    checked va n kind true s = .ok (a, s) := by
  unfold State.reaches at h
  simp only [Bool.and_eq_true, Option.isNone_iff_eq_none] at h
  obtain ⟨hm, hpeg⟩ := h
  have ht := translate_maps hm
  unfold State.maps at hm
  simp only [Bool.and_eq_true, beq_iff_eq, decide_eq_true_eq, Bool.not_eq_true'] at hm
  obtain ⟨⟨⟨⟨⟨⟨hal, -⟩, -⟩, hctl⟩, href⟩, hgone⟩, hplace⟩ := hm
  have hc : checkControl a va n kind s = .ok ((), s) := by
    unfold checkControl
    rw [hctl]
    rfl
  have hp : checkPegs va.toNat n kind s = .ok ((), s) := by
    unfold checkPegs
    have hctx : myCtx s = .ok (s.ctxOf s.self.launch, s) := rfl
    rw [M_bind_ok (myCore_run s), M_bind_ok hctx, hpeg]
    rfl
  have hr : checkRefused a false true s = .ok ((), s) := by
    unfold checkRefused
    rw [M_bind_ok (get_run s)]
    cases hpl : a.place <;> simp_all
  unfold checked
  rw [if_neg (not_not.mpr hal), M_bind_ok ht]
  dsimp only
  rw [M_bind_ok hc]
  simp only [if_true]
  rw [M_bind_ok hp, M_bind_ok hr]
  rfl

end Sys2Proof.Machine
end

section
/-! SUPPORT. A load of the strand's own core that cannot have its bytes stops there. -/

namespace Sys2Proof.Machine

open Sys2Proof.Claims

/-! What comes before the read -/

/-- A destination that lands takes any bytes. -/
theorem writeDest_lands {s : State} {d : Dest} (bs : List Byte) (h : lands s d = true) (hf : ∀ n b, d = .f n b → n < 32) :
    ∃ t, writeDest d bs s = .ok ((), t) := by
  cases d with
  | none => exact ⟨s, rfl⟩
  | g n b signed =>
    have hp : s.port n = false := by simpa [lands] using h
    simp only [writeDest, writeG]
    split
    · exact ⟨s, rfl⟩
    · rw [M_bind_ok (isPort_run _ _), hp]
      exact ⟨_, rfl⟩
  | f n b =>
    have hn : (BitVec.ofNat 5 n).toNat = n := by
      rw [BitVec.toNat_ofNat]
      exact Nat.mod_eq_of_lt (hf n b rfl)
    have := writeF_plain (s := s) (n := BitVec.ofNat 5 n) (w64 (leNat bs)) h
    rw [hn] at this
    exact ⟨_, this⟩
  | v n => exact ⟨_, writeV_plain _ h⟩
  | element i size va a => simp [lands] at h

/-- Such a destination is tried with no effect. -/
theorem tryDest_lands {s : State} {d : Dest} (h : lands s d = true) (hf : ∀ n b, d = .f n b → n < 32) : tryDest d s = .ok ((), s) := by
  obtain ⟨t, ht⟩ := writeDest_lands (List.replicate 32 0) h hf
  unfold tryDest
  rw [M_bind_ok (get_run s), M_bind_ok ht]
  rfl

/-- An access at the strand's own core leaps nowhere. -/
theorem leapChosen_own {s : State} {a : Access} {hint : Nat} (h : a.place = .core s.cur.1) :
    ∃ t, leapChosen a hint s = .ok (none, t) ∧ OnlyCores s t := by
  have hd : leapDst a s.cur.1 = none := by simp [leapDst, h]
  have hs : ∃ t b, standing (leapDst a s.cur.1) s = .ok (b, t) ∧ OnlyCores s t := by
    unfold standing
    rw [M_bind_ok (me_run s), hd]
    cases s.self.going with
    | none => exact ⟨s, false, rfl, .refl s⟩
    | some p => exact ⟨s.unreserve s.cur.1 s.cur.2, false, rfl, onlyCores_unreserve ..⟩
  obtain ⟨t, b, ht, ho⟩ := hs
  refine ⟨t, ?_, ho⟩
  unfold leapChosen
  rw [M_bind_ok (get_run s), M_bind_ok ht, hd]
  rfl

/-- A body that runs to its end whatever the state, and changes nothing but cores. -/
def Runs {α : Type} (m : M α) : Prop := ∀ s, ∃ a t, m s = .ok (a, t) ∧ OnlyCores s t

theorem runs_pure {α : Type} (a : α) : Runs (pure a) := fun s => ⟨a, s, rfl, .refl s⟩

theorem runs_get : Runs get := fun s => ⟨s, s, rfl, .refl s⟩

theorem runs_me : Runs me := fun s => ⟨s.self, s, rfl, .refl s⟩

theorem runs_modMe (f : Strand → Strand) : Runs (modMe f) := fun _ => ⟨(), _, rfl, onlyCores_modStrand ..⟩

theorem runs_notePred (f : Core → Tab Nat) : Runs (modCore fun k => { k with pred := f k }) :=
  fun s => ⟨(), _, rfl, onlyCores_modCore s s.cur.1 fun _ => ⟨rfl, rfl, rfl⟩⟩

theorem Runs.bind {α β : Type} {m : M α} {f : α → M β} (hm : Runs m) (hf : ∀ a, Runs (f a)) : Runs (m >>= f) := by
  intro s
  obtain ⟨a, t, ht, hst⟩ := hm s
  obtain ⟨b, u, hu, htu⟩ := hf a t
  exact ⟨b, u, (M_bind_ok ht).trans hu, hst.trans htu⟩

theorem runs_predict (a : Access) : Runs (predict a) := by
  refine runs_get.bind fun s => runs_me.bind fun x => ?_
  dsimp only
  split
  · exact runs_modMe _
  · split
    case h_3 => split; exacts [runs_pure _, runs_modMe _]
    case h_4 => exact runs_pure _
    all_goals
      split
      · exact (runs_notePred _).bind fun _ => runs_modMe _
      · exact runs_modMe _

/-- No entry that leaves an access uncovered gives it a byte. -/
theorem fifoByte_uncovered {l : List FifoEntry} {pa n i : Nat} (h : l.all (fun e => !e.overlaps pa n) = true) (hi : i < n) :
    fifoByte l (pa + i) = none := by
  have hstep : ∀ (l : List FifoEntry), l.all (fun e => !e.overlaps pa n) = true → l.foldl (fun r e =>
      if e.timed.isNone && decide (e.acc.pa ≤ pa + i ∧ pa + i < e.acc.pa + e.data.length) then e.data[pa + i - e.acc.pa]? else r)
      (none : Option Byte) = none := by
    intro l
    induction l with
    | nil => exact fun _ => rfl
    | cons e l ih =>
      intro hl
      obtain ⟨he, hl⟩ : e.overlaps pa n = false ∧ _ := by simpa only [List.all_cons, Bool.and_eq_true, Bool.not_eq_true'] using hl
      have hno : ¬ (e.acc.pa ≤ pa + i ∧ pa + i < e.acc.pa + e.data.length) := by
        simp only [FifoEntry.overlaps, decide_eq_false_iff_not] at he
        omega
      rw [List.foldl_cons, decide_eq_false hno, Bool.and_false]
      exact ih hl
  exact hstep l h

/-! The read -/

/-- A load at the strand's own core whose home does not give its bytes takes MEM_UNCORRECTABLE with its sector. -/
theorem loadHere_stops {s : State} {a : Access} {n : Nat} (hp : a.place = .core s.cur.1) (hu : s.upToDate s.cur.1 = true)
    (hr : s.homeRead a.pa n = none) : loadHere a n s = .error (.trap causeMem (w64 (a.pa / 64 * 64))) := by
  unfold loadHere
  rw [M_bind_ok (get_run s), hp]
  simp only [if_true, applyDue_upToDate hu, hr]
  rfl

theorem loadTail_stops {s : State} {a : Access} {n hint : Nat} {d : Dest} (hn : 0 < n) (hd : lands s d = true)
    (hf : ∀ m b, d = .f m b → m < 32) (hp : a.place = .core s.cur.1) (hc : s.uncovered a.pa n = true) (hu : s.upToDate s.cur.1 = true)
    (hr : s.homeRead a.pa n = none) : loadTail a n d hint s = .error (.trap causeMem (w64 (a.pa / 64 * 64))) := by
  have hno : ∀ i ∈ List.range n, fifoByte s.self.fifo (a.pa + i) = none := fun i hi => fifoByte_uncovered hc (List.mem_range.mp hi)
  have hall : ((List.range n).map fun i => fifoByte s.self.fifo (a.pa + i)).all Option.isSome = false := by
    rw [List.all_eq_false]
    exact ⟨_, List.mem_map_of_mem (List.mem_range.mpr hn), by rw [hno 0 (List.mem_range.mpr hn)]; decide⟩
  have hany : ((List.range n).map fun i => fifoByte s.self.fifo (a.pa + i)).any Option.isSome = false := by
    rw [List.any_eq_false]
    intro x hx
    obtain ⟨i, hi, rfl⟩ := List.mem_map.mp hx
    simp [hno i hi]
  obtain ⟨t, ht, hst⟩ := leapChosen_own (hint := hint) hp
  obtain ⟨_, u, hu', htu⟩ := runs_predict a t
  have hsu := hst.trans htu
  have hload : loadHere a n u = .error (.trap causeMem (w64 (a.pa / 64 * 64))) :=
    loadHere_stops (by rw [hsu.cur]; exact hp) (by rw [hsu.cur, hsu.upToDate]; exact hu) (by rw [hsu.homeRead]; exact hr)
  unfold loadTail
  rw [M_bind_ok (me_run s), hall, hany]
  simp only [Bool.false_eq_true, if_false]
  rw [M_bind_ok (tryDest_lands hd hf), M_bind_ok ht]
  dsimp only
  rw [M_bind_ok hu', M_bind_error hload]

/-! The loading forms -/

/-- The address of a vector load. -/
theorem sext64_shift (i : BitVec 16) : sext64 i <<< 5 = BitVec.ofInt 64 (i.toInt * 32) := by
  have h32 : BitVec.twoPow 64 5 = BitVec.ofInt 64 32 := by decide
  rw [BitVec.shiftLeft_eq_mul_twoPow, h32, BitVec.ofInt_mul]
  rfl

/-- What a loading form is: a size that divides a sector, a destination that is a register, and a body that comes to its load with its state the
same. -/
def Loads (s : State) (i : Instr) (va : Word) (n : Nat) (d : Dest) : Prop :=
  n ∣ 64 ∧ 0 < n ∧ (∀ m b, d = .f m b → m < 32) ∧
    ∃ (body : M After) (hint : Nat) (t : State), exec i s = instr body s ∧ Same s t ∧ body s = load va n d hint t

theorem loads_loadG {s : State} {i : Instr} {n : Nat} {signed : Bool} {d a : BitVec 5} {imm : BitVec 16} {x : Word}
    (hi : exec i s = instr (loadG n signed d a imm) s) (hn : n ∣ 64) (h : s.readsG a x = true) :
    Loads s i (x + BitVec.ofInt 64 imm.toInt) n (.g d.toNat n signed) := by
  obtain ⟨t, ht, hs⟩ := readG_gives h
  exact ⟨hn, Nat.pos_of_dvd_of_pos hn (by decide), fun _ _ e => (by cases e), _, 0, t, hi, hs, M_bind_ok ht⟩

theorem loads_loadF {s : State} {i : Instr} {n : Nat} {d a : BitVec 5} {imm : BitVec 16} {x : Word}
    (hi : exec i s = instr (loadF n d a imm) s) (hn : n ∣ 64) (h : s.readsG a x = true) :
    Loads s i (x + BitVec.ofInt 64 imm.toInt) n (.f d.toNat n) := by
  obtain ⟨t, ht, hs⟩ := readG_gives h
  exact ⟨hn, Nat.pos_of_dvd_of_pos hn (by decide), fun _ _ e => (by cases e; exact d.isLt), _, 0, t, hi, hs, M_bind_ok ht⟩

theorem loads_vld {s : State} {d : BitVec 4} {a : BitVec 5} {imm : BitVec 16} {x : Word} (h : s.readsG a x = true) :
    Loads s (.vld d a imm) (x + BitVec.ofInt 64 (imm.toInt * 32)) 32 (.v d.toNat) := by
  obtain ⟨t, ht, hs⟩ := readG_gives h
  rw [← sext64_shift]
  exact ⟨by decide, by decide, fun _ _ e => (by cases e), _, 0, t, rfl, hs, M_bind_ok ht⟩

theorem loads_ldx {s : State} {d a b : BitVec 5} {h : BitVec 2} {n : BitVec 1} {sc : BitVec 2} {x y : Word} (ha : s.readsG a x = true)
    (hb : s.readsG b y = true) : Loads s (.ldx d a b h n sc) (x + y) (2 ^ sc.toNat) (.g d.toNat (2 ^ sc.toNat) (n == 0)) := by
  obtain ⟨t, ht, hs⟩ := two_reads (readsAt_readG ha) (readsAt_readG hb) s (.refl s)
  have hn : 2 ^ sc.toNat ∣ 64 := by
    revert sc
    decide
  exact ⟨hn, by positivity, fun _ _ e => (by cases e), _, h.toNat, t, rfl, hs, M_bind_ok ht⟩

/-- The loading forms are those of `loadForm`. -/
theorem loads_of_loadForm {s : State} {rg : BitVec 5 → Word} {i : Instr} {va : Word} {n : Nat} {d : Dest}
    (h : loadForm s rg i = some (true, va, n, d)) : Loads s i va n d := by
  unfold loadForm at h
  split at h <;> simp only [Option.some.injEq, Prod.mk.injEq, Bool.and_eq_true, reduceCtorEq] at h
  case h_8 => obtain ⟨hr, rfl, rfl, rfl⟩ := h; exact loads_vld hr
  case h_9 | h_10 => obtain ⟨hr, rfl, rfl, rfl⟩ := h; exact loads_loadF rfl (by decide) hr
  case h_11 => obtain ⟨⟨ha, hb⟩, rfl, rfl, rfl⟩ := h; exact loads_ldx ha hb
  all_goals
    obtain ⟨hr, rfl, rfl, rfl⟩ := h
    exact loads_loadG rfl (by decide) hr

end Sys2Proof.Machine
end

section
/-! THEOREM. UncorrectableReadsTrap (O26): where the home does not give the bytes, and how the trap counts it. -/

namespace Sys2Proof.Machine

open Sys2Proof.Claims

theorem Same.reaches {s t : State} (h : Same s t) (va : Word) (n : Nat) (kind : Kind) (a : Access) : t.reaches va n kind a = s.reaches va n kind a := by
  have hc := h.core
  obtain ⟨⟨cs, rfl⟩, -⟩ := h.onlyCores
  simp only [State.reaches, State.maps, State.tlbFind, State.self, State.selfCore, State.strand, hc]
  rfl

theorem Same.lands {s t : State} (h : Same s t) (d : Dest) : Claims.lands t d = Claims.lands s d := by
  cases d with
  | none => rfl
  | g n b signed => exact congrArg (!·) (h.port n)
  | f n b => simp only [Claims.lands, State.plainF, h.self]
  | v n => simp only [Claims.lands, State.plainV, h.self]
  | element i size va a => rfl

/-- A loading form that reaches its home there, and finds its bytes lost, stops. -/
theorem load_stops {s : State} {i : Instr} {va : Word} {n : Nat} {d : Dest} {a : Access} (hl : Loads s i va n d) (hd : lands s d = true)
    (hre : s.reaches va n .load a = true) (hp : a.place = .core s.cur.1) (hc : s.uncovered a.pa n = true) (hu : s.upToDate s.cur.1 = true)
    (hr : s.homeRead a.pa n = none) : exec i s = .next (s.stopped (.trap causeMem (w64 (a.pa / 64 * 64)))) := by
  obtain ⟨-, hn, hf, body, hint, t, hi, hs, hb⟩ := hl
  have ho := hs.onlyCores
  have hre' : t.reaches va n .load a = true := by rw [hs.reaches]; exact hre
  have hd' : lands t d = true := by rw [hs.lands]; exact hd
  have hstop : body s = .error (.trap causeMem (w64 (a.pa / 64 * 64))) := by
    rw [hb, load, M_bind_ok (checked_reaches hre')]
    exact loadTail_stops hn hd' hf (by rw [ho.cur]; exact hp) (by rw [State.uncovered, hs.self]; exact hc)
      (by rw [ho.cur, ho.upToDate]; exact hu) (by rw [ho.homeRead]; exact hr)
  rw [hi]
  exact instr_stop hstop rfl rfl

/-! The home without the bytes (R66, R101) -/

/-- The bytes of an aligned access lie in its sector. -/
theorem sector_of_aligned {pa n j : Nat} (hn : n ∣ 64) (ha : pa % n = 0) (hj : j < n) : (pa + j) / 64 = pa / 64 := by
  obtain ⟨k, hk⟩ := hn
  obtain ⟨m, rfl⟩ := Nat.dvd_of_mod_eq_zero ha
  have hpos : 0 < n := by omega
  rw [hk, ← Nat.div_div_eq_div_mul, ← Nat.div_div_eq_div_mul, Nat.mul_div_cancel_left _ hpos, Nat.mul_add_div hpos, Nat.div_eq_of_lt hj,
    Nat.add_zero]

theorem homeRead_badSector {s : State} {pa n j : Nat} (hj : j < n) (hs : (pa + j) / 64 = pa / 64) (hb : pa / 64 * 64 ∈ s.badSectors)
    (hm : s.masked (pa + j) = false) (hh : s.homeHolds (pa / 64) = false) (hc : s.mscHolds (pa / 64) = false) : s.homeRead pa n = none := by
  have hg : s.homeGet pa n = none := by
    unfold State.homeGet
    dsimp only
    rw [if_pos]
    rw [List.any_eq_true]
    exact ⟨pa + j, List.mem_map_of_mem (List.mem_range.mpr hj), by simp [hs, hb, hm, hh, hc]⟩
  unfold State.homeRead
  rw [hg, ite_self]

theorem homeRead_badWord {s : State} {pa n j : Nat} (hj : j < n) (hb : s.badWord none (pa + j) = true)
    (hd : (tget s.homeDirty (pa + j)).isSome = true ∨ inSpad (pa + j) = true) : s.homeRead pa n = none := by
  unfold State.homeRead
  rw [if_pos]
  rw [List.any_eq_true]
  exact ⟨j, List.mem_range.mpr hj, by simpa [State.lostHome, hb] using hd⟩

/-! The trap -/

/-- A change of a strand, as the strand of any core and slot. -/
theorem State.strand_modStrand_eq (s : State) (c l c' l' : Nat) (f : Strand → Strand) : (s.modStrand c l f).strand c' l' =
    if c' = c ∧ l' % 16 = l % 16 then f (s.strand c' l') else s.strand c' l' := by
  split
  · next h =>
    obtain ⟨rfl, hl⟩ := h
    have hsl (t : State) : t.strand c' l' = t.strand c' l := by simp [State.strand, vget_eq, hl]
    rw [hsl, State.strand_modStrand, hsl]
  · next h =>
    refine State.strand_modStrand_ne _ _ ?_
    by_contra hn
    exact h (by simpa using hn)

theorem tvec_modStrand {s : State} {c l : Nat} {f : Strand → Strand} (hf : ∀ x, (f x).tvec = x.tvec) (c' l' : Nat) :
    ((s.modStrand c l f).strand c' l').tvec = (s.strand c' l').tvec := by
  rw [State.strand_modStrand_eq]
  split
  · exact hf _
  · rfl

theorem tvec_modCore {s : State} {c : Nat} {f : Core → Core} (hf : ∀ k, (f k).slots = k.slots) (c' l' : Nat) :
    ((s.modCore c f).strand c' l').tvec = (s.strand c' l').tvec := by
  unfold State.strand
  by_cases h : c' = c
  · rw [h, State.core_modCore, hf]
  · rw [State.core_modCore_ne _ _ h]

/-- What a strand gives back when its instruction traps is not its s.tvec. -/
theorem tvec_unpop (s : State) (c l c' l' : Nat) : ((s.unpop c l).strand c' l').tvec = (s.strand c' l').tvec := by
  unfold State.unpop
  dsimp only
  split
  · exact tvec_modStrand (by intros; rfl) c' l'
  · refine (tvec_modCore (by intros; rfl) c' l').trans ?_
    exact tvec_modStrand (by intros; rfl) c' l'

theorem tvec_unreserve (s : State) (c l c' l' : Nat) : ((s.unreserve c l).strand c' l').tvec = (s.strand c' l').tvec := by
  unfold State.unreserve
  split
  · rfl
  · refine (tvec_modStrand (by intro x; split <;> rfl) c' l').trans ?_
    exact tvec_modStrand (by intros; rfl) c' l'

theorem tvec_ite {p : Prop} [Decidable p] {s t u : State} {c l : Nat} (ht : (t.strand c l).tvec = (s.strand c l).tvec)
    (hu : (u.strand c l).tvec = (s.strand c l).tvec) : ((if p then t else u).strand c l).tvec = (s.strand c l).tvec := by
  split
  · exact ht
  · exact hu

theorem tvec_letGo (s : State) (c l c' l' : Nat) : ((s.letGo c l).strand c' l').tvec = (s.strand c' l').tvec :=
  have h : (((if ((s.core c).pipeOf l).isSome then s.unpop c l else s).unreserve c l).strand c' l').tvec = (s.strand c' l').tvec :=
    (tvec_unreserve ..).trans (tvec_ite (tvec_unpop ..) rfl)
  tvec_ite ((tvec_modCore (f := (·.leaveK l)) (fun _ => rfl) ..).trans h) h

/-- Counting an uncorrectable error writes dies and channels alone. -/
theorem countUe_writes (s : State) (pa : Nat) : ∃ ds hs, s.countUe pa = { s with dies := ds, chans := hs } := by
  unfold State.countUe
  dsimp only
  split
  · exact ⟨_, _, rfl⟩
  · split
    · exact ⟨_, _, rfl⟩
    · unfold State.countSector
      split
      · exact ⟨_, _, rfl⟩
      · split
        · exact ⟨_, _, rfl⟩
        · exact ⟨_, _, rfl⟩

@[simp] theorem countUe_cur (s : State) (pa : Nat) : (s.countUe pa).cur = s.cur := by
  obtain ⟨ds, hs, h⟩ := countUe_writes s pa
  rw [h]

@[simp] theorem countUe_core (s : State) (pa c : Nat) : (s.countUe pa).core c = s.core c := by
  obtain ⟨ds, hs, h⟩ := countUe_writes s pa
  rw [h]
  rfl

@[simp] theorem countUe_strand (s : State) (pa c l : Nat) : (s.countUe pa).strand c l = s.strand c l := by
  rw [State.strand, countUe_core]
  rfl

theorem sameBytes_countUe (s : State) (pa : Nat) : sameBytes s (s.countUe pa) := by
  obtain ⟨ds, hs, h⟩ := countUe_writes s pa
  rw [h]
  exact fun _ => rfl

theorem homeByte_modStrand (s : State) (c l : Nat) (f : Strand → Strand) (a : Nat) : (s.modStrand c l f).homeByte a = s.homeByte a := rfl

/-- It does not look at cores. -/
theorem countUe_cores (s : State) (cs : Tab Core) (pa : Nat) :
    ({ s with cores := cs } : State).countUe pa = { s.countUe pa with cores := cs } := by
  unfold State.countUe
  dsimp only
  have hw (h : Option Nat) : ({ s with cores := cs } : State).badWordIn h pa = s.badWordIn h pa := rfl
  rw [hw, hw]
  split
  · rfl
  · split
    · rfl
    · unfold State.countSector
      split
      · rfl
      · split
        · rfl
        · rfl

theorem OnlyCores.countUe {s t : State} (h : OnlyCores s t) (pa : Nat) :
    (t.countUe pa).dies = (s.countUe pa).dies ∧ (t.countUe pa).chans = (s.countUe pa).chans := by
  obtain ⟨⟨cs, rfl⟩, -⟩ := h
  rw [countUe_cores]
  exact ⟨rfl, rfl⟩

theorem OnlyCores.sameBytes {s t : State} (h : OnlyCores s t) : sameBytes s t := by
  obtain ⟨⟨cs, rfl⟩, -⟩ := h
  exact fun _ => rfl

/-- A strand at its handler. -/
def Strand.atHandler (cause : BitVec 8) (info : Word) (x : Strand) : Strand :=
  { x with
    epc := x.pc, cause := zext64 cause, einfo := info, bm := true, pc := x.tvec, st := .ready, hold := none, acq := []
    hpm := vset x.hpm 4 (vget x.hpm 4 + 1) }

/-- A trap entry with a handler there (R396). -/
theorem trapEntry_of_tvec {s : State} {c l : Nat} {cause : BitVec 8} {info : Word} (h : (s.strand c l).tvec ≠ 0) :
    s.trapEntry c l cause info = s.modStrand c l (Strand.atHandler cause info) := if_neg h

/-- A state that differs from another in its performing strand, there without a stream's failure, and is at its handler then. -/
theorem atHandler_stands {g u : State} {cause : BitVec 8} {info : Word} (hcur : u.cur = g.cur) (hself : u.self = g.self.unfail)
    (hs : sameOthers g u) (hc : ∀ c, c ≠ g.cur.1 → u.core c = g.core c) :
    (u.modStrand g.cur.1 g.cur.2 (Strand.atHandler cause info)).self = g.self.trapped cause info ∧
      othersStand g (u.modStrand g.cur.1 g.cur.2 (Strand.atHandler cause info)) := by
  have hu : u.strand g.cur.1 g.cur.2 = g.self.unfail := by rw [← hself, State.self, hcur]
  refine ⟨?_, hcur, fun c l h => ?_, fun c h => ?_⟩
  · rw [State.self, State.modStrand_cur, hcur, State.strand_modStrand, hu]
    rfl
  · rw [State.strand_modStrand_ne _ _ h, hs c l h]
  · rw [State.core_modStrand_ne _ _ _ h, hc c h]

/-- What is given back, and the streams' failures with it, before the error is counted. -/
def State.unfailed (s : State) : State := s.given.modStrand s.cur.1 s.cur.2 Strand.unfail

theorem onlyCores_given (s : State) : OnlyCores s s.given := onlyCores_letGo ..

theorem onlyCores_unfailed (s : State) : OnlyCores s s.unfailed := (onlyCores_given s).trans (onlyCores_modStrand ..)

theorem tvec_unfailed (s : State) : (s.unfailed.strand s.cur.1 s.cur.2).tvec = s.self.tvec :=
  (tvec_modStrand (f := Strand.unfail) (fun _ => rfl) ..).trans (tvec_letGo ..)

theorem stopped_causeMem (s : State) (info : Word) : s.stopped (.trap causeMem info) =
    (s.unfailed.countUe info.toNat).trapEntry s.cur.1 s.cur.2 causeMem info := rfl

/-- A trap for an uncorrectable error, with a handler: the strand at its handler, every other as before, no byte changed, and the error counted. -/
theorem stopped_mem {s : State} {info : Word} (ht : s.self.tvec ≠ 0) : ∃ t, s.stopped (.trap causeMem info) = t ∧
    (t.self = s.given.self.trapped 0x0E info ∧ othersStand s.given t ∧ sameBytes s t) ∧
    t.dies = (s.countUe info.toNat).dies ∧ t.chans = (s.countUe info.toNat).chans := by
  have hcur : s.given.cur = s.cur := (onlyCores_given s).cur
  have hself : s.unfailed.self = s.given.self.unfail := by
    rw [State.self, (onlyCores_unfailed s).cur, State.self, hcur]
    exact State.strand_modStrand ..
  have htvec : ((s.unfailed.countUe info.toNat).strand s.cur.1 s.cur.2).tvec ≠ 0 := by
    rw [countUe_strand, tvec_unfailed]
    exact ht
  obtain ⟨hdies, hchans⟩ := (onlyCores_unfailed s).countUe info.toNat
  obtain ⟨hat, hothers⟩ := atHandler_stands (cause := causeMem) (info := info) (g := s.given) (u := s.unfailed.countUe info.toNat)
    (by rw [countUe_cur, (onlyCores_unfailed s).cur, hcur]) (by rw [State.self, countUe_cur, countUe_strand]; exact hself)
    (fun c l h => by rw [countUe_strand]; rw [hcur] at h; exact State.strand_modStrand_ne _ _ h)
    (fun c h => by rw [countUe_core]; rw [hcur] at h; exact State.core_modStrand_ne _ _ _ h)
  rw [hcur] at hat hothers
  refine ⟨_, (stopped_causeMem s info).trans (trapEntry_of_tvec htvec), ⟨hat, hothers, fun a => ?_⟩, ?_, ?_⟩
  · rw [homeByte_modStrand, sameBytes_countUe, (onlyCores_unfailed s).sameBytes]
  · rw [State.modStrand_dies, hdies]
  · rw [State.modStrand_chans, hchans]

/-! What is counted: a sector lies where each of its bytes does -/

theorem localOf_sector (pa : Nat) : localOf (pa / 64 * 64) = localOf pa / 64 * 64 := by
  unfold localOf
  omega

theorem devOf_sector (pa : Nat) : devOf (pa / 64 * 64) = devOf pa := by
  unfold devOf
  omega

/-- Bits above the sector's own six are those of its address. -/
theorem bits_sector {lo : Nat} (x hi : Nat) (h : 6 ≤ lo) : bits (x / 64 * 64) hi lo = bits x hi lo := by
  obtain ⟨k, rfl⟩ := Nat.exists_eq_add_of_le h
  unfold bits
  rw [Nat.pow_add, ← Nat.div_div_eq_div_mul, ← Nat.div_div_eq_div_mul, show 2 ^ 6 = 64 from rfl, Nat.mul_div_cancel _ (by decide)]

theorem regionOf_dram_sector {a d o : Nat} (h : regionOf a = .dram d o) : regionOf (a / 64 * 64) = .dram d (o / 64 * 64) := by
  have hi : a < 0x00C000000000 ∧ a / 0x3000000000 = d ∧ a % 0x3000000000 = o := by
    unfold regionOf at h
    split_ifs at h
    simp_all
  obtain ⟨hlt, rfl, rfl⟩ := hi
  have hd : a / 64 * 64 / 0x3000000000 = a / 0x3000000000 := by omega
  have ho : a / 64 * 64 % 0x3000000000 = a % 0x3000000000 / 64 * 64 := by omega
  unfold regionOf
  rw [if_pos (by omega), hd, ho]

theorem regionOf_spad_sector {a c o : Nat} (h : regionOf a = .spad c o) : regionOf (a / 64 * 64) = .spad c (o / 64 * 64) := by
  have hi : (0x100000000000 ≤ a ∧ a < 0x100080000000) ∧ (a - 0x100000000000) / 2 ^ 20 = c ∧ a % 2 ^ 20 = o := by
    unfold regionOf at h
    split_ifs at h
    simp_all
  obtain ⟨⟨hle, hlt⟩, rfl, rfl⟩ := hi
  have hc : (a / 64 * 64 - 0x100000000000) / 2 ^ 20 = (a - 0x100000000000) / 2 ^ 20 := by omega
  have ho : a / 64 * 64 % 2 ^ 20 = a % 2 ^ 20 / 64 * 64 := by omega
  unfold regionOf
  rw [if_neg (by omega), if_neg (by omega), if_pos (by omega), hc, ho]

theorem regionOf_cxl_sector {a o : Nat} (h : regionOf a = .cxl o) : regionOf (a / 64 * 64) = .cxl (o / 64 * 64) := by
  have hi : 0x300000000000 ≤ a ∧ a - 0x300000000000 = o := by
    unfold regionOf at h
    split_ifs at h
    simp_all
  obtain ⟨hle, rfl⟩ := hi
  have ho : a / 64 * 64 - 0x300000000000 = (a - 0x300000000000) / 64 * 64 := by omega
  unfold regionOf
  rw [if_neg (by omega), if_neg (by omega), if_neg (by omega), if_neg (by omega), if_neg (by omega), if_neg (by omega), if_neg (by omega),
    if_neg (by omega), ho]

theorem dramHome_sector (d a : Nat) : dramHome d (a / 64 * 64) = dramHome d a := by
  simp [dramHome, bits_sector]

theorem cxlHome_sector (o : Nat) : cxlHome (o / 64 * 64) = cxlHome o := by
  simp [cxlHome, bits_sector]

/-- A sector has its bytes' home. -/
theorem homeDie_sector {s : State} {pa d : Nat} (h : s.homeDie pa = some d) : s.homeDie (pa / 64 * 64) = some d := by
  unfold State.homeDie State.placeOf at h ⊢
  rw [devOf_sector, localOf_sector]
  by_cases hdev : devOf pa ≠ s.devid.toNat
  · simp [hdev] at h
  rw [if_neg hdev] at h ⊢
  cases hr : regionOf (localOf pa) with
  | dram e o => rw [regionOf_dram_sector hr]; simpa [hr, dramHome_sector] using h
  | spad c o => rw [regionOf_spad_sector hr]; simpa [hr] using h
  | cxl o => rw [regionOf_cxl_sector hr]; simpa [hr, cxlHome_sector] using h
  | _ => simp [hr] at h

/-- An uncorrectable sector that no cache on its way holds bad is counted in its channel, or in the die of its scratchpad. -/
theorem countUe_sector {s : State} {pa : Nat} (hw : ∀ w ∈ s.badWords, w.2 / 8 ≠ pa / 64) :
    (∀ h, chanOf pa = some h → (s.countUe (pa / 64 * 64)).chan h =
      { s.chan h with ue := (s.chan h).ue + 1, ueAddr := BitVec.ofNat 64 (pa / 64 * 64) }) ∧
    ∀ c o, regionOf (localOf pa) = .spad c o → ((s.countUe (pa / 64 * 64)).die (dieOf c)).srue = (s.die (dieOf c)).srue + 1 := by
  have hq : pa / 64 * 64 / 64 = pa / 64 := Nat.mul_div_cancel _ (by decide)
  have hno (h : Option Nat) : s.badWordIn h (pa / 64 * 64) = false := by
    rw [State.badWordIn, List.any_eq_false]
    intro w hm
    simp [hq, hw w hm]
  have hcount : s.countUe (pa / 64 * 64) = s.countSector (pa / 64 * 64) := by
    unfold State.countUe
    simp [hno]
  rw [hcount]
  refine ⟨fun h hc => ?_, fun c o hr => ?_⟩
  · have hc' : chanOf (pa / 64 * 64) = some h := by
      unfold chanOf at hc ⊢
      rw [localOf_sector]
      cases hr : regionOf (localOf pa) with
      | dram e o => rw [regionOf_dram_sector hr]; simpa [hr, bits_sector] using hc
      | _ => simp [hr] at hc
    rw [countSector_of hc' (by rw [hq]), State.chan_modChan]
  · have hr' : regionOf (localOf (pa / 64 * 64)) = .spad c (o / 64 * 64) := by rw [localOf_sector, regionOf_spad_sector hr]
    have hs : s.countSector (pa / 64 * 64) = s.modDie (dieOf c) fun d => { d with srue := d.srue + 1 } := by
      simp [State.countSector, chanOf, hr']
    rw [hs, State.die_modDie]

/-- A bad word of the home is counted in the die that is the home's, and the strand's. -/
theorem countUe_word {s : State} {pa j : Nat} (hj : (pa + j) / 64 = pa / 64) (hb : s.badWord none (pa + j) = true)
    (hd : s.homeDie pa = some (dieOf s.cur.1)) :
    ((s.countUe (pa / 64 * 64)).die (dieOf s.cur.1)).srue = (s.die (dieOf s.cur.1)).srue + 1 := by
  have hin : s.badWordIn none (pa / 64 * 64) = true := by
    rw [State.badWord, List.contains_iff_mem] at hb
    rw [State.badWordIn, List.any_eq_true]
    refine ⟨_, hb, ?_⟩
    simp only [beq_self_eq_true, Bool.true_and, beq_iff_eq]
    omega
  have hcount : s.countUe (pa / 64 * 64) = s.countCache (dieOf s.cur.1) := by
    unfold State.countUe
    simp [hin, homeDie_sector hd]
  rw [hcount, State.countCache, State.die_modDie]

/-- Settles O26: the load stops at a home that does not give its bytes, and its trap counts the sector or the bad word. -/
theorem uncorrectableReadsTrap : Obligations.UncorrectableReadsTrap := by
  unfold Obligations.UncorrectableReadsTrap
  intro s rg i va n d a j hform hlands hreach hplace hpa hal hunc hup htvec hj info traps
  have hl := loads_of_loadForm hform
  have hsec : (a.pa + j) / 64 = a.pa / 64 := sector_of_aligned hl.1 hal hj
  have hinfo : (w64 (a.pa / 64 * 64)).toNat = a.pa / 64 * 64 := by
    rw [w64, BitVec.toNat_ofNat]
    exact Nat.mod_eq_of_lt (by omega)
  obtain ⟨t, hstop, htraps, hdies, hchans⟩ := stopped_mem (info := w64 (a.pa / 64 * 64)) htvec
  rw [hinfo] at hdies hchans
  have hdie (e : Nat) : t.die e = (s.countUe (a.pa / 64 * 64)).die e := congrArg (fun ds => vget ds e) hdies
  have hchan (h : Nat) : t.chan h = (s.countUe (a.pa / 64 * 64)).chan h := by rw [State.chan, hchans, State.chan]
  refine ⟨fun hbad hmask hhome hmsc hw => ?_, fun hbad hdirty hdie' => ?_⟩
  · have hnone := homeRead_badSector hj hsec hbad hmask hhome hmsc
    obtain ⟨hc, hsp⟩ := countUe_sector hw
    refine ⟨t, (load_stops hl hlands hreach hplace hunc hup hnone).trans (congrArg _ hstop), htraps, fun h hh => ?_, fun c o hr => ?_⟩
    · rw [hchan]
      exact hc h hh
    · rw [hdie]
      exact hsp c o hr
  · have hnone := homeRead_badWord hj hbad hdirty
    refine ⟨t, (load_stops hl hlands hreach hplace hunc hup hnone).trans (congrArg _ hstop), htraps, ?_⟩
    rw [hdie]
    exact countUe_word hsec hbad hdie'

end Sys2Proof.Machine
end

section
/-! SUPPORT. The state after reset: it is canonical, and every core, die, strand and queue reads its reset value. -/
namespace Sys2Proof.Machine

theorem vget_replicate {α : Type} {n : Nat} (x : α) (i : Nat) : vget (Vector.replicate (n + 1) x) i = x := by
  simp [vget_eq]

/-- What reset lists no entry for reads its reset value. -/
@[simp] theorem core_reset (c : Nat) : State.reset.core c = Core.reset := rfl
@[simp] theorem queue_reset (q : Nat) : State.reset.queue q = Queue.reset := rfl
@[simp] theorem strand_reset (c l : Nat) : State.reset.strand c l = Strand.reset := vget_replicate _ _
@[simp] theorem die_reset (d : Nat) : State.reset.die d = Die.reset := vget_replicate _ _

/-- Settles O8: the memories and the overlays of reset are empty tables. -/
theorem resetIsCanonical : Obligations.ResetIsCanonical := by
  unfold Obligations.ResetIsCanonical
  exact canonical_iff.mpr ⟨reset_mem_wf, rfl, rfl, rfl⟩

/-- Settles O9: every core, strand, die and queue reads its reset value, whose fields the definitions give. -/
theorem resetLeavesWhatTheSpecSays : Obligations.ResetLeavesWhatTheSpecSays := by
  unfold Obligations.ResetLeavesWhatTheSpecSays
  refine ⟨fun a => rfl, fun c => ?core, fun d => ?die, fun q => ?queue, rfl⟩
  case core =>
    simp only [core_reset, strand_reset]
    exact ⟨rfl, rfl, rfl, vget_replicate _, vget_replicate _, vget_replicate _, fun _ => ⟨rfl, rfl⟩⟩
  case die =>
    rw [die_reset]
    exact ⟨rfl, rfl, rfl, rfl, rfl, rfl, rfl⟩
  case queue =>
    rw [queue_reset]
    rfl
end Sys2Proof.Machine
end

section
/-! SUPPORT. Releases and acquires (R119, R120): a release that finds everything done changes nothing, and an acquire changes its strand and
what its die's caches hold clean. -/

namespace Sys2Proof.Machine

open Sys2Proof.Claims

/-! The performing strand replaced -/

theorem State.become_eq_modStrand (s : State) (f : Strand → Strand) : s.modStrand s.cur.1 s.cur.2 f = s.become (f s.self) := rfl

theorem othersStand_become (s : State) (x : Strand) : othersStand s (s.become x) :=
  ⟨rfl, fun _ _ h => State.strand_setStrand_ne _ _ h, fun _ h => State.core_modCore_ne _ _ h⟩

theorem sameBytes_become (s : State) (x : Strand) : sameBytes s (s.become x) := fun _ => rfl

/-! Releases (R119) -/

/-- A core that is not listed has nothing due. -/
theorem upToDate_of_unlisted {s : State} {c : Nat} (h : tget s.cores c = none) : s.upToDate c = true := by
  have hc : s.core c = Core.reset := by simp [State.core, h]
  simp [State.upToDate, State.current, State.calOf, hc, Core.reset]

theorem mem_of_tget {α : Type} {t : Tab α} {n : Nat} {x : α} (h : tget t n = some x) : (n, x) ∈ t := by
  induction t with
  | nil => cases h
  | cons p t ih =>
    obtain ⟨k, v⟩ := p
    simp only [tget] at h
    split at h
    · next hk => cases h; simp [hk]
    · split at h
      · cases h
      · exact List.mem_cons_of_mem _ (ih h)

/-- Where every listed core is up to date, every core is. -/
theorem upToDate_of_all {s : State} (h : s.cores.all (fun k => s.upToDate k.1) = true) (c : Nat) : s.upToDate c = true := by
  cases hc : tget s.cores c with
  | none => exact upToDate_of_unlisted hc
  | some k => exact List.all_eq_true.mp h _ (mem_of_tget hc)

theorem foldl_fixed {α β : Type} {f : α → β → α} {a : α} (l : List β) (h : ∀ b ∈ l, f a b = a) : l.foldl f a = a := by
  induction l with
  | nil => rfl
  | cons b l ih => rw [List.foldl_cons, h b (by simp), ih fun c hc => h c (List.mem_cons_of_mem _ hc)]

theorem settleAll_upToDate {s : State} (h : ∀ c, s.upToDate c = true) : s.settleAll = s :=
  foldl_fixed _ fun c _ => applyDue_upToDate (h c)

theorem flushCxl_clean {s : State} (h : ∀ c, s.upToDate c = true) (hd : s.homeDirty = []) (hm : s.mscDirty = []) : s.flushCxl = s := by
  unfold State.flushCxl
  simp only [settleAll_upToDate h, State.dirtyLines, hd, hm]
  rfl

theorem rdcRelease_unwritten {s : State} {d g : Nat} (h : (s.die d).rdc.all (fun p => !p.2.writers.getLsbD g) = true) :
    s.rdcRelease d g = s := by
  have hnil : (s.die d).rdc.filter (fun p => p.2.writers.getLsbD g) = [] := by
    rw [List.filter_eq_nil_iff]
    intro p hp
    simpa using List.all_eq_true.mp h p hp
  rw [State.rdcRelease, hnil]
  rfl

theorem Same.settled {s t : State} (h : Same s t) (scope : Nat) (hs : settled s scope) : (t.self.fifo = [] ∧ t.self.tbm = 0) ∧
    (3 ≤ scope → t.rdcRelease (dieOf t.cur.1) (groupOf t.cur.1) = t) ∧ (scope = 5 → t.flushCxl = t) := by
  obtain ⟨hf, ht, hr, hx⟩ := hs
  rw [h.self, h.cur]
  have ho := h.onlyCores
  refine ⟨⟨hf, ht⟩, fun h3 => rdcRelease_unwritten ?_, fun h5 => ?_⟩
  · obtain ⟨⟨cs, rfl⟩, -⟩ := ho
    exact hr h3
  · obtain ⟨hc, hd, hm⟩ := hx h5
    refine flushCxl_clean (fun c => (ho.upToDate c).trans (upToDate_of_all hc c)) ?_ ?_
    · obtain ⟨⟨cs, rfl⟩, -⟩ := ho; exact hd
    · obtain ⟨⟨cs, rfl⟩, -⟩ := ho; exact hm

/-- A release of a strand whose FIFO holds an entry stops. -/
theorem releaseOr_fifo {s : State} {stop : Stop} {scope : Nat} (h : s.self.fifo ≠ []) : releaseOr stop scope s = .error stop := by
  have he : s.self.fifo.isEmpty = false := by simpa using h
  unfold releaseOr
  rw [M_bind_ok (get_run s)]
  dsimp only
  rw [M_bind_ok (me_run s), he]
  rfl

/-- A release that finds everything done completes, and changes nothing. -/
theorem releaseOr_settled {s : State} {stop : Stop} {scope : Nat} (h : settled s scope) : ∃ t, releaseOr stop scope s = .ok ((), t) ∧ Same s t := by
  have hdone := h
  obtain ⟨hf, ht, -⟩ := h
  have hgs : (List.range 64).filter (fun g => covers scope (groupOf s.cur.1) g && s.self.tbm.getLsbD g) = [] := by
    rw [List.filter_eq_nil_iff]
    simp [ht]
  have hsame : Same s (s.modStrand s.cur.1 s.cur.2 id) := .inr rfl
  obtain ⟨-, hr, hx⟩ := hsame.settled scope hdone
  refine ⟨_, ?_, hsame⟩
  unfold releaseOr
  rw [M_bind_ok (get_run s)]
  dsimp only
  rw [M_bind_ok (me_run s), hf]
  simp only [List.isEmpty_nil, Bool.not_true, Bool.false_eq_true, if_false, hgs, List.all_nil, List.foldl_nil]
  have hmod (u : State) (f : State → State) (hu : f u = u) : (modify f : M Unit) u = .ok ((), u) := by rw [modify_run, hu]
  refine (M_bind_ok (modMe_run _ _)).trans ?_
  by_cases h3 : 3 ≤ scope
  · rw [if_pos h3]
    refine (M_bind_ok (hmod _ _ (hr h3))).trans ?_
    split
    · next h5 => exact hmod _ _ (hx h5)
    · rfl
  · rw [if_neg h3, if_neg (by omega)]
    rfl

/-! Acquires (R120, R247) -/

theorem acquireAt_effects (s : State) (c l scope : Nat) : ∃ u, s.acquireAt c l scope = u.modStrand c l Strand.discard ∧ u.cores = s.cores ∧
    u.cur = s.cur ∧ sameBytes s u ∧ (3 ≤ scope → flashed u (dieOf c)) := by
  have hx (t : State) : t.flashCxl.cores = t.cores ∧ t.flashCxl.cur = t.cur ∧ t.flashCxl.dies = t.dies ∧ sameBytes t t.flashCxl :=
    ⟨rfl, rfl, rfl, fun _ => rfl⟩
  have hf : flashed (s.rdcFlash (dieOf c)) (dieOf c) := by
    intro p hp hros
    rw [State.rdcFlash, State.die_modDie] at hp
    obtain ⟨q, -, rfl⟩ := List.mem_map.mp hp
    by_cases h : q.2.ros = true
    · rw [if_pos h, h] at hros
      cases hros
    · rw [if_neg h]
  unfold State.acquireAt
  dsimp only
  refine ⟨_, rfl, ?_⟩
  by_cases h3 : 3 ≤ scope
  · rw [if_pos h3]
    split
    · exact ⟨rfl, rfl, fun _ => rfl, fun _ => hf⟩
    · exact ⟨rfl, rfl, fun _ => rfl, fun _ => hf⟩
  · rw [if_neg h3, if_neg (by omega)]
    exact ⟨rfl, rfl, fun _ => rfl, fun h => absurd h h3⟩

theorem acquire_run (s : State) (scope : Nat) : acquire scope s = .ok ((), s.acquireAt s.cur.1 s.cur.2 scope) := rfl

/-- A strand that acquires and goes on. -/
theorem acquireAt_retireNext (s : State) (scope : Nat) : ∃ t, (s.acquireAt s.cur.1 s.cur.2 scope).retireNext s.cur.1 s.cur.2 = t ∧
    t.self = s.self.discard.went ∧ othersStand s t ∧ sameBytes s t ∧ (3 ≤ scope → flashed t (dieOf s.cur.1)) := by
  obtain ⟨u, hu, hcores, hcur, hbytes, hflash⟩ := acquireAt_effects s s.cur.1 s.cur.2 scope
  have hcore (c : Nat) : u.core c = s.core c := by rw [State.core, hcores, State.core]
  have hstrand (c l : Nat) : u.strand c l = s.strand c l := by rw [State.strand, hcore, State.strand]
  rw [hu, State.retireNext, State.modStrand_modStrand]
  refine ⟨_, rfl, ?_, ⟨hcur, fun c l h => ?_, fun c h => ?_⟩, hbytes, hflash⟩
  · rw [State.self, State.modStrand_cur, hcur, State.strand_modStrand, hstrand]
    rfl
  · rw [State.strand_modStrand_ne _ _ h, hstrand]
  · rw [State.core_modStrand_ne _ _ _ h, hcore]

end Sys2Proof.Machine
end

section
/-! THEOREM. FencesOrderAccesses (O29): REL, ACQ and FENCE from what a release and an acquire do. -/

namespace Sys2Proof.Machine

open Sys2Proof.Claims

theorem exec_rel (sc : BitVec 3) (s : State) : exec (.rel sc) s = execRel sc s := rfl
theorem exec_acq (sc : BitVec 3) (s : State) : exec (.acq sc) s = execAcq sc s := rfl
theorem exec_fence (sc : BitVec 3) (s : State) : exec (.fence sc) s = execFence sc s := rfl

/-- Settles O29: a release stops at an entry of the FIFO or finds everything done and changes nothing; an acquire does what R120 says. -/
theorem fencesOrderAccesses : Obligations.FencesOrderAccesses := by
  unfold Obligations.FencesOrderAccesses
  intro s sc
  rw [exec_rel, exec_acq, exec_fence, execRel, execAcq, execFence]
  refine ⟨fun hf => ?waits, fun hs => ?rel, ?acq, fun hs => ?fence⟩
  case waits =>
    have hstop : release sc.toNat s = .error (.park (.release sc.toNat)) := releaseOr_fifo hf
    exact ⟨instr_stop (M_bind_error hstop) rfl rfl, instr_stop (M_bind_error hstop) rfl rfl⟩
  case rel =>
    obtain ⟨t, ht, hsame⟩ := releaseOr_settled (stop := .park (.release sc.toNat)) hs
    refine ⟨_, instr_next (M_bind_ok ht), ?_⟩
    rw [State.retireNext, ← hsame.cur, hsame.modStrand]
    exact ⟨State.self_become .., othersStand_become .., sameBytes_become _ _⟩
  case acq =>
    obtain ⟨t, ht, hall⟩ := acquireAt_retireNext s sc.toNat
    exact ⟨t, (instr_next (M_bind_ok (acquire_run ..))).trans (congrArg _ ht), hall⟩
  case fence =>
    obtain ⟨u, hu, hsame⟩ := releaseOr_settled (stop := .park (.release sc.toNat)) hs
    obtain ⟨t, ht, hself, hothers, hbytes, hflash⟩ := acquireAt_retireNext u sc.toNat
    rw [hsame.cur] at ht hflash
    have hrun : (do release sc.toNat; acquire sc.toNat; pure After.next : M After) s = .ok (.next, u.acquireAt s.cur.1 s.cur.2 sc.toNat) := by
      refine (M_bind_ok hu).trans ((M_bind_ok (acquire_run ..)).trans ?_)
      rw [hsame.cur]
      rfl
    refine ⟨t, (instr_next hrun).trans (congrArg _ ht), by rw [hself, hsame.self], ?_, fun a => ?_, hflash⟩
    · obtain ⟨hc, ho, hk⟩ := hothers
      rw [hsame.cur] at hc
      exact ⟨hc, fun c l h => by rw [ho c l (by rw [hsame.cur]; exact h), hsame.strand],
        fun c h => by rw [hk c (by rw [hsame.cur]; exact h), hsame.core]⟩
    · rw [hbytes a, hsame.onlyCores.sameBytes a]

end Sys2Proof.Machine
end

section
/-! SUPPORT. What a strand whose instruction traps gives back (R89, R217, R396) leaves of every strand and core, and the abort of a launch
(R399). -/

namespace Sys2Proof.Machine

/-! What is given back -/

/-- Two strands that differ at most in their slot's state, in a leap's reserved slot and in what their instruction has popped. -/
def Strand.SameContext (x y : Strand) : Prop := y = { x with st := y.st, going := y.going, popped := y.popped }

theorem Strand.SameContext.refl (x : Strand) : x.SameContext x := rfl

theorem Strand.SameContext.trans {x y z : Strand} (h : x.SameContext y) (h' : y.SameContext z) : x.SameContext z := by
  unfold Strand.SameContext at h h' ⊢
  rw [h', h]

/-- Every core runs the launch that it ran, and its strands have the contexts that they had. -/
def KeepsContexts (s t : State) : Prop :=
  ∀ c, (t.core c).launch = (s.core c).launch ∧ ∀ l, (s.strand c l).SameContext (t.strand c l)

theorem KeepsContexts.refl (s : State) : KeepsContexts s s := fun _ => ⟨rfl, fun _ => .refl _⟩

theorem KeepsContexts.trans {s t u : State} (h : KeepsContexts s t) (h' : KeepsContexts t u) : KeepsContexts s u :=
  fun c => ⟨(h' c).1.trans (h c).1, fun l => ((h c).2 l).trans ((h' c).2 l)⟩

theorem keepsContexts_modCore (s : State) (c : Nat) {f : Core → Core} (hf : ∀ k, (f k).launch = k.launch ∧ (f k).slots = k.slots) :
    KeepsContexts s (s.modCore c f) := by
  intro c'
  unfold State.strand
  by_cases h : c' = c
  · obtain ⟨hl, hs⟩ := hf (s.core c)
    rw [h, State.core_modCore, hl, hs]
    exact ⟨rfl, fun _ => .refl _⟩
  · rw [State.core_modCore_ne _ _ h]
    exact ⟨rfl, fun _ => .refl _⟩

theorem keepsContexts_modStrand (s : State) (c l : Nat) {f : Strand → Strand} (hf : ∀ x : Strand, x.SameContext (f x)) :
    KeepsContexts s (s.modStrand c l f) := by
  intro c'
  refine ⟨?_, fun l' => ?_⟩
  · by_cases h : c' = c
    · rw [h, State.core_modStrand]
    · rw [State.core_modStrand_ne _ _ _ h]
  · rw [State.strand_modStrand_eq]
    split
    · exact hf _
    · exact .refl _

theorem keepsContexts_unpop (s : State) (c l : Nat) : KeepsContexts s (s.unpop c l) := by
  have h : KeepsContexts s (s.modStrand c l fun x => { x with popped := [] }) := keepsContexts_modStrand _ _ _ fun _ => rfl
  unfold State.unpop
  dsimp only
  split
  · exact h
  · exact h.trans (keepsContexts_modCore _ _ fun _ => ⟨rfl, rfl⟩)

theorem keepsContexts_unreserve (s : State) (c l : Nat) : KeepsContexts s (s.unreserve c l) := by
  have hfree (z : Strand) : z.SameContext (if z.st == .reserved then { z with st := .free } else z) := by
    split
    · rfl
    · exact .refl z
  have hgo : ∀ x : Strand, x.SameContext { x with going := none } := fun _ => rfl
  unfold State.unreserve
  split
  · exact .refl s
  · exact (keepsContexts_modStrand _ _ _ hgo).trans (keepsContexts_modStrand _ _ _ hfree)

theorem keepsContexts_ite {p : Prop} [Decidable p] {s t u : State} (ht : KeepsContexts s t) (hu : KeepsContexts s u) :
    KeepsContexts s (if p then t else u) := by
  split
  · exact ht
  · exact hu

theorem keepsContexts_letGo (s : State) (c l : Nat) : KeepsContexts s (s.letGo c l) :=
  have h : KeepsContexts s ((if ((s.core c).pipeOf l).isSome then s.unpop c l else s).unreserve c l) :=
    (keepsContexts_ite (keepsContexts_unpop s c l) (.refl s)).trans (keepsContexts_unreserve _ c l)
  keepsContexts_ite (h.trans (keepsContexts_modCore (f := (·.leaveK l)) _ c fun _ => ⟨rfl, rfl⟩)) h

/-! A trap with a handler -/

/-- A trap of the performing strand, other than for an uncorrectable error: its entry with what it gives back. -/
theorem stopped_trap {s : State} {cause : BitVec 8} {info : Word} (hc : cause ≠ causeMem) :
    s.stopped (.trap cause info) = s.unfailed.trapEntry s.cur.1 s.cur.2 cause info := by
  simp only [State.stopped, if_neg hc, State.unfailed, State.given]

theorem Strand.trapped_eq (x : Strand) (cause : BitVec 8) (info : Word) : x.trapped cause info = Strand.atHandler cause info x.unfail := rfl

/-- With a handler there, the strand is at it (R396). -/
theorem stopped_trap_handled {s : State} {cause : BitVec 8} {info : Word} (hc : cause ≠ causeMem) (ht : s.self.tvec ≠ 0) :
    s.stopped (.trap cause info) = s.traps cause info := by
  have hcur : s.given.cur = s.cur := (onlyCores_given s).cur
  rw [stopped_trap hc, trapEntry_of_tvec (by rw [tvec_unfailed]; exact ht), State.unfailed, State.modStrand_modStrand, State.traps,
    State.become, State.self, hcur, State.modStrand_eq, Strand.trapped_eq]

/-! The abort of a launch (R399) -/

/-- Two states that differ in dies alone. -/
def OnlyDies (s t : State) : Prop := ∃ ds, t = { s with dies := ds }

theorem OnlyDies.refl (s : State) : OnlyDies s s := ⟨s.dies, rfl⟩

theorem OnlyDies.trans {s t u : State} (h : OnlyDies s t) (h' : OnlyDies t u) : OnlyDies s u := by
  obtain ⟨ds, rfl⟩ := h
  obtain ⟨es, rfl⟩ := h'
  exact ⟨es, rfl⟩

theorem onlyDies_foldl {β : Type} {f : State → β → State} (hf : ∀ t b, OnlyDies t (f t b)) (l : List β) (s : State) : OnlyDies s (l.foldl f s) :=
  foldl_keeps (P := OnlyDies s) (fun t b ht => ht.trans (hf t b)) l (.refl s)

theorem onlyDies_leaveFault (s : State) (c l : Nat) : OnlyDies s (s.leaveFault c l) := by
  unfold State.leaveFault
  dsimp only
  split
  · exact ⟨_, rfl⟩
  · exact ⟨_, rfl⟩
  · exact .refl s

/-- A change of every record of a table, its number kept. -/
theorem tget_map {α : Type} (f : α → α) (p : α → Bool) (t : Tab α) (n : Nat) :
    tget (t.map fun q => if p q.2 then (q.1, f q.2) else q) n = (tget t n).map fun x => if p x then f x else x := by
  induction t with
  | nil => rfl
  | cons q t ih =>
    obtain ⟨k, v⟩ := q
    have hk : (if p v then (k, f v) else (k, v)) = (k, if p v then f v else v) := by split <;> rfl
    simp only [List.map_cons, hk, tget]
    split
    · rfl
    · split
      · rfl
      · exact ih

theorem modLaunch_listed {s : State} {key : BitVec 24} {f : Launch → Launch} {q : Launch} (h : tget s.launches key.toNat = some q) :
    s.modLaunch key f = { s with launches := tset s.launches key.toNat (f q) } := by
  rw [State.modLaunch, h]

theorem abort_frees (k : Core) (l : Nat) : (vget k.abort.slots l).st = .free := by
  simp [Core.abort, vget_eq]

/-- A launch that is not aborted yet records the first abort, and no slot of its cores holds a strand. -/
theorem abortLaunch_records {s : State} {key : BitVec 24} {first : Word × Word × Word × Word} {q : Launch}
    (hq : tget s.launches key.toNat = some q) (ha : q.abort = none) :
    (∃ q', tget (s.abortLaunch key first).launches key.toNat = some q' ∧ q'.abort = some first) ∧
      ∀ c l, (s.core c).launch = some key → ((s.abortLaunch key first).strand c l).st = .free := by
  unfold State.abortLaunch
  dsimp only
  obtain ⟨u, hu⟩ := exists_name
    (((s.cores.filter fun p => p.2.launch == some key).map fun p => p.1).foldl (fun s c => s.dropReports c)
      (((s.cores.filter fun p => p.2.launch == some key).map fun p => p.1).foldl (fun s c => (List.range 16).foldl (fun s l => s.leaveFault c l) s) s))
  have ho : OnlyDies s u := by
    rw [← hu]
    exact (onlyDies_foldl (fun t c => onlyDies_foldl (fun t l => onlyDies_leaveFault t c l) _ t) _ s).trans
      (onlyDies_foldl (fun t c => ⟨_, rfl⟩) _ _)
  rw [hu]
  have hlaunch : tget u.launches key.toNat = some q := by
    obtain ⟨ds, hs⟩ := ho
    rw [hs]
    exact hq
  have hcores : u.cores = s.cores := by
    obtain ⟨ds, hs⟩ := ho
    rw [hs]
  rw [modLaunch_listed hlaunch]
  dsimp only
  refine ⟨⟨_, tget_tset_same _ _ _, by rw [ha]⟩, fun c l hc => ?_⟩
  have hlisted : ∃ k, tget s.cores c = some k ∧ k.launch = some key := by
    unfold State.core at hc
    cases hk : tget s.cores c with
    | none => rw [hk] at hc; cases hc
    | some k => rw [hk] at hc; exact ⟨k, rfl, hc⟩
  obtain ⟨k, hk, hrun⟩ := hlisted
  rw [State.strand, State.core]
  dsimp only
  rw [hcores, tget_map Core.abort (fun k => k.launch == some key), hk]
  simp only [Option.map_some, hrun, beq_self_eq_true, if_true, Option.getD_some]
  exact abort_frees k l

end Sys2Proof.Machine
end

section
/-! THEOREM. TrapsEnterAndReturn (O15): TRAP, BRK and ERET with a handler there, and the abort of a launch without one. -/

namespace Sys2Proof.Machine

theorem checkTarget_aligned {t : Word} (h : t.toNat % 4 = 0) (s : State) : checkTarget t s = .ok ((), s) := by
  rw [checkTarget, if_neg (by omega)]
  rfl

theorem checkTarget_misaligned {t : Word} (h : t.toNat % 4 ≠ 0) (s : State) : checkTarget t s = .error (.trap causeMisalign t) := by
  rw [checkTarget, if_pos h]
  rfl

/-- TRAP of a strand whose launch is not aborted yet, with no handler: the abort is recorded, and the launch's cores hold no strand. -/
theorem trap_aborts {s : State} {k : BitVec 10} {q : Launch} (htvec : s.self.tvec = 0)
    (hq : tget s.launches s.self.launch.toNat = some q) (ha : q.abort = none) : ∃ t, exec (.trap k) s = .next t ∧
      (∃ q', tget t.launches s.self.launch.toNat = some q' ∧
        q'.abort = some (0x13, s.self.pc, zext64 k, sidOf s.devid s.cur.1 s.cur.2 s.self.gen)) ∧
      ∀ c l, (s.core c).launch = some s.self.launch → (t.strand c l).st = .free := by
  have hctx : s.self.SameContext (s.given.strand s.cur.1 s.cur.2) := (keepsContexts_letGo s s.cur.1 s.cur.2 s.cur.1).2 s.cur.2
  have hx : s.unfailed.strand s.cur.1 s.cur.2 = (s.given.strand s.cur.1 s.cur.2).unfail := State.strand_modStrand ..
  obtain ⟨y, hy⟩ := exists_name (s.given.strand s.cur.1 s.cur.2)
  rw [hy] at hctx hx
  have hlaunch : y.unfail.launch = s.self.launch := by rw [hctx]; rfl
  have hdev : s.unfailed.devid = s.devid ∧ s.unfailed.launches = s.launches := by
    obtain ⟨⟨cs, h⟩, -⟩ := onlyCores_unfailed s
    rw [h]
    exact ⟨rfl, rfl⟩
  obtain ⟨hdevid, hlaunches⟩ := hdev
  have hentry : s.unfailed.trapEntry s.cur.1 s.cur.2 causeTrap (zext64 k) =
      (s.unfailed.modStrand s.cur.1 s.cur.2 (Strand.atHandler causeTrap (zext64 k))).abortLaunch s.self.launch
        (zext64 causeTrap, s.self.pc, zext64 k, sidOf s.devid s.cur.1 s.cur.2 s.self.gen) := by
    have hpc : y.unfail.pc = s.self.pc ∧ y.unfail.gen = s.self.gen ∧ y.unfail.tvec = 0 := by
      rw [hctx]
      exact ⟨rfl, rfl, htvec⟩
    obtain ⟨hpc, hgen, hzero⟩ := hpc
    unfold State.trapEntry
    dsimp only
    rw [hx, if_pos hzero, hlaunch, hpc, hgen, hdevid]
    rfl
  refine ⟨_, (instr_stop (trap_run ..) rfl rfl).trans (congrArg _ ((stopped_trap (by decide)).trans hentry)), ?_⟩
  obtain ⟨hrec, hfree⟩ := abortLaunch_records (s := s.unfailed.modStrand s.cur.1 s.cur.2 (Strand.atHandler causeTrap (zext64 k)))
    (first := (zext64 causeTrap, s.self.pc, zext64 k, sidOf s.devid s.cur.1 s.cur.2 s.self.gen))
    (by rw [State.modStrand_launches, hlaunches]; exact hq) ha
  have hkept : KeepsContexts s s.given := keepsContexts_letGo s s.cur.1 s.cur.2
  refine ⟨hrec, fun c l hc => hfree c l ?_⟩
  rw [State.unfailed, State.modStrand_modStrand, ← hc, ← (hkept c).1]
  by_cases h : c = s.cur.1
  · rw [h, State.core_modStrand]
  · rw [State.core_modStrand_ne _ _ _ h]

/-- The body of ERET. -/
def eretBody : M After := do
  let x ← me
  checkTarget x.epc
  modMe Strand.trapReturn
  pure (.jump x.epc)

theorem exec_eret_body (s : State) : exec .eret s = instr eretBody s := rfl

theorem eretBody_aligned {s : State} (h : s.self.epc.toNat % 4 = 0) :
    eretBody s = .ok (.jump s.self.epc, s.modStrand s.cur.1 s.cur.2 Strand.trapReturn) := by
  unfold eretBody
  rw [M_bind_ok (me_run s), M_bind_ok (checkTarget_aligned h s)]
  rfl

theorem eretBody_misaligned {s : State} (h : s.self.epc.toNat % 4 ≠ 0) : eretBody s = .error (.trap causeMisalign s.self.epc) := by
  unfold eretBody
  rw [M_bind_ok (me_run s), M_bind_error (checkTarget_misaligned h s)]

/-- Settles O15: a trap with a handler enters it, one without aborts the launch, and ERET goes to s.epc. -/
theorem trapsEnterAndReturn : Obligations.TrapsEnterAndReturn := by
  unfold Obligations.TrapsEnterAndReturn
  refine ⟨fun s k ht => ⟨?_, ?_⟩, fun s => ⟨fun ha => ?_, fun ha ht => ?_⟩, fun s k q htvec hq ha => trap_aborts htvec hq ha⟩
  · exact (instr_stop (trap_run ..) rfl rfl).trans (congrArg _ (stopped_trap_handled (by decide) ht))
  · exact (instr_stop (trap_run ..) rfl rfl).trans (congrArg _ (stopped_trap_handled (by decide) ht))
  · rw [exec_eret_body, instr_jump (eretBody_aligned ha), State.modStrand_modStrand]
    rfl
  · exact (instr_stop (eretBody_misaligned ha) rfl rfl).trans (congrArg _ (stopped_trap_handled (by decide) ht))

end Sys2Proof.Machine
end

section
/-! SUPPORT. What comes between the checks of a load or store and its access (R87, R88): the choice of a leap, and the record of the access,
which changes the strand's record and its core's predictor alone. -/

namespace Sys2Proof.Machine

open Sys2Proof.Claims

/-! Changes of the performing core's predictor and strand alone -/

theorem onlyMine_refl (s : State) : onlyMine s s := ⟨rfl, fun _ _ _ => rfl, fun _ _ => rfl, rfl⟩

theorem onlyMine_cur {s t : State} (h : onlyMine s t) : t.cur = s.cur := by
  rw [h.1]

theorem onlyMine_trans {s t u : State} (h : onlyMine s t) (h' : onlyMine t u) : onlyMine s u := by
  have hcur := onlyMine_cur h
  obtain ⟨ht, ho, hc, hk⟩ := h
  obtain ⟨hu, ho', hc', hk'⟩ := h'
  rw [hcur] at hc'
  refine ⟨?_, fun c l hl => ?_, fun c hn => (hc' c hn).trans (hc c hn), ?_⟩
  · rw [hu, ht]
  · exact (ho' c l (by rw [hcur]; exact hl)).trans (ho c l hl)
  · rw [hk', hk]

theorem onlyMine_become (s : State) (x : Strand) : onlyMine s (s.become x) := by
  obtain ⟨-, ho, hc⟩ := othersStand_become s x
  refine ⟨rfl, ho, hc, ?_⟩
  rw [State.selfCore, State.become, State.setStrand, State.modCore_cur, State.core_modCore]
  rfl

theorem onlyMine_modPred (s : State) (f : Core → Tab Nat) : onlyMine s (s.modCore s.cur.1 fun k => { k with pred := f k }) := by
  refine ⟨rfl, fun c l _ => ?_, fun c h => State.core_modCore_ne _ _ h, ?_⟩
  · unfold State.strand
    by_cases h : c = s.cur.1
    · rw [h, State.core_modCore]
    · rw [State.core_modCore_ne _ _ h]
  · rw [State.selfCore, State.modCore_cur, State.core_modCore]
    rfl

theorem onlyMine_onlyCores {s t : State} (h : onlyMine s t) : OnlyCores s t := by
  obtain ⟨ht, -, hc, hk⟩ := h
  have hcur : t.cur = s.cur := by rw [ht]
  refine ⟨⟨_, ht⟩, fun c => ?_⟩
  by_cases h : c = s.cur.1
  · rw [State.selfCore, State.selfCore, hcur] at hk
    rw [h, hk]
    exact ⟨rfl, rfl, rfl⟩
  · rw [hc c h]
    exact ⟨rfl, rfl, rfl⟩

theorem Same.onlyMine {s t : State} (h : Same s t) : onlyMine s t := by
  rcases h with rfl | rfl
  · exact onlyMine_refl _
  · exact onlyMine_become _ _

/-! The record of an access (R88) -/

/-- Beside its core's predictor, only the record of R88 of the performing strand differs. -/
def Noted (s t : State) : Prop := onlyMine s t ∧ t.self = { s.self with mrec := t.self.mrec, leapt := t.self.leapt }

theorem Noted.refl (s : State) : Noted s s := ⟨onlyMine_refl s, rfl⟩

theorem Noted.trans {s t u : State} (h : Noted s t) (h' : Noted t u) : Noted s u := by
  obtain ⟨hm, hx⟩ := h
  obtain ⟨hm', hx'⟩ := h'
  refine ⟨onlyMine_trans hm hm', ?_⟩
  rw [hx', hx]

theorem Same.noted {s t : State} (h : Same s t) : Noted s t := by
  refine ⟨h.onlyMine, ?_⟩
  rw [h.self]

theorem noted_modMe (s : State) {f : Strand → Strand} (hf : ∀ x, f x = { x with mrec := (f x).mrec, leapt := (f x).leapt }) :
    Noted s (s.modStrand s.cur.1 s.cur.2 f) := by
  refine ⟨onlyMine_become s _, ?_⟩
  rw [State.become_eq_modStrand, State.self_become]
  exact hf _

theorem noted_modPred (s : State) (f : Core → Tab Nat) : Noted s (s.modCore s.cur.1 fun k => { k with pred := f k }) := by
  refine ⟨onlyMine_modPred s f, ?_⟩
  have h : (s.modCore s.cur.1 fun k => { k with pred := f k }).self = s.self := by
    rw [State.self, State.modCore_cur, State.strand, State.core_modCore]
    rfl
  rw [h]

theorem Noted.onlyCores {s t : State} (h : Noted s t) : OnlyCores s t := onlyMine_onlyCores h.1

/-- A body that runs to its end whatever the state, and only notes an access. -/
def Notes (m : M Unit) : Prop := ∀ s, ∃ t, m s = .ok ((), t) ∧ Noted s t

theorem notes_pure : Notes (pure ()) := fun s => ⟨s, rfl, .refl s⟩

theorem notes_modMe {f : Strand → Strand} (hf : ∀ x, f x = { x with mrec := (f x).mrec, leapt := (f x).leapt }) : Notes (modMe f) :=
  fun s => ⟨_, rfl, noted_modMe s hf⟩

theorem notes_modPred (f : Core → Tab Nat) : Notes (modCore fun k => { k with pred := f k }) := fun s => ⟨_, rfl, noted_modPred s f⟩

theorem Notes.bind {m : M Unit} {f : Unit → M Unit} (hm : Notes m) (hf : ∀ a, Notes (f a)) : Notes (m >>= f) := by
  intro s
  obtain ⟨t, ht, hst⟩ := hm s
  obtain ⟨u, hu, htu⟩ := hf () t
  exact ⟨u, (M_bind_ok ht).trans hu, hst.trans htu⟩

theorem Notes.after {α : Type} {m : M α} {f : α → M Unit} (hm : ∀ s, ∃ a, m s = .ok (a, s)) (hf : ∀ a, Notes (f a)) : Notes (m >>= f) := by
  intro s
  obtain ⟨a, ha⟩ := hm s
  obtain ⟨t, ht, hst⟩ := hf a s
  exact ⟨t, (M_bind_ok ha).trans ht, hst⟩

theorem notes_predict (a : Access) : Notes (predict a) := by
  refine .after (fun s => ⟨s, rfl⟩) fun s => .after (fun s => ⟨s.self, rfl⟩) fun x => ?_
  dsimp only
  split
  · exact notes_modMe fun _ => rfl
  · split
    case h_3 => split; exacts [notes_pure, notes_modMe fun _ => rfl]
    case h_4 => exact notes_pure
    all_goals
      split
      · exact (notes_modPred _).bind fun _ => notes_modMe fun _ => rfl
      · exact notes_modMe fun _ => rfl

/-! The choice of a leap (R87, R89) -/

theorem standing_not_going {s : State} {y : Option Nat} (h : s.self.going = none) : standing y s = .ok (false, s) := by
  unfold standing
  rw [M_bind_ok (me_run s), h]
  rfl

theorem choose_stay {s : State} {hint : Nat} (h : s.self.mig.toNat % 4 = 1) : choose hint s = .ok (false, s) := by
  unfold choose
  rw [M_bind_ok (me_run s), M_bind_ok (myCore_run s)]
  rw [if_pos h]
  rfl

theorem choose_runs (hint : Nat) (s : State) : ∃ b, choose hint s = .ok (b, s) := by
  unfold choose
  rw [M_bind_ok (me_run s), M_bind_ok (myCore_run s)]
  split
  · exact ⟨_, rfl⟩
  split
  · exact ⟨_, rfl⟩
  split
  · exact ⟨_, rfl⟩
  split
  · exact ⟨_, rfl⟩
  · exact ⟨_, rfl⟩

/-- A strand that has not chosen a leap, and may not choose one, stays. -/
theorem leapChosen_none {s : State} {a : Access} {hint : Nat} (hg : s.self.going = none)
    (hstay : ∀ y, leapDst a s.cur.1 = some y → s.self.mig.toNat % 4 = 1 ∨ s.canLeap s.cur.1 s.cur.2 y = false) :
    leapChosen a hint s = .ok (none, s) := by
  unfold leapChosen
  rw [M_bind_ok (get_run s), M_bind_ok (standing_not_going hg)]
  cases hd : leapDst a s.cur.1 with
  | none => rfl
  | some y =>
    obtain ⟨b, hb⟩ := choose_runs hint s
    dsimp only
    rw [if_neg (by decide), M_bind_ok hb, M_bind_ok (get_run s)]
    rcases hstay y hd with hm | hl
    · rw [choose_stay hm] at hb
      cases hb
      rfl
    · rw [hl, Bool.and_false]
      rfl

end Sys2Proof.Machine
end

section
/-! THEOREM. StoresEnterTheirFifo (O23): the storing forms as bodies, and the tail of a FIFO. -/

namespace Sys2Proof.Machine

open Sys2Proof.Claims

theorem State.become_retireNext (s : State) (x : Strand) : (s.become x).retireNext s.cur.1 s.cur.2 = s.become x.went := by
  rw [State.retireNext, State.become, State.modStrand_eq, State.strand_setStrand, State.setStrand_setStrand]
  rfl

/-! The FIFO (R110) -/

/-- A strand with one more entry at the tail of its FIFO. -/
def Strand.enters (x : Strand) (e : FifoEntry) : Strand := { x with fifo := x.fifo ++ [e] }

/-- The entry that a checked store of the performing strand makes. -/
def State.entryOf (s : State) (va : Nat) (a : Access) (data : List Byte) (timed : Option Word) : FifoEntry :=
  ⟨va, s.ctxOf s.self.launch, a, data, timed, s.self.late.getLsbD 0, false, none⟩

theorem pushStore_room {s : State} {va : Nat} {a : Access} {data : List Byte} {timed : Option Word} (h : s.self.fifo.length < 8) :
    pushStore va a data timed s = .ok ((), s.become (s.self.enters (s.entryOf va a data timed))) := by
  have hctx : myCtx s = .ok (s.ctxOf s.self.launch, s) := rfl
  unfold pushStore
  rw [M_bind_ok (me_run s), M_bind_ok hctx, if_neg (by omega)]
  rfl

theorem pushStore_full {s : State} {va : Nat} {a : Access} {data : List Byte} {timed : Option Word} (h : 8 ≤ s.self.fifo.length) :
    pushStore va a data timed s = .error (.park .fifoFull) := by
  have hctx : myCtx s = .ok (s.ctxOf s.self.launch, s) := rfl
  unfold pushStore
  rw [M_bind_ok (me_run s), M_bind_ok hctx, if_pos h]
  rfl

theorem Noted.entryOf {s t : State} (h : Noted s t) (va : Nat) (a : Access) (data : List Byte) (timed : Option Word) :
    t.entryOf va a data timed = s.entryOf va a data timed := by
  obtain ⟨⟨hs, -⟩, hx⟩ := h
  unfold State.entryOf
  rw [hx, hs]
  rfl

theorem Noted.fifo {s t : State} (h : Noted s t) : t.self.fifo = s.self.fifo := by
  rw [h.2]

/-- After an access is noted, its store enters the FIFO and the strand goes on, or parks for want of room. -/
theorem pushStore_noted {s t : State} {body : M After} {va : Nat} {a : Access} {data : List Byte} {timed : Option Word} (h : Noted s t)
    (hb : body s = (do pushStore va a data timed; pure After.next : M After) t) :
    (s.self.fifo.length < 8 → ∃ u, instr body s = .next u ∧ onlyMine s u ∧ u.self = { s.self.went with
      fifo := s.self.fifo ++ [s.entryOf va a data timed], mrec := u.self.mrec, leapt := u.self.leapt }) ∧
    (8 ≤ s.self.fifo.length → instr body s = .next (s.become { s.self with st := .parked .fifoFull })) := by
  have hcur : t.cur = s.cur := onlyMine_cur h.1
  refine ⟨fun hr => ?_, fun hf => ?_⟩
  · have hpush := pushStore_room (va := va) (a := a) (data := data) (timed := timed) (h.fifo.symm ▸ hr)
    refine ⟨_, instr_next (hb.trans (M_bind_ok hpush)), ?_⟩
    rw [← hcur, State.become_retireNext, State.self_become, h.entryOf]
    refine ⟨onlyMine_trans h.1 (onlyMine_become ..), ?_⟩
    rw [h.2]
    rfl
  · have hpush := pushStore_full (va := va) (a := a) (data := data) (timed := timed) (h.fifo.symm ▸ hf)
    exact instr_stop (hb.trans (M_bind_error hpush)) rfl rfl

/-! The storing forms (R256 to R258, R260) -/

/-- What a storing form is: a body that comes to its store with its state the same. -/
def Stores (s : State) (i : Instr) (va : Word) (n x : Nat) : Prop :=
  ∃ (body : M After) (hint : Nat) (t : State), exec i s = instr body s ∧ Same s t ∧ body s = store va n x hint t

theorem stores_storeG {s : State} {i : Instr} {n : Nat} {b a : BitVec 5} {imm : BitVec 16} {x y : Word}
    (hi : exec i s = instr (storeG n b a imm) s) (ha : s.readsG a x = true) (hb : s.readsG b y = true) :
    Stores s i (x + BitVec.ofInt 64 imm.toInt) n y.toNat := by
  obtain ⟨t, ht, hs⟩ := two_reads (readsAt_readG ha) (readsAt_readG hb) s (.refl s)
  have hbody : storeG n b a imm s = store (x + sext64 imm) n y.toNat 0 t := by rw [storeG, M_bind_ok ht]
  exact ⟨_, 0, t, hi, hs, hbody⟩

theorem stores_storeF {s : State} {i : Instr} {n : Nat} {b a : BitVec 5} {imm : BitVec 16} {x y : Word}
    (hi : exec i s = instr (storeF n b a imm) s) (ha : s.readsG a x = true) (hb : s.readsF b y = true) :
    Stores s i (x + BitVec.ofInt 64 imm.toInt) n y.toNat := by
  obtain ⟨t, ht, hs⟩ := readG_gives ha
  obtain ⟨u, hu, hsu⟩ := readsAt_readF hb t hs
  have hbody : storeF n b a imm s = store (x + sext64 imm) n y.toNat 0 u := by rw [storeF, M_bind_ok ht, M_bind_ok hu]
  exact ⟨_, 0, u, hi, hsu, hbody⟩

theorem stores_vst {s : State} {b : BitVec 4} {a : BitVec 5} {imm : BitVec 16} {x : Word} {y : VWord} (ha : s.readsG a x = true)
    (hb : s.readsV b.toNat y = true) : Stores s (.vst b a imm) (x + BitVec.ofInt 64 (imm.toInt * 32)) 32 y.toNat := by
  obtain ⟨t, ht, hs⟩ := readG_gives ha
  obtain ⟨u, hu, hsu⟩ := readsAt_readV hb t hs
  rw [← sext64_shift]
  exact ⟨_, 0, u, rfl, hsu, (M_bind_ok ht).trans (M_bind_ok hu)⟩

theorem stores_stx {s : State} {d a b : BitVec 5} {h sc : BitVec 2} {x y z : Word} (ha : s.readsG a x = true) (hb : s.readsG b y = true)
    (hd : s.readsG d z = true) : Stores s (.stx d a b h sc) (x + y) (2 ^ sc.toNat) z.toNat := by
  obtain ⟨t, ht, hs⟩ := three_reads (readsAt_readG ha) (readsAt_readG hb) (readsAt_readG hd) s (.refl s)
  refine ⟨_, h.toNat, t, rfl, hs, ?_⟩
  rw [M_bind_ok ht]

/-- The storing forms are those of `storeForm`. -/
theorem stores_of_storeForm {s : State} {rg rf : BitVec 5 → Word} {rv : Nat → VWord} {i : Instr} {va : Word} {n x : Nat}
    (h : storeForm s rg rf rv i = some (true, va, n, x)) : Stores s i va n x := by
  unfold storeForm at h
  split at h <;> simp only [Option.some.injEq, Prod.mk.injEq, Bool.and_eq_true, reduceCtorEq] at h
  case h_5 => obtain ⟨⟨ha, hb⟩, rfl, rfl, rfl⟩ := h; exact stores_vst ha hb
  case h_6 | h_7 => obtain ⟨⟨ha, hb⟩, rfl, rfl, rfl⟩ := h; exact stores_storeF rfl ha hb
  case h_8 => obtain ⟨⟨⟨ha, hb⟩, hd⟩, rfl, rfl, rfl⟩ := h; exact stores_stx ha hb hd
  all_goals
    obtain ⟨⟨ha, hb⟩, rfl, rfl, rfl⟩ := h
    exact stores_storeG rfl ha hb

theorem canLeap_congr {s t : State} {c l y : Nat} (hl : t.launches = s.launches) (hc : ∀ c, t.core c = s.core c) :
    t.canLeap c l y = s.canLeap c l y := by
  simp only [State.canLeap, State.launchOf, State.strand, hc, hl]
  rfl

theorem Same.launches {s t : State} (h : Same s t) : t.launches = s.launches := by
  obtain ⟨⟨cs, rfl⟩, -⟩ := h.onlyCores
  rfl

/-- A strand whose state is the same stays where it would. -/
theorem Same.leapChosen_none {s t : State} (h : Same s t) {a : Access} {hint : Nat} (hg : s.self.going = none)
    (hstay : ∀ y, leapDst a s.cur.1 = some y → s.self.mig.toNat % 4 = 1 ∨ s.canLeap s.cur.1 s.cur.2 y = false) :
    leapChosen a hint t = .ok (none, t) := by
  refine Machine.leapChosen_none (by rw [h.self]; exact hg) ?_
  rw [h.cur, h.self]
  intro y hy
  rw [canLeap_congr h.launches h.core]
  exact hstay y hy

/-- A store that stays comes, its access noted, to its FIFO. -/
theorem store_comes {s t : State} {va : Word} {n x hint : Nat} {a : Access} (hs : Same s t) (hr : s.reaches va n .store a = true)
    (hg : s.self.going = none) (hstay : leapDst a s.cur.1 = none ∨ s.self.mig.toNat % 4 = 1) :
    ∃ u, store va n x hint t = (do pushStore va.toNat a (natLe x n); pure After.next : M After) u ∧ Noted s u := by
  obtain ⟨u, hu, htu⟩ := notes_predict a t
  refine ⟨u, ?_, hs.noted.trans htu⟩
  have hleap : leapChosen a hint t = .ok (none, t) := hs.leapChosen_none hg fun y hy => by
    rcases hstay with hd | hm
    · rw [hd] at hy; cases hy
    · exact .inl hm
  rw [store, M_bind_ok (checked_reaches (by rw [hs.reaches]; exact hr)), storeTail, M_bind_ok hleap]
  exact M_bind_ok hu

/-- STT comes, its access noted, to its FIFO. -/
theorem stt_comes {s : State} {d a b : BitVec 5} {sc : BitVec 2} {va t y : Word} {x : Access} (ha : s.readsG a va = true)
    (hb : s.readsG b t = true) (hd : s.readsG d y = true) (hr : s.reaches va (2 ^ sc.toNat) .timedStore x = true) :
    ∃ (body : M After) (u : State), exec (.stt d a b sc) s = instr body s ∧ Noted s u ∧
      body s = (do pushStore va.toNat x (natLe y.toNat (2 ^ sc.toNat)) (some t); pure After.next : M After) u := by
  obtain ⟨w, hw, hs⟩ := three_reads (readsAt_readG ha) (readsAt_readG hb) (readsAt_readG hd) s (.refl s)
  obtain ⟨u, hu, hwu⟩ := notes_predict x w
  exact ⟨_, u, rfl, hs.noted.trans hwu,
    (M_bind_ok hw).trans ((M_bind_ok (checked_reaches (by rw [hs.reaches]; exact hr))).trans (M_bind_ok hu))⟩

/-- Settles O23: a store comes to its FIFO with its access noted, and enters it or parks. -/
theorem storesEnterTheirFifo : Obligations.StoresEnterTheirFifo := by
  unfold Obligations.StoresEnterTheirFifo
  refine ⟨fun s rg rf rv i va n x a hform hr hg hstay => ?_, fun s rg d a b sc x ha hb hd hr => ?_⟩
  · obtain ⟨body, hint, t, hi, hs, hb⟩ := stores_of_storeForm hform
    obtain ⟨u, hu, hn⟩ := store_comes hs hr hg hstay
    rw [hi]
    exact pushStore_noted hn (hb.trans hu)
  · obtain ⟨body, u, hi, hn, hb⟩ := stt_comes ha hb hd hr
    rw [hi]
    exact pushStore_noted hn hb

end Sys2Proof.Machine
end

section
/-! THEOREM. LoadsGiveTheirBytes (O21) fails: its clause on the answer of a carried load holds of every destination that a park can name, a g
register number above 31 among them. The model writes such a register modulo 32 and finds g0, which only the number 0 discards; the statement
takes the number modulo 32 first, and discards the write. -/

namespace Sys2Proof.Machine

open Sys2Proof.Claims

/-- A strand parked on a carried load of the first eight bytes of DRAM, whose destination is number 32. -/
def carriedStrand : Strand := { Strand.reset with st := .parked (.memory (.read firstBytes 8 (.g 32 8 false) [])) }

/-- Reset, with a 1 in the first byte of DRAM, and that strand in slot 0 of core 0. -/
def carriedLoad : State :=
  { State.reset with mem := [(0, 1)], cores := [(0, { Core.reset with slots := vset Core.reset.slots 0 carriedStrand })] }

/-- The bytes that it reads. -/
def carriedBytes : List Byte := [1, 0, 0, 0, 0, 0, 0, 0]

theorem carriedLoad_home : carriedLoad.homeRead 0 8 = some carriedBytes := by decide +kernel

/-- The model's answer writes g0. -/
theorem carriedLoad_answered : ∃ t, exec (.remoteWordAccess 0 0) carriedLoad = .next t ∧ (vget (t.strand 0 0).g 0).val = 1 := by
  refine ⟨_, rfl, ?_⟩
  decide +kernel

/-- The answer that the statement asks for leaves g0 at zero. -/
theorem carriedLoad_asked : (vget (landed ((carriedLoad.fillFor 0 0 firstBytes 8).strand 0 0) (.g 32 8 false) carriedBytes).went.g 0).val = 0 := by
  decide +kernel

/-- Refutes O21: in `carriedLoad` the answer of the carried load makes g0 read 1, where the statement has it read 0. -/
theorem not_loadsGiveTheirBytes : ¬ Obligations.LoadsGiveTheirBytes := by
  unfold Obligations.LoadsGiveTheirBytes
  rintro ⟨-, ⟨-, hcarried⟩, -⟩
  have hanswer := (hcarried carriedLoad 0 0 firstBytes 8 0 (.g 32 8 false) [] carriedBytes rfl (by decide) rfl (by decide +kernel)
    (by decide +kernel) (by decide +kernel) (by decide +kernel) carriedLoad_home).2 rfl (by decide +kernel)
  obtain ⟨t, ht, hone⟩ := carriedLoad_answered
  have htu := Host.Outcome.next.inj (ht.symm.trans hanswer)
  have hzero : (vget (t.strand 0 0).g 0).val = 0 := by
    rw [htu, State.strand_setStrand]
    exact carriedLoad_asked
  rw [hone] at hzero
  exact absurd hzero (by decide)

end Sys2Proof.Machine
end

section
/-! SUPPORT. Writes at their homes (R83 to R85, R101, R280): what each step of a write changes, and the bytes that read afterwards. -/

namespace Sys2Proof.Machine

open Sys2Proof.Claims

/-! Watchpoints (R280) -/

/-- Two states that differ in watchpoints and pushes alone. -/
def OnlyWatched (s t : State) : Prop :=
  t = { s with dies := t.dies, pushes := t.pushes } ∧ ∀ d, t.die d = { s.die d with wps := (t.die d).wps }

theorem OnlyWatched.refl (s : State) : OnlyWatched s s := ⟨rfl, fun _ => rfl⟩

theorem OnlyWatched.trans {s t u : State} (h : OnlyWatched s t) (h' : OnlyWatched t u) : OnlyWatched s u := by
  obtain ⟨ht, hd⟩ := h
  obtain ⟨hu, hd'⟩ := h'
  refine ⟨by rw [hu, ht], fun d => ?_⟩
  rw [hd', hd]

theorem onlyWatched_wps (s : State) (d : Nat) (f : Tab Watch → Tab Watch) : OnlyWatched s (s.modDie d fun x => { x with wps := f x.wps }) := by
  refine ⟨rfl, fun e => ?_⟩
  by_cases h : e % 4 = d % 4
  · have hd (t : State) : t.die e = t.die d := by simp [State.die, vget_eq, h]
    rw [hd, State.die_modDie, hd]
  · rw [State.die_modDie_ne _ _ h]

theorem onlyWatched_watchOne (s : State) (d : Nat) (as : List Nat) (i : Nat) (w : Watch) : OnlyWatched s (s.watchOne d as i w) := by
  unfold State.watchOne
  dsimp only
  split
  · split
    · exact onlyWatched_wps s d fun t => tset t i _
    · exact (onlyWatched_wps s d fun t => tset t i _).trans ⟨rfl, fun _ => rfl⟩
  · exact .refl s

theorem onlyWatched_watchAll (s : State) (pa : Nat) (as : List Nat) : OnlyWatched s (s.watchAll pa as) := by
  unfold State.watchAll
  split
  · exact .refl s
  · exact foldl_keeps (P := OnlyWatched s) (fun t p ht => ht.trans (onlyWatched_watchOne t _ as p.1 p.2)) _ (.refl s)

/-! One byte at its home -/

/-- An address of this device's DRAM, CXL window or populated scratchpad. -/
def State.holdsByte (s : State) (a : Nat) : Prop :=
  devOf a = s.devid.toNat ∧ match regionOf (localOf a) with
    | .dram _ _ | .cxl _ => True
    | .spad _ off => off < 0x80000
    | _ => False

theorem inMemory_cons {s : State} {pa n : Nat} (h : inMemory s pa (n + 1)) : s.holdsByte pa ∧ inMemory s (pa + 1) n := by
  refine ⟨h 0 (by omega), fun i hi => ?_⟩
  rw [Nat.add_assoc, Nat.add_comm 1]
  exact h (i + 1) (by omega)

/-- A byte put in its place: scratchpad bytes in memory, the others masked in the home cache. -/
theorem homePut_byte {s : State} {pa : Nat} {b : Byte} (h : s.holdsByte pa) :
    s.homePut pa [b] = { s with mem := mput s.mem pa b } ∧ inSpad pa = true ∨
    s.homePut pa [b] = { s with homeDirty := tset s.homeDirty pa b } ∧ inSpad pa = false := by
  obtain ⟨hd, hr⟩ := h
  unfold State.homePut State.homePut inSpad
  rw [if_neg (not_not.mpr hd)]
  cases hreg : regionOf (localOf pa) <;> simp_all

theorem homePut_cons (s : State) (pa : Nat) (b : Byte) (bs : List Byte) : s.homePut pa (b :: bs) = (s.homePut pa [b]).homePut (pa + 1) bs := rfl

theorem byteAt_eq_homeByte {s : State} {a : Nat} (h : inSpad a = false) : byteAt s a = s.homeByte a := by
  unfold inSpad at h
  unfold byteAt
  split
  · next heq => rw [heq] at h; cases h
  · rfl

theorem byteAt_congr {s t : State} {a : Nat} (hm : mget t.mem a = mget s.mem a) (hh : t.homeByte a = s.homeByte a) : byteAt t a = byteAt s a := by
  unfold byteAt
  rw [hm, hh]

/-- A byte put reads there, and every other reads as before. -/
theorem byteAt_homePut_byte {s : State} {pa : Nat} {b : Byte} (hc : s.canonical = true) (h : s.holdsByte pa) (a : Nat) :
    byteAt (s.homePut pa [b]) a = if a = pa then b else byteAt s a := by
  have hwf := (canonical_iff.mp hc).1
  rcases homePut_byte (b := b) h with ⟨hput, hspad⟩ | ⟨hput, hspad⟩ <;> rw [hput]
  · split
    · next ha =>
      subst ha
      obtain ⟨-, hreg⟩ := h
      unfold byteAt
      unfold inSpad at hspad
      cases hr : regionOf (localOf a) <;> simp_all [mget_mput_same]
    · next ha =>
      have hm := mget_mput_ne b hwf ha
      exact byteAt_congr hm (by unfold State.homeByte; dsimp only; rw [hm])
  · split
    · next ha =>
      subst ha
      rw [byteAt_eq_homeByte hspad, State.homeByte, tget_tset_same]
    · next ha => exact byteAt_congr rfl (by unfold State.homeByte; dsimp only; rw [tget_tset_ne _ _ ha])

theorem homePut_byte_devid {s : State} {pa : Nat} {b : Byte} (h : s.holdsByte pa) : (s.homePut pa [b]).devid = s.devid := by
  rcases homePut_byte (b := b) h with ⟨hput, -⟩ | ⟨hput, -⟩ <;> rw [hput]

/-! Runs of bytes -/

/-- A run of bytes of this device put at their home is stored there, and only memory and masked bytes change. -/
theorem homePut_stored (bs : List Byte) : ∀ {s : State} {pa : Nat}, s.canonical = true → inMemory s pa bs.length →
    stored s (s.homePut pa bs) pa bs ∧ ∃ m h, s.homePut pa bs = { s with mem := m, homeDirty := h } := by
  induction bs with
  | nil =>
    intro s pa _ _
    refine ⟨fun a => ?_, s.mem, s.homeDirty, rfl⟩
    rw [if_neg (by rw [List.length_nil]; omega)]
    rfl
  | cons b bs ih =>
    intro s pa hc hm
    obtain ⟨hb, hbs⟩ := inMemory_cons hm
    rw [homePut_cons]
    obtain ⟨u, hu⟩ := exists_name (s.homePut pa [b])
    have hone := byteAt_homePut_byte (b := b) hc hb
    have hcu : u.canonical = true := hu ▸ canonical_homePut [b] pa hc
    have hdev := homePut_byte_devid (b := b) hb
    have hfields : ∃ m h, u = { s with mem := m, homeDirty := h } := by
      rcases homePut_byte (b := b) hb with ⟨hput, -⟩ | ⟨hput, -⟩
      · exact ⟨_, s.homeDirty, hu ▸ hput⟩
      · exact ⟨s.mem, _, hu ▸ hput⟩
    rw [hu] at hone hdev ⊢
    have hmu : inMemory u (pa + 1) bs.length := by
      intro i hi
      rw [hdev]
      exact hbs i hi
    obtain ⟨hst, m, h, hput⟩ := ih hcu hmu
    refine ⟨fun a => ?_, m, h, ?_⟩
    · rw [hst a, hone a, List.length_cons]
      by_cases h1 : pa + 1 ≤ a ∧ a < pa + 1 + bs.length
      · rw [if_pos h1, if_pos (by omega), show a - pa = a - (pa + 1) + 1 by omega, List.getD_cons_succ]
      · rw [if_neg h1]
        by_cases h2 : a = pa
        · rw [if_pos h2, if_pos (by omega), h2, Nat.sub_self, List.getD_cons_zero]
        · rw [if_neg h2, if_neg (by omega)]
    · obtain ⟨m', h', hu'⟩ := hfields
      rw [hput, hu']

/-! A write at its point of performance -/

theorem book_clean (s : State) (p : Place) (pa : Nat) : ∃ k, s.book p pa = { s with clean := k } := by
  unfold State.book
  cases p with
  | core y =>
    dsimp only
    split
    · exact ⟨_, rfl⟩
    · exact ⟨s.clean, rfl⟩
  | control => exact ⟨s.clean, rfl⟩
  | device d h => exact ⟨s.clean, rfl⟩

/-- What a write at a home changes: bytes there, what is noted of instruction words and bad words, watchpoints and the pushes that they make. -/
def AtHome (s t : State) : Prop :=
  t = { s with homeDirty := t.homeDirty, clean := t.clean, badWords := t.badWords, mem := t.mem, dies := t.dies, pushes := t.pushes } ∧
    ∀ d, t.die d = { s.die d with wps := (t.die d).wps }

theorem byteAt_of_onlyWatched {s t : State} (h : OnlyWatched s t) (a : Nat) : byteAt t a = byteAt s a := by
  rw [h.1]
  rfl

theorem homeStore_stored {s : State} {pa : Nat} {bs : List Byte} (hc : s.canonical = true) (hm : inMemory s pa bs.length) :
    stored s (s.homeStore pa bs) pa bs ∧ ∃ m h k w, s.homeStore pa bs = { s with mem := m, homeDirty := h, clean := k, badWords := w } := by
  obtain ⟨hst, m, h, hput⟩ := homePut_stored bs (s := s.noteWords pa bs.length) hc hm
  refine ⟨fun a => hst a, m, h, (s.homeStore pa bs).clean, (s.homeStore pa bs).badWords, ?_⟩
  rw [State.homeStore, hput]
  rfl

/-- A write that is not refused is stored at its home. -/
theorem performAt_stored {s : State} {p : Place} {pa : Nat} {bs : List Byte} (hc : s.canonical = true) (hm : inMemory s pa bs.length)
    (hr : s.refused pa = false) (hg : s.gone pa = false) : stored s (s.performAt p pa bs) pa bs ∧ AtHome s (s.performAt p pa bs) := by
  obtain ⟨k, hk⟩ := book_clean s p pa
  have hperf : s.performAt p pa bs = ({ s with clean := k } : State).homeWrite pa bs := by
    have hr' : ({ s with clean := k } : State).refused pa = false := hr
    have hg' : ({ s with clean := k } : State).gone pa = false := hg
    rw [State.performAt, hk, State.perform, hr', hg']
    rfl
  obtain ⟨hst, m, h, k', w, hput⟩ := homeStore_stored (s := { s with clean := k }) hc hm
  obtain ⟨v, hv⟩ := exists_name (({ s with clean := k } : State).homeStore pa bs)
  have hwatch := onlyWatched_watchAll v pa ((List.range bs.length).map (pa + ·))
  rw [hperf, State.homeWrite, hv]
  rw [hv] at hst hput
  refine ⟨fun a => ?_, ?_, ?_⟩
  · rw [byteAt_of_onlyWatched hwatch, hst a]
    rfl
  · rw [hwatch.1, hput]
  · intro d
    rw [hwatch.2 d, hput]
    rfl

end Sys2Proof.Machine
end

section
/-! THEOREM. StoresDrainInOrder (O24): the counts of a drain, and its three ways. -/

namespace Sys2Proof.Machine

open Sys2Proof.Claims

theorem storeDrain_head {s : State} {c l : Nat} {e : FifoEntry} {es : List FifoEntry} (hf : (s.strand c l).fifo = e :: es)
    (ht : e.timed = none) : exec (.storeDrain c l) s =
      .next ((s.drainPiece c l e).modStrand c l fun x => { x with fifo := e.rest (e.piece c) ++ es }) := by
  have h : exec (.storeDrain c l) s = execStoreDrain c l s := rfl
  rw [h, execStoreDrain, hf]
  dsimp only
  rw [ht]

/-! What a drain counts (R81, R408) -/

/-- One more in counter `i`, where something is counted. -/
def bumped (hpm : Vector Word 8) (i : Nat) (counts : Bool) : Vector Word 8 := if counts then vset hpm i (vget hpm i + 1) else hpm

theorem bumped_comm (hpm : Vector Word 8) (b b' : Bool) : bumped (bumped hpm 2 b) 5 b' = bumped (bumped hpm 5 b') 2 b := by
  have h52 (v : Vector Word 8) (x : Word) : vget (vset v 5 x) 2 = vget v 2 := vget_vset_ne v x (by decide)
  have h25 (v : Vector Word 8) (x : Word) : vget (vset v 2 x) 5 = vget v 5 := vget_vset_ne v x (by decide)
  cases b <;> cases b'
  · rfl
  · rfl
  · rfl
  · simp only [bumped, if_true, h52, h25]
    exact Vector.set_comm _ _ (by decide)

/-- The strand of a drain counts something, and nothing else is changed. -/
structure Counts (s u : State) (c l i : Nat) (counts : Bool) : Prop where
  cores : OnlyCores s u
  self : u.strand c l = { s.strand c l with hpm := bumped (s.strand c l).hpm i counts }
  others : ∀ c' l', c' ≠ c ∨ l' % 16 ≠ l % 16 → u.strand c' l' = s.strand c' l'

theorem counts_modStrand (s : State) (c l i : Nat) :
    Counts s (s.modStrand c l fun x => { x with hpm := vset x.hpm i (vget x.hpm i + 1) }) c l i true :=
  ⟨onlyCores_modStrand .., State.strand_modStrand .., fun _ _ h => State.strand_modStrand_ne _ _ h⟩

theorem counts_refl (s : State) (c l i : Nat) : Counts s s c l i false := ⟨.refl s, rfl, fun _ _ _ => rfl⟩

theorem counts_countStore (s : State) (c l : Nat) (a : Access) :
    Counts s (s.countStore c l a) c l 2 (!(a.place == .core c || inControl a.pa)) := by
  unfold State.countStore
  cases a.place == .core c || inControl a.pa
  · exact counts_modStrand s c l 2
  · exact counts_refl s c l 2

/-- Whether a store misses its home cache (R85; log 6). -/
def State.storeMisses (s : State) (a : Access) : Bool :=
  (regionOf (localOf a.pa)).cached && !(s.homeHolds (a.pa / 64) || s.homeDirty.any fun b => b.1 / 64 == a.pa / 64)

theorem counts_storeMiss (s : State) (c l : Nat) (a : Access) : Counts s (s.storeMiss c l a) c l 5 (s.storeMisses a) := by
  have h : s.storeMiss c l a = if s.storeMisses a then s.countMiss c l else s := rfl
  rw [h]
  cases s.storeMisses a
  · exact counts_refl s c l 5
  · exact counts_modStrand s c l 5

theorem OnlyCores.storeMisses {s u : State} (h : OnlyCores s u) (a : Access) : u.storeMisses a = s.storeMisses a := by
  obtain ⟨⟨cs, rfl⟩, -⟩ := h
  rfl

/-! At a home of the die (R81, R107) -/

theorem drainWay_home {c y : Nat} {a : Access} (hp : a.place = .core y) (hd : dieOf y = dieOf c) : drainWay c a = .home := by
  rw [drainWay, hp]
  exact if_pos hd

theorem piece_home {c y : Nat} {e : FifoEntry} (hp : e.acc.place = .core y) (hd : dieOf y = dieOf c) :
    e.piece c = if y = c then e.data.length else min 8 e.data.length := by
  rw [FifoEntry.piece, drainWay_home hp hd, hp]

theorem inMemory_mono {s : State} {pa m n : Nat} (h : inMemory s pa n) (hm : m ≤ n) : inMemory s pa m := fun i hi => h i (by omega)

/-- A home takes its piece of the store, what is counted is counted, and nothing else changes. -/
theorem drainPiece_home {s : State} {c l y : Nat} {e : FifoEntry} (hc : s.canonical = true) (hp : e.acc.place = .core y)
    (hd : dieOf y = dieOf c) (hu : s.upToDate y = true) (hr : s.refused e.acc.pa = false) (hg : s.gone e.acc.pa = false)
    (hm : inMemory s e.acc.pa e.data.length) : ∃ u v, Counts s u c l 2 (!(e.acc.place == .core c || inControl e.acc.pa)) ∧
      Counts u v c l 5 (s.storeMisses e.acc) ∧ stored s (s.drainPiece c l e) e.acc.pa (e.data.take (e.piece c)) ∧
      AtHome v (s.drainPiece c l e) := by
  have hcount := counts_countStore s c l e.acc
  obtain ⟨u, hcu⟩ := exists_name (s.countStore c l e.acc)
  rw [hcu] at hcount
  have hmiss := counts_storeMiss u c l e.acc
  obtain ⟨v, hv⟩ := exists_name (u.storeMiss c l e.acc)
  rw [hv, hcount.cores.storeMisses] at hmiss
  have hset : u.settle (.core y) = u := applyDue_upToDate ((hcount.cores.upToDate y).trans hu)
  have hpiece : s.drainPiece c l e = v.performAt e.acc.place e.acc.pa (e.data.take (e.piece c)) := by
    unfold State.drainPiece
    rw [drainWay_home hp hd]
    dsimp only
    rw [if_pos (by decide), hcu, hp, hset, hv]
  have hsv : OnlyCores s v := hcount.cores.trans hmiss.cores
  have hlen : (e.data.take (e.piece c)).length ≤ e.data.length := by simp
  obtain ⟨⟨cs, hcs⟩, -⟩ := hsv
  obtain ⟨hst, hat⟩ := performAt_stored (s := v) (p := e.acc.place) (pa := e.acc.pa) (bs := e.data.take (e.piece c))
    (by rw [hcs]; exact hc) (by rw [hcs]; exact inMemory_mono hm hlen) (by rw [hcs]; exact hr) (by rw [hcs]; exact hg)
  rw [hpiece]
  refine ⟨u, v, hcount, hmiss, fun a => ?_, hat⟩
  rw [hst a, hcs]
  rfl

theorem AtHome.core {s t : State} (h : AtHome s t) (c : Nat) : t.core c = s.core c := by
  rw [h.1]
  rfl

theorem AtHome.strand {s t : State} (h : AtHome s t) (c l : Nat) : t.strand c l = s.strand c l := by
  rw [State.strand, h.core, State.strand]

/-- What a home of the strand's die, or the strand's own core, does with the head of its FIFO. -/
theorem storeDrain_home {s : State} {c l y : Nat} {e : FifoEntry} {es : List FifoEntry} (hf : (s.strand c l).fifo = e :: es)
    (ht : e.timed = none) (hc : s.canonical = true) (hp : e.acc.place = .core y) (hd : dieOf y = dieOf c) (hu : s.upToDate y = true)
    (hr : s.refused e.acc.pa = false) (hg : s.gone e.acc.pa = false) (hm : inMemory s e.acc.pa e.data.length) :
    ∃ t, exec (.storeDrain c l) s = .next t ∧ stored s t e.acc.pa (e.data.take (e.piece c)) ∧
      t = { s with
        cores := t.cores, homeDirty := t.homeDirty, clean := t.clean, badWords := t.badWords, mem := t.mem, dies := t.dies
        pushes := t.pushes } ∧
      t.strand c l = { s.strand c l with
        fifo := e.rest (e.piece c) ++ es
        hpm := bumped (bumped (s.strand c l).hpm 5 (s.storeMisses e.acc)) 2 (!(e.acc.place == .core c || inControl e.acc.pa)) } ∧
      ∀ c' l', c' ≠ c ∨ l' % 16 ≠ l % 16 → t.strand c' l' = s.strand c' l' := by
  obtain ⟨u, v, hcount, hmiss, hst, hat⟩ := drainPiece_home (l := l) hc hp hd hu hr hg hm
  obtain ⟨w, hw⟩ := exists_name (s.drainPiece c l e)
  rw [hw] at hst hat
  refine ⟨_, storeDrain_head hf ht, ?_⟩
  rw [hw]
  refine ⟨fun a => hst a, ?_, ?_, fun c' l' h => ?_⟩
  · obtain ⟨⟨cs, hcs⟩, -⟩ := hcount.cores.trans hmiss.cores
    have hmod (t : State) (f : Strand → Strand) : ∃ cs, t.modStrand c l f = { t with cores := cs } := ⟨_, rfl⟩
    obtain ⟨ds, hds⟩ := hmod w fun x => { x with fifo := e.rest (e.piece c) ++ es }
    rw [hds, hat.1, hcs]
  · rw [State.strand_modStrand, hat.strand, hmiss.self, hcount.self, bumped_comm]
  · rw [State.strand_modStrand_ne _ _ h, hat.strand, hmiss.others c' l' h, hcount.others c' l' h]

/-! Into the die's remote-data cache (R92) -/

/-- The bytes of a run listed one after another are listed. -/
theorem tget_foldl_tset (bs : List Byte) : ∀ (t : Tab Byte) (o j : Nat) (b : Byte), bs[j]? = some b →
    tget ((bs.zipIdx o).foldl (fun t p => tset t p.2 p.1) t) (o + j) = some b := by
  have hkeep : ∀ (bs : List Byte) (t : Tab Byte) (o k : Nat), k < o → tget ((bs.zipIdx o).foldl (fun t p => tset t p.2 p.1) t) k = tget t k := by
    intro bs
    induction bs with
    | nil => intros; rfl
    | cons b bs ih =>
      intro t o k hk
      rw [List.zipIdx_cons, List.foldl_cons, ih _ _ _ (by omega), tget_tset_ne _ _ (by omega)]
  induction bs with
  | nil => intro t o j b h; simp at h
  | cons b bs ih =>
    intro t o j x h
    rw [List.zipIdx_cons, List.foldl_cons]
    cases j with
    | zero =>
      rw [List.getElem?_cons_zero] at h
      cases h
      exact (hkeep _ _ _ _ (by omega)).trans (tget_tset_same _ _ _)
    | succ j =>
      rw [List.getElem?_cons_succ] at h
      rw [← ih (tset t o b) (o + 1) j x h]
      congr 1
      omega

/-- The line of a remote-data cache after a store of a core of channel group `grp`. -/
def RdcLine.storedBy (l : RdcLine) (o : Nat) (bs : List Byte) (grp : Nat) : RdcLine :=
  { l with
    dirty := (bs.zipIdx o).foldl (fun t p => tset t p.2 p.1) l.dirty
    clean := (bs.zipIdx o).foldl (fun t p => tdel t p.2) l.clean
    writers := l.writers ||| (1#64 <<< grp) }

theorem rdcWrite_line (s : State) (d : Nat) (a : Access) (bs : List Byte) (grp : Nat) :
    tget ((s.rdcWrite d a bs grp).die d).rdc (a.pa / 256) = some ((s.rdcLine d a).storedBy (a.pa % 256) bs grp) := by
  rw [State.rdcWrite, State.die_modDie, tget_tset_same]
  rfl

theorem storedBy_writers (l : RdcLine) (o : Nat) (bs : List Byte) {grp : Nat} (h : grp < 64) :
    (l.storedBy o bs grp).writers.getLsbD grp = true := by
  simp [RdcLine.storedBy, h]

/-- A store into the remote-data cache of its die: its line holds its bytes dirty, with its writer. -/
theorem storeDrain_cache {s : State} {c l y : Nat} {e : FifoEntry} {es : List FifoEntry} (hf : (s.strand c l).fifo = e :: es)
    (ht : e.timed = none) (hp : e.acc.place = .core y) (hd : dieOf y ≠ dieOf c) (hcached : (regionOf (localOf e.acc.pa)).cached = true)
    (hr : s.refused e.acc.pa = false) (hg : s.gone e.acc.pa = false) : ∃ t q, exec (.storeDrain c l) s = .next t ∧ sameBytes s t ∧
      t.strand c l = { s.strand c l with fifo := es } ∧ tget (t.die (dieOf c)).rdc (e.acc.pa / 256) = some q ∧
      q.writers.getLsbD (groupOf c) = true ∧ ∀ j b, e.data[j]? = some b → tget q.dirty (e.acc.pa % 256 + j) = some b := by
  have hway : drainWay c e.acc = .cache := by
    rw [drainWay, hp]
    dsimp only
    rw [if_neg hd, if_pos hcached]
  have hpiece : e.piece c = e.data.length := by rw [FifoEntry.piece, hway]
  have hdrain : s.drainPiece c l e = s.rdcWrite (dieOf c) e.acc e.data (groupOf c) := by
    unfold State.drainPiece
    rw [hway, hpiece, List.take_length]
    have hno : ¬ ((Drain.cache == .home || Drain.cache == .far) = true) := by decide
    dsimp only
    rw [if_neg hno, hr, hg]
    rfl
  have hrest : e.rest (e.piece c) ++ es = es := by rw [hpiece, FifoEntry.rest, if_pos le_rfl, List.nil_append]
  refine ⟨_, (s.rdcLine (dieOf c) e.acc).storedBy (e.acc.pa % 256) e.data (groupOf c), storeDrain_head hf ht, ?_⟩
  rw [hdrain, hrest]
  refine ⟨fun _ => rfl, ?_, ?_, storedBy_writers _ _ _ (Nat.mod_lt _ (by decide)), fun j b hj => tget_foldl_tset _ _ _ _ _ hj⟩
  · rw [State.strand_modStrand]
    rfl
  · rw [State.die_modStrand, rdcWrite_line]

/-! Onto the posted path (R114) -/

/-- A far store: on the posted path, counted in the strand's exits, with bit 63 of s.tbm set. -/
theorem storeDrain_far {s : State} {c l : Nat} {e : FifoEntry} {es : List FifoEntry} (hf : (s.strand c l).fifo = e :: es)
    (ht : e.timed = none) (hway : drainWay c e.acc = .far) (hpiece : e.piece c = min 8 e.data.length)
    (hown : (e.acc.place == .core c) = false) : ∃ t, exec (.storeDrain c l) s = .next t ∧ sameBytes s t ∧ t.posted = s.posted ++
        [⟨c, l, (s.strand c l).gen, (s.strand c l).launch, .store { e with data := e.data.take (min 8 e.data.length) }⟩] ∧
      t.strand c l = { s.strand c l with
        fifo := e.rest (min 8 e.data.length) ++ es, tbm := (s.strand c l).tbm ||| (1#64 <<< 63), exits := (s.strand c l).exits + 1
        hpm := bumped (s.strand c l).hpm 2 (!inControl e.acc.pa) } := by
  have hcount := counts_countStore s c l e.acc
  obtain ⟨u, hcu⟩ := exists_name (s.countStore c l e.acc)
  rw [hcu, hown, Bool.false_or] at hcount
  obtain ⟨⟨⟨cs, hcs⟩, -⟩, hself, -⟩ := hcount
  refine ⟨_, storeDrain_head hf ht, ?_⟩
  rw [hpiece]
  have hdrain : s.drainPiece c l e = { u.modStrand c l fun x => { x.mark 63 with exits := x.exits + 1 } with
      posted := u.posted ++ [⟨c, l, (u.strand c l).gen, (u.strand c l).launch, .store { e with data := e.data.take (min 8 e.data.length) }⟩] } := by
    unfold State.drainPiece
    rw [hway, hpiece]
    have hyes : (Drain.far == .home || Drain.far == .far) = true := by decide
    dsimp only
    rw [if_pos hyes, hcu]
  have hposted : u.posted = s.posted := by rw [hcs]
  obtain ⟨w, hw⟩ := exists_name (u.modStrand c l fun x => { x.mark 63 with exits := x.exits + 1 })
  have hwself : w.strand c l = { (u.strand c l).mark 63 with exits := (u.strand c l).exits + 1 } := by rw [← hw, State.strand_modStrand]
  have hwbytes : sameBytes s w := by
    rw [← hw, hcs]
    exact fun _ => rfl
  rw [hdrain, hw, hself, hposted]
  refine ⟨fun a => hwbytes a, rfl, ?_⟩
  rw [State.strand_modStrand]
  have hwp (ps : List Posted) : ({ w with posted := ps } : State).strand c l = w.strand c l := rfl
  rw [hwp, hwself, hself]
  rfl

/-- The counts of a drain at a home, in the words of the obligation. -/
theorem bumped_home (s : State) (c y : Nat) (a : Access) (hpm : Vector Word 8) (hp : a.place = .core y) :
    bumped (bumped hpm 5 (s.storeMisses a)) 2 (!(a.place == .core c || inControl a.pa)) =
      let h := if (regionOf (localOf a.pa)).cached && !s.homeHolds (a.pa / 64) && !s.homeDirty.any (fun b => b.1 / 64 == a.pa / 64)
        then vset hpm 5 (vget hpm 5 + 1) else hpm
      if y = c ∨ inControl a.pa = true then h else vset h 2 (vget h 2 + 1) := by
  have hmiss : s.storeMisses a = ((regionOf (localOf a.pa)).cached && !s.homeHolds (a.pa / 64) &&
      !s.homeDirty.any (fun b => b.1 / 64 == a.pa / 64)) := by rw [State.storeMisses, Bool.not_or, Bool.and_assoc]
  have hown : (a.place == .core c || inControl a.pa) = decide (y = c ∨ inControl a.pa = true) := by
    rw [hp, beq_eq_decide]
    simp
  rw [hmiss, hown]
  by_cases h : y = c ∨ inControl a.pa = true
  · rw [if_pos h, decide_eq_true h]
    rfl
  · rw [if_neg h, decide_eq_false h]
    rfl

/-- What goes onto the posted path: to another device, or to a core of another die for a line that is not cached. -/
theorem drains_far {c : Nat} {e : FifoEntry} (h : (∃ z h, e.acc.place = .device z h) ∨
    ∃ y, e.acc.place = .core y ∧ dieOf y ≠ dieOf c ∧ (regionOf (localOf e.acc.pa)).cached = false) :
    drainWay c e.acc = .far ∧ (e.acc.place == .core c) = false := by
  obtain ⟨z, x, hp⟩ | ⟨y, hp, hd, hcached⟩ := h
  · rw [drainWay, hp]
    exact ⟨rfl, rfl⟩
  · have hy : y ≠ c := fun h => hd (by rw [h])
    rw [drainWay, hp]
    dsimp only
    rw [if_neg hd, hcached]
    exact ⟨rfl, by simp [hy]⟩

/-- Settles O24, by the way of the head of the FIFO. -/
theorem storesDrainInOrder : Obligations.StoresDrainInOrder := by
  unfold Obligations.StoresDrainInOrder
  intro s c l e es hf ht left
  refine ⟨fun y hc hp hd hu hr hg hm => ?_, fun y hp hd hcached hr hg => storeDrain_cache hf ht hp hd hcached hr hg, fun hfar => ?_⟩
  · have hdrain := storeDrain_home (l := l) hf ht hc hp hd hu hr hg hm
    rw [piece_home hp hd, bumped_home s c y e.acc _ hp] at hdrain
    exact hdrain
  · obtain ⟨hway, hown⟩ := drains_far hfar
    have hpiece : e.piece c = min 8 e.data.length := by rw [FifoEntry.piece, hway]
    obtain ⟨t, hexec, hsame, hposted, hself⟩ := storeDrain_far hf ht hway hpiece hown
    refine ⟨t, hexec, hsame, hposted, ?_⟩
    rw [hself]
    cases inControl e.acc.pa <;> rfl

end Sys2Proof.Machine
end

section
/-! THEOREM. PathsAndCachesEmpty (O53): far stores land, probes come back, and a line of a remote-data cache is written back. -/

namespace Sys2Proof.Machine

open Sys2Proof.Claims

/-! Far stores (R114, R415) -/

theorem ackStore_strand {s : State} {p : Posted} {x : Strand} (hx : s.strand p.core p.slot = x) (hg : x.gen = p.gen) (hk : x.launch = p.key) :
    (s.ackStore p).strand p.core p.slot = { x with exits := x.exits - 1 } := by
  rw [State.ackStore, State.strand_modStrand, hx, hg, hk]
  simp

/-- The oldest far store of all, to a core, is performed there. -/
theorem farStoreAck_core {s : State} {p : Posted} {e : FifoEntry} {ps : List Posted} {y : Nat} (hp : s.posted = p :: ps) (ho : p.op = .store e)
    (hy : e.acc.place = .core y) : exec (.farStoreAck 0) s =
      .next (((({ s with posted := ps } : State).settle (.core y)).performAt (.core y) e.acc.pa e.data).ackStore p) := by
  have h : exec (.farStoreAck 0) s = execFarStoreAck 0 s := rfl
  have hlost : s.lostTo e.acc = false := by rw [State.lostTo, hy]
  have hfar : decide (4 ≤ farDst e.acc) = false := by
    rw [farDst, hy]
    exact decide_eq_false (Nat.not_le.mpr (Nat.mod_lt _ (by decide)))
  rw [h, execFarStoreAck, hp, List.getElem?_cons_zero]
  dsimp only
  rw [ho]
  dsimp only
  rw [hlost, hfar, Bool.and_false, State.farStore, hy]
  rfl

theorem farStoreAck_lost {s : State} {p : Posted} {e : FifoEntry} {ps : List Posted} {y h : Nat} (hp : s.posted = p :: ps)
    (ho : p.op = .store e) (hy : e.acc.place = .device y h) (hlost : y ∉ s.reach) :
    exec (.farStoreAck 0) s = .next ({ s with posted := ps, linkErr := s.linkErr + 1 }.ackStore p) := by
  have h : exec (.farStoreAck 0) s = execFarStoreAck 0 s := rfl
  have hlost : s.lostTo e.acc = true := by
    rw [State.lostTo, hy]
    simpa using hlost
  rw [h, execFarStoreAck, hp, List.getElem?_cons_zero]
  dsimp only
  rw [ho]
  dsimp only
  rw [hlost]
  rfl

theorem farStoreAck_performed {s : State} {p : Posted} {e : FifoEntry} {ps : List Posted} {y : Nat} {x : Strand} (hp : s.posted = p :: ps)
    (ho : p.op = .store e) (hx : s.strand p.core p.slot = x) (hg : x.gen = p.gen) (hk : x.launch = p.key) (hy : e.acc.place = .core y)
    (hu : s.upToDate y = true) (hc : s.canonical = true) (hm : inMemory s e.acc.pa e.data.length) (hr : s.refused e.acc.pa = false)
    (hgone : s.gone e.acc.pa = false) : ∃ u, exec (.farStoreAck 0) s = .next u ∧ u.posted = ps ∧ stored s u e.acc.pa e.data ∧
      u.strand p.core p.slot = { x with exits := x.exits - 1 } := by
  have hset : ({ s with posted := ps } : State).settle (.core y) = { s with posted := ps } := applyDue_upToDate hu
  obtain ⟨hst, hat⟩ := performAt_stored (s := { s with posted := ps }) (p := .core y) (pa := e.acc.pa) (bs := e.data) hc hm hr hgone
  refine ⟨_, farStoreAck_core hp ho hy, ?_⟩
  rw [hset]
  obtain ⟨v, hv⟩ := exists_name (({ s with posted := ps } : State).performAt (.core y) e.acc.pa e.data)
  rw [hv] at hst hat ⊢
  refine ⟨?_, fun a => hst a, ackStore_strand ((hat.strand ..).trans hx) hg hk⟩
  have hposted : (v.ackStore p).posted = v.posted := rfl
  rw [hposted, hat.1]

/-! Probes (R119) -/

theorem probeEcho_done {s : State} {c l sc g : Nat} (hst : (s.strand c l).st = .parked (.release sc) ∨ (s.strand c l).st = .parked (.relKept sc))
    (hf : (s.strand c l).fifo = []) (hg : g < 64) (hcov : covers sc (groupOf c) g = true) (hd : s.probeDone c l g = true) :
    exec (.probeEcho c l g) s = .next (s.modStrand c l fun x => { x with tbm := x.tbm &&& ~~~(1#64 <<< g) }) := by
  have h : exec (.probeEcho c l g) s = execProbeEcho c l g s := rfl
  have hall : ((s.strand c l).fifo.isEmpty && decide (g < 64) && covers sc (groupOf c) g && s.probeDone c l g) = true := by
    rw [hf, hcov, hd, decide_eq_true hg]
    rfl
  rw [h, execProbeEcho]
  rcases hst with hst | hst <;> rw [hst] <;> exact if_pos hall

theorem covers_iff {sc grp g : Nat} : covers sc grp g = true ↔ 2 ≤ sc ∨ sc = 1 ∧ g = grp := by
  unfold covers
  split
  · simp; omega
  · split
    · simp; omega
    · simp; omega

theorem probeEcho_not_done {s : State} {c l g : Nat} (hd : s.probeDone c l g = false) : exec (.probeEcho c l g) s = .next s := by
  have h : exec (.probeEcho c l g) s = execProbeEcho c l g s := rfl
  rw [h]
  unfold execProbeEcho
  dsimp only
  split
  · rw [hd, Bool.and_false]; rfl
  · rw [hd, Bool.and_false]; rfl
  · rfl

/-- A probe has nothing to wait for where nothing of its strand is on its way. -/
theorem probeDone_of_none {s : State} {c l g : Nat} (hp : s.posted.all (fun p => !p.by c l (s.strand c l).gen) = true)
    (hq : ∀ q ∈ s.pushes, q.src ≠ some (c, l, (s.strand c l).gen)) (he : g = 63 → (s.strand c l).exits = 0) : s.probeDone c l g = true := by
  have hposted : (s.posted.any fun p => p.by c l (s.strand c l).gen && (p.group == some g || (g == 63 && p.group == none))) = false := by
    rw [List.any_eq_false]
    intro p hmem
    have := List.all_eq_true.mp hp p hmem
    simp_all
  have hpushes : (s.pushes.any fun p => p.by c l (s.strand c l).gen && (p.group c == some g || (g == 63 && p.group c == none))) = false := by
    rw [List.any_eq_false]
    intro q hmem
    simp [Push.by, hq q hmem]
  have hexits : (g != 63 || (s.strand c l).exits == 0) = true := by
    by_cases h : g = 63 <;> simp_all
  simp only [State.probeDone, hposted, hpushes, hexits]
  rfl

/-- A SPAWNQ that waits for room at its core keeps the probe of that core's channel group, or of the paths off the die. -/
theorem probeDone_waits {s : State} {c l : Nat} {q : Push} (hq : q ∈ s.pushes) (hs : q.src = some (c, l, (s.strand c l).gen)) :
    s.probeDone c l (if dieOf q.dst = dieOf c then groupOf q.dst else 63) = false := by
  obtain ⟨g, hg⟩ := exists_name (if dieOf q.dst = dieOf c then groupOf q.dst else 63)
  have hat : (q.group c == some g || (g == 63 && q.group c == none)) = true := by
    rw [← hg, Push.group]
    split <;> simp
  have hpushes : (s.pushes.any fun p => p.by c l (s.strand c l).gen && (p.group c == some g || (g == 63 && p.group c == none))) = true :=
    List.any_eq_true.mpr ⟨q, hq, by simp only [Push.by, hs, hat, beq_self_eq_true, Bool.and_self]⟩
  rw [hg]
  simp only [State.probeDone, hpushes, Bool.not_true, Bool.and_false, Bool.false_and]

/-! Tables of bytes -/

theorem tget_filter {α : Type} (f : Nat → Bool) {t : Tab α} (h : Tab.sorted t = true) (n : Nat) :
    tget (t.filter fun p => f p.1) n = if f n then tget t n else none := by
  induction t with
  | nil => simp
  | cons p t ih =>
    obtain ⟨k, v⟩ := p
    obtain ⟨ht, hbelow⟩ := Tab.sorted_cons.mp h
    have hlow (hn : n < k) : tget t n = none := tget_below fun q hq => hn.trans (hbelow q hq)
    by_cases hk : f k
    · rw [List.filter_cons_of_pos (by simpa using hk)]
      simp only [tget, ih ht]
      by_cases hnk : n = k
      · simp [hnk, hk]
      · by_cases hn : n < k <;> simp [hnk, hn]
    · rw [List.filter_cons_of_neg (by simpa using hk), ih ht]
      simp only [tget]
      by_cases hnk : n = k
      · simp [hnk, hk]
      · by_cases hn : n < k <;> simp [hnk, hn, hlow]

/-- Bytes of a line laid over a table, by offset from `b`. -/
def Tab.overlaid (t : Tab Byte) (b : Nat) (cs : Tab Byte) : Tab Byte := cs.foldl (fun t c => tset t (b + c.1) c.2) t

theorem tget_overlaid {cs : Tab Byte} (h : Tab.sorted cs = true) : ∀ (t : Tab Byte) (b n : Nat),
    tget (t.overlaid b cs) (b + n) = (tget cs n).or (tget t (b + n)) := by
  induction cs with
  | nil => intros; rfl
  | cons c cs ih =>
    intro t b n
    obtain ⟨k, v⟩ := c
    obtain ⟨hcs, hbelow⟩ := Tab.sorted_cons.mp h
    have hstep : t.overlaid b ((k, v) :: cs) = (tset t (b + k) v).overlaid b cs := rfl
    rw [hstep, ih hcs]
    simp only [tget]
    by_cases hnk : n = k
    · rw [if_pos hnk, hnk, tget_tset_same, tget_below hbelow]
      rfl
    · rw [if_neg hnk, tget_tset_ne _ _ (by omega)]
      split
      · next hn => rw [tget_below fun q hq => hn.trans (hbelow q hq)]
      · rfl

theorem tget_overlaid_outside {cs : Tab Byte} {b n : Nat} : ∀ (t : Tab Byte), (∀ c ∈ cs, n ≠ b + c.1) → tget (t.overlaid b cs) n = tget t n := by
  induction cs with
  | nil => intros; rfl
  | cons c cs ih =>
    intro t h
    have hstep : t.overlaid b (c :: cs) = (tset t (b + c.1) c.2).overlaid b cs := rfl
    rw [hstep, ih _ fun c hc => h c (List.mem_cons_of_mem _ hc), tget_tset_ne _ _ (h c (by simp))]

/-! A merge at the home (R95, R101) -/

/-- An address of this device whose line is cached, in a place that is not refused (R49, R419). -/
structure State.Merges (s : State) (a : Nat) : Prop where
  here : devOf a = s.devid.toNat
  cached : (regionOf (localOf a)).cached = true
  taken : s.refused a = false
  backed : s.gone a = false

theorem mergeByte {s : State} {a : Nat} {b : Byte} (hd : devOf a = s.devid.toNat) (hc : (regionOf (localOf a)).cached = true) :
    ∃ k, (s.noteWords a 1).homePut a [b] = { s with homeDirty := tset s.homeDirty a b, clean := k } := by
  refine ⟨(s.noteWords a 1).clean, ?_⟩
  have hput (t : State) (ht : devOf a = t.devid.toNat) : t.homePut a [b] = { t with homeDirty := tset t.homeDirty a b } := by
    unfold State.homePut State.homePut
    rw [if_neg (not_not.mpr ht)]
    cases hreg : regionOf (localOf a) <;> simp_all [Region.cached]
  exact hput (s.noteWords a 1) hd

theorem mergeBytes (line : Nat) (cs : Tab Byte) : ∀ {s : State}, (∀ c ∈ cs, s.Merges (line * 256 + c.1)) →
    ∃ k, cs.foldl (fun s (c : Nat × Byte) => (s.noteWords (line * 256 + c.1) 1).homePut (line * 256 + c.1) [c.2]) s =
      { s with homeDirty := s.homeDirty.overlaid (line * 256) cs, clean := k } := by
  induction cs with
  | nil => exact fun {s} _ => ⟨s.clean, rfl⟩
  | cons c cs ih =>
    intro s h
    obtain ⟨hd, hc, -, -⟩ := h c (by simp)
    obtain ⟨k, hk⟩ := mergeByte (b := c.2) hd hc
    have hnext (t : Tab Byte) : ∀ c ∈ cs, ({ s with homeDirty := t, clean := k } : State).Merges (line * 256 + c.1) := by
      intro c hc
      obtain ⟨h1, h2, h3, h4⟩ := h c (List.mem_cons_of_mem _ hc)
      exact ⟨h1, h2, h3, h4⟩
    obtain ⟨k', hk'⟩ := ih (hnext _)
    refine ⟨k', ?_⟩
    rw [List.foldl_cons, hk, hk']
    rfl

/-- A merge lays its bytes over those masked at the home. -/
theorem merge_overlays {s : State} {line : Nat} {cs : Tab Byte} (h : ∀ c ∈ cs, s.Merges (line * 256 + c.1)) :
    ∃ k w, OnlyWatched { s with homeDirty := s.homeDirty.overlaid (line * 256) cs, clean := k, badWords := w } (s.merge line cs) := by
  have hall : cs.filter (fun c => !s.refused (line * 256 + c.1) && !s.gone (line * 256 + c.1)) = cs := by
    rw [List.filter_eq_self]
    intro c hc
    rw [(h c hc).taken, (h c hc).backed]
    rfl
  unfold State.merge
  dsimp only
  rw [hall]
  split
  · next hnone =>
    rw [List.isEmpty_iff.mp hnone]
    exact ⟨s.clean, s.badWords, .refl s⟩
  · obtain ⟨k, hk⟩ := mergeBytes line cs h
    rw [hk]
    obtain ⟨v, hv⟩ := exists_name ({ s with homeDirty := s.homeDirty.overlaid (line * 256) cs, clean := k } : State)
    rw [hv]
    obtain ⟨w, hw⟩ := foldl_keeps (P := fun t => ∃ w, t = { v with badWords := w })
      (f := fun s x => s.mendWords none (line * 256 + 8 * x) 8) (fun t x ⟨w, ht⟩ => ⟨_, by rw [ht]; rfl⟩)
      ((List.range 32).filter fun w => (List.range 8).all fun i => (tget cs (8 * w + i)).isSome) ⟨v.badWords, rfl⟩
    refine ⟨k, w, ?_⟩
    rw [hw]
    have hput : ({ s with homeDirty := s.homeDirty.overlaid (line * 256) cs, clean := k, badWords := w } : State) = { v with badWords := w } := by
      rw [← hv]
    rw [hput]
    exact onlyWatched_watchAll ..

/-! Write-backs of a line (R95, R101) -/

/-- The dirty bytes of a line in a die's remote-data cache whose words are good. -/
def State.goodBytes (s : State) (d n : Nat) (l : RdcLine) : Tab Byte := l.dirty.filter fun c => !s.badWord (some d) (n * 256 + c.1)

/-- The line after its write-back: what went to the home stays clean. -/
def RdcLine.written (l : RdcLine) (good : Tab Byte) : RdcLine := { l with clean := l.clean.overlaid 0 good, dirty := [], writers := 0 }

theorem RdcLine.written_nil {l : RdcLine} (h : l.dirty = []) : l.written [] = { l with writers := 0 } := by
  obtain ⟨home, clean, dirty, writers, ros⟩ := l
  cases h
  rfl

theorem loseWords_counts (s : State) (d n : Nat) (lost : Bool) : ∃ w ds, s.loseWords (some d) d (n * 256) 256 lost =
      { s with badWords := w, dies := ds } ∧
    (s.loseWords (some d) d (n * 256) 256 lost).die d = { s.die d with srue := if lost then (s.die d).srue + 1 else (s.die d).srue } := by
  cases lost
  · exact ⟨s.badWords, s.dies, rfl, rfl⟩
  · exact ⟨_, _, rfl, State.die_modDie s d fun x => { x with srue := x.srue + 1 }⟩

theorem map_vset {α β : Type} {n : Nat} (g : α → β) (v : Vector α (n + 1)) (i : Nat) {x : α} (h : g x = g (vget v i)) :
    (vset v i x).map g = v.map g := by
  ext j hj
  simp only [Vector.getElem_map, vset, Vector.getElem_set]
  split
  · next hij =>
    subst hij
    exact h
  · rfl

/-- The ponds are those of the dies' tables of ponds. -/
theorem inPond_countCache (s : State) (d a : Nat) : (s.countCache d).inPond a = s.inPond a := by
  have hmap : (s.countCache d).dies.map Die.ponds = s.dies.map Die.ponds := map_vset Die.ponds s.dies d rfl
  have hany (t : State) : t.inPond a = (t.dies.map Die.ponds).toList.any (fun ps => ps.any fun p =>
      decide (p.2.base % 2 ^ 46 ≤ a ∧ a < p.2.base % 2 ^ 46 + (2 ^ p.2.lcap * 16 + 65535) / 65536 * 65536 +
        2 ^ p.2.lcap * p.2.maxsteps * (64 + p.2.obs))) := by
    rw [Vector.toList_map, List.any_map]
    rfl
  rw [hany, hany, hmap]

theorem merges_loseWords {s : State} {h : Option Nat} {d pa n a : Nat} {lost : Bool} (hm : s.Merges a) :
    (s.loseWords h d pa n lost).Merges a := by
  obtain ⟨h1, h2, h3, h4⟩ := hm
  cases lost
  · exact ⟨h1, h2, h3, h4⟩
  · have hpond : (s.loseWords h d pa n true).inPond (localOf a) = s.inPond (localOf a) := inPond_countCache s d _
    have hrefused : (s.loseWords h d pa n true).refused a = s.refused a := by
      unfold State.refused
      rw [hpond]
      rfl
    exact ⟨h1, h2, hrefused.trans h3, h4⟩

/-- A line written back: its good dirty bytes are laid over those of the home, and a loss is counted. -/
theorem rdcFlush_line {s : State} {d n : Nat} {l : RdcLine} (hl : tget (s.die d).rdc n = some l) (hu : s.upToDate l.home = true)
    (h : ∀ c ∈ l.dirty, s.Merges (n * 256 + c.1)) :
    (∃ ds k w ps, s.rdcFlush d n =
      { s with homeDirty := s.homeDirty.overlaid (n * 256) (s.goodBytes d n l), dies := ds, clean := k, badWords := w, pushes := ps }) ∧
    ((s.rdcFlush d n).die d).rdc = tset (s.die d).rdc n (l.written (s.goodBytes d n l)) ∧
    ((s.rdcFlush d n).die d).srue =
      if (s.goodBytes d n l).length < l.dirty.length then (s.die d).srue + 1 else (s.die d).srue := by
  by_cases hempty : l.dirty = []
  · have hgood : s.goodBytes d n l = [] := by rw [State.goodBytes, hempty, List.filter_nil]
    have hflush : s.rdcFlush d n = s.modDie d fun x => { x with rdc := tset x.rdc n { l with writers := 0 } } := by
      unfold State.rdcFlush
      rw [hl]
      dsimp only
      rw [hempty]
      rfl
    rw [hflush, hgood, RdcLine.written_nil hempty, State.die_modDie, hempty]
    exact ⟨⟨_, s.clean, s.badWords, s.pushes, rfl⟩, rfl, rfl⟩
  · have hset : s.settle (.core l.home) = s := applyDue_upToDate hu
    obtain ⟨w, ds, hlose, hdie⟩ := loseWords_counts s d n (decide ((s.goodBytes d n l).length < l.dirty.length))
    obtain ⟨k, hbook⟩ := book_clean ({ s with badWords := w, dies := ds } : State) (.core l.home) (n * 256)
    obtain ⟨k', w', hmerge⟩ := merge_overlays (s := { s with badWords := w, dies := ds, clean := k }) (cs := s.goodBytes d n l)
      fun c hc => by
        have hm := merges_loseWords (h := some d) (d := d) (pa := n * 256) (n := 256)
          (lost := decide ((s.goodBytes d n l).length < l.dirty.length)) (h c (List.mem_filter.mp hc).1)
        rw [hlose] at hm
        obtain ⟨h1, h2, h3, h4⟩ := hm
        exact ⟨h1, h2, h3, h4⟩
    obtain ⟨v, hv⟩ := exists_name (({ s with badWords := w, dies := ds, clean := k } : State).merge n (s.goodBytes d n l))
    have hflush : s.rdcFlush d n = v.modDie d fun x => { x with rdc := tset x.rdc n (l.written (s.goodBytes d n l)) } := by
      unfold State.rdcFlush
      rw [hl]
      dsimp only
      rw [if_neg (by simpa using hempty), hset, hl, Option.getD_some]
      unfold State.goodBytes RdcLine.written at *
      rw [hlose, hbook, hv]
      simp only [Tab.overlaid, Nat.zero_add]
    rw [hv] at hmerge
    obtain ⟨hv1, hv2⟩ := hmerge
    have hvdie := hv2 d
    have hput (h : Tab Byte) (k' : Held) (w' : List (Option Nat × Nat)) :
        ({ s with badWords := w', dies := ds, clean := k', homeDirty := h } : State).die d = (s.loseWords (some d) d (n * 256) 256
          (decide ((s.goodBytes d n l).length < l.dirty.length))).die d := by
      rw [hlose]
      rfl
    rw [hput, hdie] at hvdie
    rw [hflush, State.die_modDie, hvdie]
    refine ⟨⟨_, k', w', v.pushes, by rw [hv1]; rfl⟩, rfl, ?_⟩
    simp only [decide_eq_true_eq]

/-- Whether a line's dirty byte at an offset lies in a bad word. -/
def State.badByte (s : State) (d n : Nat) (l : RdcLine) (o : Nat) : Bool := s.badWord (some d) (n * 256 + o) && (tget l.dirty o).isSome

theorem tget_goodBytes {s : State} {d n : Nat} {l : RdcLine} (h : Tab.sorted l.dirty = true) (o : Nat) :
    tget (s.goodBytes d n l) o = if s.badByte d n l o then none else tget l.dirty o := by
  rw [State.goodBytes, tget_filter (fun o => !s.badWord (some d) (n * 256 + o)) h, State.badByte]
  cases s.badWord (some d) (n * 256 + o) <;> cases tget l.dirty o <;> rfl

theorem tget_of_mem {α : Type} {t : Tab α} (hs : Tab.sorted t = true) {p : Nat × α} (hp : p ∈ t) : tget t p.1 = some p.2 := by
  induction t with
  | nil => cases hp
  | cons q t ih =>
    obtain ⟨k, v⟩ := q
    obtain ⟨ht, hbelow⟩ := Tab.sorted_cons.mp hs
    rcases List.mem_cons.mp hp with rfl | hp
    · simp [tget]
    · have hk := hbelow p hp
      simp only [tget, ih ht hp]
      rw [if_neg (by omega), if_neg (by omega)]

theorem goodBytes_lost {s : State} {d n : Nat} {l : RdcLine} (h : Tab.sorted l.dirty = true) :
    (s.goodBytes d n l).length < l.dirty.length ↔ l.dirty.any (fun p => s.badByte d n l p.1) = true := by
  rw [State.goodBytes, List.length_filter_lt_length_iff_exists, List.any_eq_true]
  refine exists_congr fun p => and_congr_right fun hp => ?_
  rw [State.badByte, tget_of_mem h hp]
  simp

/-- What the home gives for a byte once a line's good bytes are laid over it. -/
theorem homeByte_overlaid {s t : State} {d n : Nat} {l : RdcLine} (hs : Tab.sorted l.dirty = true) (hlow : ∀ p ∈ l.dirty, p.1 < 256)
    (hd : t.homeDirty = s.homeDirty.overlaid (n * 256) (s.goodBytes d n l)) (hmsc : t.mscDirty = s.mscDirty) (hm : t.mem = s.mem) (a : Nat) :
    t.homeByte a = if a / 256 = n ∧ s.badByte d n l (a % 256) = false then (tget l.dirty (a % 256)).getD (s.homeByte a) else s.homeByte a := by
  have hgood : Tab.sorted (s.goodBytes d n l) = true := sorted_filter _ hs
  unfold State.homeByte
  rw [hd, hmsc, hm]
  by_cases ha : a / 256 = n
  · have hsplit : a = n * 256 + a % 256 := by omega
    have hget : tget (s.homeDirty.overlaid (n * 256) (s.goodBytes d n l)) a =
        (if s.badByte d n l (a % 256) then none else tget l.dirty (a % 256)).or (tget s.homeDirty a) := by
      conv_lhs => rw [hsplit, tget_overlaid hgood, tget_goodBytes hs, ← hsplit]
    rw [hget]
    cases s.badByte d n l (a % 256) <;> cases tget l.dirty (a % 256) <;> simp [ha]
  · rw [if_neg fun h => ha h.1, tget_overlaid_outside _ fun c hc => ?_]
    have := hlow c (List.mem_filter.mp hc).1
    omega

/-- A byte of the line after its write-back: those in bad words are as they were clean. -/
theorem written_get {s : State} {d n : Nat} {l : RdcLine} (hs : Tab.sorted l.dirty = true) (o : Nat) :
    (l.written (s.goodBytes d n l)).get o = if s.badByte d n l o then tget l.clean o else l.get o := by
  have hgood : Tab.sorted (s.goodBytes d n l) = true := sorted_filter _ hs
  have hclean := tget_overlaid hgood l.clean 0 o
  rw [Nat.zero_add, tget_goodBytes hs] at hclean
  have hget : (l.written (s.goodBytes d n l)).get o = tget (l.clean.overlaid 0 (s.goodBytes d n l)) o := rfl
  rw [hget, hclean]
  cases s.badByte d n l o <;> rfl

/-- Settles O53. -/
theorem pathsAndCachesEmpty : Obligations.PathsAndCachesEmpty := by
  unfold Obligations.PathsAndCachesEmpty
  refine ⟨?_, fun s c l sc g hst hf hg hcov hp hq he => probeEcho_done hst hf hg (covers_iff.mpr hcov) (probeDone_of_none hp hq he),
    fun s c l q hq hs => probeEcho_not_done (probeDone_waits hq hs), ?_⟩
  · intro s p e ps hp ho x hg hk _
    refine ⟨fun y hy hu hc hm hr hgone => farStoreAck_performed hp ho rfl hg hk hy hu hc hm hr hgone, fun y h hy hlost => ?_⟩
    exact ⟨_, farStoreAck_lost hp ho hy hlost, rfl, fun _ => rfl, rfl, ackStore_strand rfl hg hk⟩
  · intro s d n l hl hsd hs hlow hhome hu evict
    have hmerges : ∀ c ∈ l.dirty, s.Merges (n * 256 + c.1) := by
      intro c hc
      obtain ⟨h1, h2, h3, h4⟩ := hhome c.1 (hlow c hc)
      exact ⟨h1, h2, h3, h4⟩
    obtain ⟨⟨ds, k, w, ps, hflush⟩, hrdc, hsrue⟩ := rdcFlush_line hl hu hmerges
    obtain ⟨t, ht⟩ := exists_name (s.rdcFlush d n)
    rw [ht] at hflush hrdc hsrue
    have hbytes := homeByte_overlaid (s := s) (t := t) (d := d) (n := n) hs hlow (by rw [hflush]) (by rw [hflush]) (by rw [hflush])
    have hcount : (t.die d).srue = (s.die d).srue + (if l.dirty.any (fun p => s.badByte d n l p.1) then 1 else 0) := by
      rw [hsrue]
      by_cases h : l.dirty.any (fun p => s.badByte d n l p.1) = true
      · rw [if_pos ((goodBytes_lost hs).mpr h), if_pos h]
      · rw [if_neg fun h' => h ((goodBytes_lost hs).mp h'), if_neg h]
        exact (BitVec.add_zero _).symm
    cases evict
    · refine ⟨t, congrArg Host.Outcome.next ht, hbytes, hcount, nofun, fun _ => ?_⟩
      exact ⟨_, by rw [hrdc, tget_tset_same], rfl, rfl, written_get hs⟩
    · have hdrop : exec (.rdcWriteback d n true) s = .next (t.modDie d fun x => { x with rdc := tdel x.rdc n }) := by
        rw [← ht]
        rfl
      refine ⟨_, hdrop, fun a => hbytes a, ?_, fun _ => ?_, nofun⟩
      · rw [State.die_modDie]
        exact hcount
      · rw [State.die_modDie, hrdc]
        exact tget_tdel_same n (sorted_tset n _ hsd)

end Sys2Proof.Machine
end

section
/-! THEOREM. TilesAndRingsAct (O47) fails: its clause on VLDT holds of every state, and the tiles of a core that the device does not have can lie
outside scratchpad. Core 2^25 has its tile 0 at the first byte of the CXL window (R7): the read misses that line's home cache, the miss is counted
in s.hpm5 and fills the sector (R85, R408), where the statement has nothing but the loaded register and the predictor's record change. -/

namespace Sys2Proof.Machine

open Sys2Proof.Claims

/-- A READY tile of 64 bytes at offset 0. -/
def readyTile : Word := 0x20004000000

/-- Reset, with core 2^25 at its turn and that tile its tile 0. -/
def farCore : State :=
  { State.reset with cur := (2 ^ 25, 0), cores := [(2 ^ 25, { Core.reset with tiles := vset Core.reset.tiles 0 readyTile })] }

theorem farCore_home : farCore.homeRead (farCore.tileAddr farCore.cur.1 0 0) 32 = some (List.replicate 32 0) := by decide +kernel

/-- The model counts the miss of the home cache. -/
theorem farCore_misses : ∃ u, exec (.vldt 0 0 0) farCore = .next u ∧ vget u.self.hpm 5 = 1 := by
  refine ⟨_, rfl, ?_⟩
  decide +kernel

/-- The retired strand that the statement asks for has counted none. -/
theorem farCore_asked : vget (farCore.self.putV 0 (BitVec.ofNat 256 (leNat (List.replicate 32 0)))).went.hpm 5 = 0 := by decide +kernel

/-- Refutes O47: in `farCore` VLDT counts a miss in s.hpm5, which the statement has as it was. -/
theorem not_tilesAndRingsAct : ¬ Obligations.TilesAndRingsAct := by
  unfold Obligations.TilesAndRingsAct
  rintro ⟨⟨-, -, hvector⟩, -⟩
  obtain ⟨u, hu, -, hself⟩ := (hvector farCore 0 0 0 0 (by decide +kernel) (by decide +kernel) (by decide) (by decide +kernel)
    (by decide +kernel)).1 (List.replicate 32 0) (by decide +kernel) rfl (by decide +kernel) (by decide +kernel) farCore_home
  obtain ⟨t, ht, hcounted⟩ := farCore_misses
  have htu := Host.Outcome.next.inj (ht.symm.trans hu)
  have hkept : vget u.self.hpm 5 = 0 := (congrArg (fun x : Strand => vget x.hpm 5) hself).trans farCore_asked
  rw [htu, hkept] at hcounted
  exact absurd hcounted (by decide)

end Sys2Proof.Machine
end

section
/-! SUPPORT. Tiles, rings and the one operation of a core (R74, R78, R79, R337): what marking a tile and popping a ring do. -/

namespace Sys2Proof.Machine

open Sys2Proof.Claims

/-! A tile marked (R74) -/

theorem tileState_tileWith (w : Word) (st : Nat) (z : Bool) : tileState (tileWith w st z) = st % 4 := by
  have hw := w.isLt
  unfold tileState tileWith wbits bits w64
  rw [BitVec.toNat_ofNat]
  cases z <;> simp only [if_true, Bool.false_eq_true, if_false] <;> omega

theorem vget_congr {α : Type} {n : Nat} (v : Vector α (n + 1)) {i j : Nat} (h : i % (n + 1) = j % (n + 1)) : vget v i = vget v j := by
  simp only [vget_eq, h]

theorem putTile_slots (k : Core) (t : Nat) (w : Word) : ∃ x, k.putTile t w = { k with tiles := vset k.tiles t w, slots := x } := by
  unfold Core.putTile
  dsimp only
  split
  · exact ⟨k.slots, rfl⟩
  · exact ⟨_, rfl⟩

/-- A marked tile: its entry, its owner mark, and what a core event does to the slots. -/
theorem markTile_slots (k : Core) (t st : Nat) (z own : Bool) : ∃ x, k.markTile t st z own = { k with
    tiles := vset k.tiles t (tileWith (k.tile t) st z)
    owners := if own then k.owners ||| (1#64 <<< (t % 64)) else k.owners &&& ~~~(1#64 <<< (t % 64))
    slots := x } := by
  obtain ⟨x, hx⟩ := putTile_slots { k with owners := if own then k.owners ||| (1#64 <<< (t % 64)) else k.owners &&& ~~~(1#64 <<< (t % 64)) } t
    (tileWith (k.tile t) st z)
  exact ⟨x, hx⟩

theorem markTile_tile (k : Core) (t st : Nat) (z own : Bool) (t' : Nat) :
    (k.markTile t st z own).tile t' = if t' % 64 = t % 64 then tileWith (k.tile t) st z else k.tile t' := by
  obtain ⟨x, hx⟩ := markTile_slots k t st z own
  rw [hx, Core.tile]
  dsimp only
  split
  · next h => rw [vget_congr _ h, vget_vset_same]
  · next h => exact vget_vset_ne _ _ h

theorem markTile_owned (k : Core) (t st : Nat) (z own : Bool) (t' : Nat) :
    (k.markTile t st z own).owned t' = if t' % 64 = t % 64 then own else k.owned t' := by
  have hlt : t' % 64 < 64 := Nat.mod_lt _ (by decide)
  obtain ⟨x, hx⟩ := markTile_slots k t st z own
  rw [hx, Core.owned, Core.owned]
  dsimp only
  cases own
  · rw [if_neg Bool.false_ne_true]
    by_cases h : t' % 64 = t % 64
    · simp [h]
    · simp [hlt, h]
      omega
  · rw [if_pos rfl]
    by_cases h : t' % 64 = t % 64
    · simp [h, Nat.mod_lt]
    · simp [hlt, h]
      omega

/-- What marking tiles and moving rings leave of a core. -/
def OnlyTiles (k k' : Core) : Prop := k' = { k with tiles := k'.tiles, owners := k'.owners, rings := k'.rings, slots := k'.slots }

theorem OnlyTiles.refl (k : Core) : OnlyTiles k k := rfl

theorem OnlyTiles.trans {k k' k'' : Core} (h : OnlyTiles k k') (h' : OnlyTiles k' k'') : OnlyTiles k k'' := by
  unfold OnlyTiles at *
  rw [h', h]

theorem onlyTiles_markTile (k : Core) (t st : Nat) (z own : Bool) : OnlyTiles k (k.markTile t st z own) := by
  obtain ⟨x, hx⟩ := markTile_slots k t st z own
  rw [hx]
  rfl

theorem markTile_ring (k : Core) (t st : Nat) (z own : Bool) (r : Nat) : (k.markTile t st z own).ring r = k.ring r := by
  obtain ⟨x, hx⟩ := markTile_slots k t st z own
  rw [hx]
  rfl

/-! A ring popped (R78, R79) -/

theorem onlyTiles_advHead (k : Core) (r : Nat) : OnlyTiles k (k.advHead r) := rfl

theorem onlyTiles_popRing (k : Core) (r : Nat) : OnlyTiles k (k.popRing r) := by
  rw [Core.popRing]
  exact (onlyTiles_markTile k (k.headTile r) 0 false false).trans (onlyTiles_advHead _ r)

theorem advHead_tile (k : Core) (r t : Nat) : (k.advHead r).tile t = k.tile t := rfl

theorem advHead_owned (k : Core) (r t : Nat) : (k.advHead r).owned t = k.owned t := rfl

theorem advHead_rings (k : Core) (r : Nat) : (k.advHead r).rings =
    vset k.rings r (ringWith (k.ring r) ((ringHead (k.ring r) + 1) % (2 * ringCount (k.ring r))) (ringTail (k.ring r))) := rfl

theorem advHead_ring_ne (k : Core) {r r' : Nat} (h : r' % 16 ≠ r % 16) : (k.advHead r).ring r' = k.ring r' := by
  rw [Core.ring, advHead_rings, vget_vset_ne _ _ h, Core.ring]

theorem popRing_ring_ne (k : Core) {r r' : Nat} (h : r' % 16 ≠ r % 16) : (k.popRing r).ring r' = k.ring r' := by
  rw [Core.popRing, advHead_ring_ne _ h, markTile_ring]

/-- A tile EMPTY, without an owner mark. -/
def Core.emptied (k : Core) (t : Nat) : Prop := tileState (k.tile t) = 0 ∧ k.owned t = false

theorem popRing_tile (k : Core) (r t : Nat) :
    (k.popRing r).tile t = if t % 64 = k.headTile r % 64 then tileWith (k.tile (k.headTile r)) 0 false else k.tile t := by
  rw [Core.popRing, advHead_tile, markTile_tile]

theorem popRing_owned (k : Core) (r t : Nat) : (k.popRing r).owned t = if t % 64 = k.headTile r % 64 then false else k.owned t := by
  rw [Core.popRing, advHead_owned, markTile_owned]

theorem emptied_popRing (k : Core) (r : Nat) : (k.popRing r).emptied (k.headTile r) := by
  rw [Core.emptied, popRing_tile, popRing_owned, if_pos rfl, if_pos rfl, tileState_tileWith]
  exact ⟨rfl, rfl⟩

theorem Core.emptied.popRing {k : Core} {t : Nat} (h : k.emptied t) (r : Nat) : (k.popRing r).emptied t := by
  rw [Core.emptied, popRing_tile, popRing_owned]
  split
  · exact ⟨tileState_tileWith .., rfl⟩
  · exact h

theorem headTile_congr {k k' : Core} {r r' : Nat} (h : k'.ring r' = k.ring r) : k'.headTile r' = k.headTile r := by
  rw [Core.headTile, h, Core.headTile]

theorem onlyTiles_pops (rs : List Nat) (k : Core) : OnlyTiles k (rs.foldl Core.popRing k) :=
  foldl_keeps (P := OnlyTiles k) (fun _ _ h => h.trans (onlyTiles_popRing ..)) rs (.refl k)

/-- Popping some rings empties the head tile of each. -/
theorem emptied_pops (rs : List Nat) : ∀ (k : Core), ∀ r ∈ rs, (rs.foldl Core.popRing k).emptied (k.headTile r) := by
  induction rs with
  | nil => exact fun _ _ h => absurd h List.not_mem_nil
  | cons r' rs ih =>
    intro k r hr
    rw [List.foldl_cons]
    by_cases hmod : r % 16 = r' % 16
    · have hring : k.ring r = k.ring r' := vget_congr _ hmod
      rw [headTile_congr hring]
      exact foldl_keeps (P := fun k' : Core => k'.emptied (k.headTile r')) (fun _ r h => h.popRing r) rs (emptied_popRing k r')
    · have hrs : r ∈ rs := (List.mem_cons.mp hr).resolve_left fun h => hmod (by rw [h])
      rw [← headTile_congr (popRing_ring_ne k hmod)]
      exact ih _ r hrs

/-! A core with one operation -/

theorem modOp_sole {s : State} {c : Nat} {o : EngOp} (h : (s.core c).ops = [o]) (f : EngOp → EngOp) :
    s.modOp c o.tag f = s.modCore c fun k => { k with ops := [f o] } := by
  have hops : (s.core c).ops.map (fun q => if q.tag == o.tag then f q else q) = [f o] := by rw [h]; simp
  simp only [State.modOp, State.modCore, hops]

theorem op_sole {k : Core} {o : EngOp} (h : k.ops = [o]) : k.op o.tag = some o := by
  rw [Core.op, h]
  simp

/-! Rings with nothing to settle (R79) -/

/-- No ring of the core has a withdrawn position, and no operation owes one a pop. -/
def Core.idleRings (k : Core) : Prop := k.ringWd = [] ∧ ∀ o ∈ k.ops, o.owes = []

theorem settleOnce_idle {stop : State → Nat → EngOp → Bool → State} {s : State} {c : Nat} (h : (s.core c).idleRings) (r : Nat) :
    s.settleOnce stop c r = none := by
  obtain ⟨hwd, howes⟩ := h
  have howing : (s.core c).owing r = none := by
    rw [Core.owing, List.find?_eq_none]
    intro o ho
    rw [howes o ho]
    simp
  unfold State.settleOnce
  dsimp only
  rw [hwd, howing]
  simp

theorem settleRing_idle {stop : State → Nat → EngOp → Bool → State} {s : State} {c : Nat} (h : (s.core c).idleRings) (r n : Nat) :
    State.settleRing stop c r n s = s := by
  cases n with
  | zero => rfl
  | succ n => rw [State.settleRing, settleOnce_idle h]

theorem settleCore_idle {s : State} {c : Nat} (h : (s.core c).idleRings) : s.settleCore c = s :=
  foldl_fixed _ fun r _ => settleRing_idle h r 256

end Sys2Proof.Machine
end

section
/-! SUPPORT. Engine operations begin and complete (R74, R75, R132, R226), and an MMA takes and frees its head tiles (R335, R337). -/

namespace Sys2Proof.Machine

open Sys2Proof.Claims

theorem OnlyTiles.ops {k k' : Core} (h : OnlyTiles k k') : k'.ops = k.ops := by rw [h]

theorem OnlyTiles.ringWd {k k' : Core} (h : OnlyTiles k k') : k'.ringWd = k.ringWd := by rw [h]

theorem OnlyTiles.acc {k k' : Core} (h : OnlyTiles k k') : k'.acc = k.acc := by rw [h]

/-- A tile DRAINING under an owner mark (R74). -/
def Core.draining (k : Core) (t : Nat) : Prop := tileState (k.tile t) = 3 ∧ k.owned t = true

theorem draining_markTile (k : Core) (t : Nat) (z : Bool) : (k.markTile t 3 z true).draining t := by
  rw [Core.draining, markTile_tile, markTile_owned, if_pos rfl, if_pos rfl, tileState_tileWith]
  exact ⟨rfl, rfl⟩

theorem Core.draining.markTile {k : Core} {t : Nat} (h : k.draining t) (t' : Nat) (z : Bool) : (k.markTile t' 3 z true).draining t := by
  rw [Core.draining, markTile_tile, markTile_owned]
  split
  · exact ⟨tileState_tileWith .., rfl⟩
  · exact h

/-! An MLD begins (R75, R339) -/

/-- An operation of the matrix engine, alone on its core and waiting, is the one to begin. -/
theorem engineOpBegin_sole {s : State} {c : Nat} {o : EngOp} (hops : (s.core c).ops = [o]) (he : o.eng = 0) (hst : o.st = .queued)
    (hcancel : o.cancel = none) (hres : o.res = none) (hcomb : o.comb = none) : exec (.engineOpBegin c 0) s = .next (s.beginTiled c o) := by
  have h : exec (.engineOpBegin c 0) s = execEngineOpBegin c 0 s := rfl
  have hstarted : o.started = false := by
    rw [EngOp.started, hres, hcomb, hst]
    simp
  have hfind : ([o].find? fun o => o.eng == 0 && o.cancel.isNone && !o.started) = some o := by
    simp [he, hcancel, hstarted]
  rw [h, execEngineOpBegin, hops, hfind]
  simp [he, hst, hstarted]

/-- The state in which an MLD has begun on tile `t`. -/
def State.mldBegun (s : State) (c : Nat) (o : EngOp) (t : Nat) : State :=
  (s.setCore c ((s.core c).markTile t 3 (tileZero ((s.core c).tile t)) true)).modOp c o.tag fun o =>
    { o with st := .begun, src := some t, pop := none, fill := none, zero := true }

theorem beginTiled_mld {s : State} {c : Nat} {o : EngOp} (he : o.eng = 0) (hcmd : o.cmd = 0x12)
    (hsize : 1024 ≤ tileSize ((s.core c).tile (o.gb.toNat % 64))) (hst : tileState ((s.core c).tile (o.gb.toNat % 64)) = 2)
    (hown : (s.core c).owned (o.gb.toNat % 64) = false) : s.beginTiled c o = s.mldBegun c o (o.gb.toNat % 64) := by
  have hsrc : o.srcTile (s.core c) = some (o.gb.toNat % 64, none) := by simp only [EngOp.srcTile, he, hcmd]
  have hdst : o.dstTile (s.core c) = none := by simp only [EngOp.dstTile, he, hcmd]
  have hreach : o.srcReach = (0, 1023) := by simp only [EngOp.srcReach, he, hcmd]
  have hfits : (s.core c).fits (o.gb.toNat % 64) (0, 1023) = true := decide_eq_true ⟨le_rfl, by dsimp only; omega⟩
  have hsized : (tileSize ((s.core c).tile (o.gb.toNat % 64)) == 0) = false := beq_false_of_ne (by omega)
  unfold State.beginTiled
  dsimp only
  rw [hsrc, hdst, hreach]
  simp only [Option.map_some, Option.bind_some, hsized, hst, hown, hfits]
  rfl

theorem modOp_setCore (s : State) (c : Nat) {k : Core} {o : EngOp} (h : k.ops = [o]) (f : EngOp → EngOp) :
    (s.setCore c k).modOp c o.tag f = s.setCore c { k with ops := [f o] } := by
  rw [modOp_sole (by rw [State.core_setCore, h]), State.modCore, State.core_setCore, State.setCore_setCore]

theorem mldBegun_eq {s : State} {c : Nat} {o : EngOp} (hops : (s.core c).ops = [o]) (t : Nat) : s.mldBegun c o t =
    s.setCore c { (s.core c).markTile t 3 (tileZero ((s.core c).tile t)) true with
      ops := [{ o with st := .begun, src := some t, pop := none, fill := none, zero := true }] } := by
  have hmark := (onlyTiles_markTile (s.core c) t 3 (tileZero ((s.core c).tile t)) true).ops.trans hops
  rw [State.mldBegun, modOp_setCore s c hmark]

/-- An MLD begins: its tile is DRAINING under its owner mark. -/
theorem mld_begins {s : State} {c : Nat} {o : EngOp} (hops : (s.core c).ops = [o]) (he : o.eng = 0) (hcmd : o.cmd = 0x12)
    (hst : o.st = .queued) (hcancel : o.cancel = none) (hres : o.res = none) (hcomb : o.comb = none)
    (hsize : 1024 ≤ tileSize ((s.core c).tile (o.gb.toNat % 64))) (hready : tileState ((s.core c).tile (o.gb.toNat % 64)) = 2)
    (hown : (s.core c).owned (o.gb.toNat % 64) = false) : ∃ u, exec (.engineOpBegin c 0) s = .next u ∧ sameBytes s u ∧
      (u.core c).ops = [{ o with st := .begun, src := some (o.gb.toNat % 64), pop := none, fill := none, zero := true }] ∧
      tileState ((u.core c).tile (o.gb.toNat % 64)) = 3 ∧ (u.core c).owned (o.gb.toNat % 64) = true := by
  refine ⟨_, engineOpBegin_sole hops he hst hcancel hres hcomb, ?_⟩
  have hdrain := draining_markTile (s.core c) (o.gb.toNat % 64) (tileZero ((s.core c).tile (o.gb.toNat % 64)))
  rw [beginTiled_mld he hcmd hsize hready hown, mldBegun_eq hops]
  obtain ⟨k, hk⟩ := exists_name ((s.core c).markTile (o.gb.toNat % 64) 3 (tileZero ((s.core c).tile (o.gb.toNat % 64))) true)
  rw [hk] at hdrain ⊢
  rw [State.core_setCore]
  exact ⟨fun _ => rfl, rfl, hdrain⟩

/-! An MMA takes its head tiles (R75, R335, R337) -/

/-- The operation that the next tile step of a core is one of. -/
theorem mma_found {s : State} {c : Nat} {o : EngOp} (h : mmaAt s c o) (hgo : o.takes ≠ [] ∨ o.cancel = none ∧ o.step < o.mmaSteps) :
    ((s.core c).ops.find? fun o => o.eng == 0 && decide (o.cmd ≤ 11) && o.st == .begun
      && (!o.takes.isEmpty || (o.cancel.isNone && decide (o.step < o.mmaSteps)))) = some o := by
  obtain ⟨hops, he, hcmd, -, hst, -, -, -⟩ := h
  have hgoes : (!o.takes.isEmpty || (o.cancel.isNone && decide (o.step < o.mmaSteps))) = true := by
    rcases hgo with ht | ⟨hcancel, hstep⟩
    · simp [ht]
    · simp [hcancel, hstep]
  rw [hops]
  simp [he, hcmd, hst, hgoes]

theorem mmaStep_ends {s : State} {c : Nat} {o : EngOp} (h : mmaAt s c o) (ht : o.takes ≠ []) :
    exec (.mmaStep c) s = .next (if o.takes.contains o.rb then s.mmaStrict c o else s.mmaFree c o) := by
  have hexec : exec (.mmaStep c) s = execMmaStep c s := rfl
  have hmore : (!o.takes.isEmpty) = true := by simp [ht]
  rw [hexec, execMmaStep, mma_found h (.inl ht)]
  exact if_pos hmore

theorem ra_mem_mmaTakes (k : Core) (o : EngOp) : o.ra ∈ mmaTakes k o := by
  unfold mmaTakes EngOp.mmaRings
  split <;> simp

/-- The rings whose tiles the step takes, by NS and the A tile's Z. -/
theorem mmaTakes_eq (k : Core) (o : EngOp) :
    mmaTakes k o = if o.mmaNs && tileZero (k.tile (k.headTile o.ra)) then o.freeRings else o.mmaRings := by
  unfold mmaTakes EngOp.mmaNs wbit
  simp only [Bool.and_eq_true]
  rfl

theorem mmaStep_begins {s : State} {c : Nat} {o : EngOp} (h : mmaAt s c o) (ht : o.takes = []) (hcancel : o.cancel = none)
    (hstep : o.step < o.mmaSteps) (hready : ∀ r ∈ mmaTakes (s.core c) o, (s.core c).headReady r = true)
    (hsize : ∀ r ∈ mmaTakes (s.core c) o,
      (if r = o.ra ∨ r = o.rb then 1024 else 64) ≤ tileSize ((s.core c).tile ((s.core c).headTile r))) :
    exec (.mmaStep c) s = .next (s.mmaTake c o (mmaTakes (s.core c) o)) := by
  have hexec : exec (.mmaStep c) s = execMmaStep c s := rfl
  have hra := ra_mem_mmaTakes (s.core c) o
  have hrasize : 1024 ≤ tileSize ((s.core c).tile ((s.core c).headTile o.ra)) := by
    have := hsize o.ra hra
    rwa [if_pos (.inl rfl)] at this
  have hlarge (r : Nat) (hr : r ∈ mmaTakes (s.core c) o) (hne : r ≠ o.ra) :
      (if r = o.rb then 1024 else 64) ≤ tileSize ((s.core c).tile ((s.core c).headTile r)) := by
    have := hsize r hr
    simpa [hne] using this
  obtain ⟨rs, hrs⟩ := exists_name (mmaTakes (s.core c) o)
  have hany : (rs.any fun r => tileSize ((s.core c).tile ((s.core c).headTile r)) == 0) = false := by
    rw [List.any_eq_false]
    intro r hr
    have := hsize r (hrs ▸ hr)
    split at this <;> simp <;> omega
  have hall : rs.all (s.core c).headReady = true := List.all_eq_true.mpr fun r hr => hready r (hrs ▸ hr)
  have hsmall : (decide (tileSize ((s.core c).tile ((s.core c).headTile o.ra)) < 1024) || (rs.filter (· != o.ra)).any fun r =>
      decide (tileSize ((s.core c).tile ((s.core c).headTile r)) < if r = o.rb then 1024 else 64)) = false := by
    rw [Bool.or_eq_false_iff, List.any_eq_false]
    refine ⟨decide_eq_false (by omega), fun r hr => ?_⟩
    obtain ⟨hr, hne⟩ := List.mem_filter.mp hr
    have := hlarge r (hrs ▸ hr) (by simpa using hne)
    simpa using this
  rw [hrs]
  rw [mmaTakes_eq] at hrs
  rw [hexec, execMmaStep, mma_found h (.inr ⟨hcancel, hstep⟩)]
  have hrazero : (tileSize ((s.core c).tile ((s.core c).headTile o.ra)) != 0) = true := by simp; omega
  dsimp only
  rw [ht, hrazero, Bool.and_true, hready o.ra hra]
  cases hns : o.mmaNs
  · rw [hns] at hrs
    have hrs : o.mmaRings = rs := hrs
    rw [hrs, hany, hall]
    exact congrArg Host.Outcome.next (if_neg (Bool.eq_false_iff.mp hsmall))
  · rw [hns, Bool.true_and] at hrs
    rw [hrs, hany, hall]
    exact congrArg Host.Outcome.next (if_neg (Bool.eq_false_iff.mp hsmall))

/-- Head tiles marked under way, one ring's after another. -/
def Core.taken (k : Core) (rings : List Nat) : Core :=
  rings.foldl (fun (k : Core) r => k.markTile (k.headTile r) 3 (tileZero (k.tile (k.headTile r))) true) k

theorem onlyTiles_taken (k : Core) (rings : List Nat) : OnlyTiles k (k.taken rings) :=
  foldl_keeps (P := OnlyTiles k) (fun k' _ h => h.trans (onlyTiles_markTile k' _ _ _ _)) rings (.refl k)

/-- Each of the head tiles is then DRAINING under an owner mark. -/
theorem draining_taken (rings : List Nat) : ∀ (k : Core), ∀ r ∈ rings, (k.taken rings).draining (k.headTile r) := by
  induction rings with
  | nil => exact fun _ _ h => absurd h List.not_mem_nil
  | cons r' rings ih =>
    intro k r hr
    have hstep : k.taken (r' :: rings) = (k.markTile (k.headTile r') 3 (tileZero (k.tile (k.headTile r'))) true).taken rings := rfl
    have hmark := draining_markTile k (k.headTile r') (tileZero (k.tile (k.headTile r')))
    have hhead := headTile_congr (markTile_ring k (k.headTile r') 3 (tileZero (k.tile (k.headTile r'))) true r)
    rw [hstep]
    obtain ⟨k', hk'⟩ := exists_name (k.markTile (k.headTile r') 3 (tileZero (k.tile (k.headTile r'))) true)
    rw [hk'] at hmark hhead ⊢
    rcases List.mem_cons.mp hr with rfl | hr
    · exact foldl_keeps (P := fun k' : Core => k'.draining (k.headTile r)) (fun k' r h => h.markTile (k'.headTile r) _) rings hmark
    · rw [← hhead]
      exact ih k' r hr

/-- A step begins: the head tiles that it takes are DRAINING. -/
theorem mmaTake_drains {s : State} {c : Nat} {o : EngOp} (hops : (s.core c).ops = [o]) (rings : List Nat) :
    sameBytes s (s.mmaTake c o rings) ∧ ((s.mmaTake c o rings).core c).ops = [{ o with takes := rings }] ∧
      ∀ r ∈ rings, ((s.mmaTake c o rings).core c).draining ((s.core c).headTile r) := by
  have htake : s.mmaTake c o rings = (s.setCore c ((s.core c).taken rings)).modOp c o.tag fun o => { o with takes := rings } := rfl
  have hdrain := draining_taken rings (s.core c)
  have hkops := (onlyTiles_taken (s.core c) rings).ops.trans hops
  obtain ⟨k, hk⟩ := exists_name ((s.core c).taken rings)
  rw [hk] at htake hdrain hkops
  rw [htake, modOp_setCore s c hkops, State.core_setCore]
  exact ⟨fun _ => rfl, rfl, hdrain⟩

/-! A non-strict step ends (R337) -/

/-- A core that has freed the tiles `ts`: it has the accumulators `acc`, no withdrawn position, and one operation of the matrix engine, at `step`. -/
structure MmaFreed (s : State) (c step : Nat) (acc : Memory) (ts : List Nat) (u : State) : Prop where
  cores : ∃ cs, u = { s with cores := cs }
  acc : (u.core c).acc = acc
  ringWd : (u.core c).ringWd = []
  op : ∃ q, (u.core c).ops = [q] ∧ q.eng = 0 ∧ q.step = step ∧ q.takes = []
  emptied : ∀ t ∈ ts, (u.core c).emptied t

/-- All that settles at a ring then is an owed pop of its READY head tile. -/
theorem settleOnce_owed {stop : State → Nat → EngOp → Bool → State} {s : State} {c : Nat} {q : EngOp} (hops : (s.core c).ops = [q])
    (he : q.eng = 0) (hwd : (s.core c).ringWd = []) (r : Nat) : s.settleOnce stop c r = none ∨
      s.settleOnce stop c r = some ((s.setCore c ((s.core c).popRing r)).modOp c q.tag fun o => { o with owes := o.owes.erase r }) := by
  have howing : (s.core c).owing r = if q.owes.contains r then some q else none := by
    rw [Core.owing, hops, List.find?_cons, List.find?_nil]
    cases q.owes.contains r <;> rfl
  have hns : q.ns = false := by rw [EngOp.ns, he]; rfl
  unfold State.settleOnce
  dsimp only
  rw [hwd, howing, hops]
  split
  · exact .inl rfl
  · cases q.owes.contains r
    · exact .inl rfl
    · simp only [List.contains_nil, Bool.false_eq_true, if_false, if_true]
      split
      · exact .inr rfl
      · simp [hns]

theorem MmaFreed.settled {s u u' : State} {c step : Nat} {acc : Memory} {ts : List Nat} {stop : State → Nat → EngOp → Bool → State} {r : Nat}
    (h : MmaFreed s c step acc ts u) (hu : u.settleOnce stop c r = some u') : MmaFreed s c step acc ts u' := by
  obtain ⟨⟨cs, hcs⟩, hacc, hwd, ⟨q, hops, he, hstep, htakes⟩, hemp⟩ := h
  rcases settleOnce_owed (stop := stop) hops he hwd r with hnone | hsome
  · rw [hnone] at hu
    cases hu
  · have hpop := onlyTiles_popRing (u.core c) r
    have hpopped (t : Nat) (ht : t ∈ ts) : ((u.core c).popRing r).emptied t := (hemp t ht).popRing r
    obtain ⟨k, hk⟩ := exists_name ((u.core c).popRing r)
    rw [hk] at hsome hpop hpopped
    rw [hsome, modOp_setCore u c (hpop.ops.trans hops)] at hu
    cases hu
    refine ⟨⟨_, by rw [hcs]; rfl⟩, ?_, ?_, ?_, ?_⟩ <;> rw [State.core_setCore]
    · exact hpop.acc.trans hacc
    · exact hpop.ringWd.trans hwd
    · exact ⟨_, rfl, he, hstep, htakes⟩
    · exact hpopped

theorem MmaFreed.settleRing {s : State} {c step : Nat} {acc : Memory} {ts : List Nat} {stop : State → Nat → EngOp → Bool → State} {r : Nat}
    (n : Nat) : ∀ {u : State}, MmaFreed s c step acc ts u → MmaFreed s c step acc ts (State.settleRing stop c r n u) := by
  induction n with
  | zero => exact fun h => h
  | succ n ih =>
    intro u h
    rw [State.settleRing]
    split
    · next u' hu => exact ih (h.settled hu)
    · exact h

theorem MmaFreed.settleCore {s u : State} {c step : Nat} {acc : Memory} {ts : List Nat} (h : MmaFreed s c step acc ts u) :
    MmaFreed s c step acc ts (u.settleCore c) := by
  unfold State.settleCore State.settleRings
  exact foldl_keeps (P := MmaFreed s c step acc ts) (fun _ _ h => h.settleRing 256) (List.range 16) h

/-- The operation after a non-strict step: it owes the pops of the tiles that it left unread. -/
def EngOp.freed (o : EngOp) : EngOp :=
  { o with step := o.step + 1, takes := [], owes := o.owes ++ [o.rb] ++ if (pairScaled o.cmd).2 then [o.srb] else [] }

theorem mmaFree_eq (s : State) (c : Nat) (o : EngOp) : s.mmaFree c o =
    ((s.setCore c (o.takes.foldl Core.popRing { s.core c with acc := zeroAcc o (s.core c).acc })).modOp c o.tag EngOp.freed).settleCore c := by
  unfold State.mmaFree State.modCore
  rfl

/-- A non-strict step ends: the accumulator takes a product of zeros, and the tiles that it took are popped. -/
theorem mmaFree_frees {s : State} {c : Nat} {o : EngOp} (h : mmaAt s c o) :
    MmaFreed s c (o.step + 1) (zeroAcc o (s.core c).acc) (o.takes.map (s.core c).headTile) (s.mmaFree c o) := by
  obtain ⟨hops, he, -, -, -, -, hwd, -⟩ := h
  have hpops := onlyTiles_pops o.takes { s.core c with acc := zeroAcc o (s.core c).acc }
  have hemp := emptied_pops o.takes { s.core c with acc := zeroAcc o (s.core c).acc }
  rw [mmaFree_eq]
  obtain ⟨k, hk⟩ := exists_name (o.takes.foldl Core.popRing { s.core c with acc := zeroAcc o (s.core c).acc })
  rw [hk] at hpops hemp ⊢
  rw [modOp_setCore s c (hpops.ops.trans hops)]
  refine MmaFreed.settleCore ⟨⟨_, rfl⟩, ?_, ?_, ?_, ?_⟩ <;> rw [State.core_setCore]
  · exact hpops.acc
  · exact hpops.ringWd.trans hwd
  · exact ⟨o.freed, rfl, he, rfl, rfl⟩
  · intro t ht
    obtain ⟨r, hr, rfl⟩ := List.mem_map.mp ht
    exact hemp r hr

/-! An operation completes (R132, R226) -/

theorem seePart_none {s : State} {c : Nat} {o : EngOp} (hops : (s.core c).ops = [o]) (hpart : o.part = []) : s.seePart c o.tag = s := by
  unfold State.seePart
  rw [op_sole hops, Option.map_some, hpart]

/-- An operation that names no tile and no join, alone on its core, leaves the queue and the pegs and sends its completion word. -/
theorem endOp_sole {s : State} {c : Nat} {o : EngOp} (hops : (s.core c).ops = [o]) (hfill : o.fill = none) (hclaim : o.claim = none)
    (hsrc : o.src = none) (hpart : o.part = []) (hjoins : o.joins = []) (hfwd : o.fwd = none) (hdest : o.dest ≠ 0)
    (hscope : o.scope = 5 → (∀ y, s.upToDate y = true) ∧ s.homeDirty = [] ∧ s.mscDirty = []) (status count : Nat) :
    ∃ ps, (∀ n p, vget ps n = some p → p.op ≠ o.tag.setWidth 8) ∧ s.endOp c o status count =
      { s.modCore c fun k => { k with pegs := ps, ops := [] } with comps := s.comps ++
        [⟨c, o.slot, o.gen, o.dest, o.tag, completionWord status o.eng count, some o.scope, o.key⟩] } := by
  obtain ⟨ps, hps⟩ := exists_name ((s.core c).pegs.map fun (p : Option Peg) => match p with
    | some g => if g.of o then none else some g
    | none => none)
  refine ⟨ps, fun n p hp => ?_, ?_⟩
  · rw [← hps, vget_eq, Vector.getElem_map] at hp
    split at hp
    · split at hp
      · cases hp
      · next hof =>
        cases hp
        simpa [Peg.of] using hof
    · cases hp
  · have hfilter : (s.core c).ops.filter (fun q => q.tag != o.tag) = [] := by rw [hops]; simp
    have hflush : (if o.scope = 5 then (s.modCore c fun k => { k with pegs := ps, ops := [] }).flushCxl else
        s.modCore c fun k => { k with pegs := ps, ops := [] }) = s.modCore c fun k => { k with pegs := ps, ops := [] } := by
      split
      · next h5 =>
        obtain ⟨hu, hd, hm⟩ := hscope h5
        have honly : OnlyCores s (s.modCore c fun k => { k with pegs := ps, ops := [] }) := onlyCores_modCore s c fun _ => ⟨rfl, rfl, rfl⟩
        exact flushCxl_clean (fun y => (honly.upToDate y).trans (hu y)) hd hm
      · rfl
    unfold State.endOp
    dsimp only
    rw [seePart_none hops hpart, hfill, hclaim, hsrc, hjoins]
    dsimp only
    rw [hfilter, List.foldl_nil, State.sendCompletion, hfwd]
    dsimp only
    rw [if_neg hdest]
    subst hps
    exact congrArg (fun t : State => ({ t with comps := t.comps ++
      [⟨c, o.slot, o.gen, o.dest, o.tag, completionWord status o.eng count, some o.scope, o.key⟩] } : State)) hflush

/-- An operation of the copy engine whose units are done ends. -/
theorem engineOpComplete_done {s : State} {c : Nat} {o : EngOp} (hops : (s.core c).ops = [o]) (he : o.eng = 1) (hst : o.st = .begun)
    (hres : o.res = none) (hcancel : o.cancel = none) (hstep : o.step = o.units) (hpart : o.part = []) :
    exec (.engineOpComplete c o.tag) s = .next ((s.endOp c o 0 o.step).settleCore c) := by
  have hexec : exec (.engineOpComplete c o.tag) s = execEngineOpComplete c o.tag s := rfl
  have hop := op_sole hops
  have hunits : s.completeUnits c o = s.finishUnits c o := by
    rw [State.completeUnits, he, hcancel]
    rfl
  have hrun : s.runUnits c o (o.units - o.step) o.step = (s, none) := by
    rw [hstep, Nat.sub_self, State.runUnits, seePart_none hops hpart]
  have hend : s.endNow c o.tag 0 = s.endOp c o 0 o.step := by rw [State.endNow, hop]
  rw [hexec, execEngineOpComplete, hop]
  dsimp only
  rw [hst, hres]
  dsimp only
  rw [hunits, State.finishUnits, hrun]
  dsimp only
  rw [hend]

/-- A finished copy sends its completion word and leaves the queue and the pegs. -/
theorem copy_completes {s : State} {c : Nat} {o : EngOp} (hops : (s.core c).ops = [o]) (he : o.eng = 1) (hst : o.st = .begun)
    (hres : o.res = none) (hcancel : o.cancel = none) (hstep : o.step = o.units) (hfill : o.fill = none) (hclaim : o.claim = none)
    (hsrc : o.src = none) (hpart : o.part = []) (hjoins : o.joins = []) (hfwd : o.fwd = none) (hdest : o.dest ≠ 0)
    (hwd : (s.core c).ringWd = [])
    (hscope : o.scope = 5 → s.cores.all (fun k => s.upToDate k.1) = true ∧ s.homeDirty = [] ∧ s.mscDirty = []) :
    ∃ u, exec (.engineOpComplete c o.tag) s = .next u ∧ sameBytes s u ∧ opEnds s u c o 0 o.step true := by
  obtain ⟨ps, hps, hend⟩ := endOp_sole hops hfill hclaim hsrc hpart hjoins hfwd hdest
    (fun h5 => ⟨upToDate_of_all (hscope h5).1, (hscope h5).2⟩) 0 o.step
  refine ⟨_, engineOpComplete_done hops he hst hres hcancel hstep hpart, ?_⟩
  obtain ⟨u, hu⟩ := exists_name (s.endOp c o 0 o.step)
  rw [hu] at hend ⊢
  have hcore : u.core c = { s.core c with pegs := ps, ops := [] } := by
    have hfield (t : State) (cs : List Completion) : ({ t with comps := cs } : State).core c = t.core c := rfl
    rw [hend, hfield, State.core_modCore]
  have hidle : (u.core c).idleRings := by
    rw [hcore]
    exact ⟨hwd, fun _ h => absurd h List.not_mem_nil⟩
  rw [settleCore_idle hidle, opEnds, hcore, hfill, hsrc]
  refine ⟨fun a => by rw [hend]; rfl, rfl, hps, by rw [hend]; rfl, nofun, nofun⟩

end Sys2Proof.Machine
end

section
/-! SUPPORT. What a strict tile step reads (R299, R333 to R335): a row of elements is taken from the bytes of its elements alone, so that the rows
read and the whole tiles give the accumulators one value. -/

namespace Sys2Proof.Machine

open Sys2Proof.Claims

/-! Reads at the home (R66, R84, R101) -/

/-- Whether a byte lies in an uncorrectable sector that no cache on its way holds. -/
def State.unheld (s : State) (a : Nat) : Bool :=
  s.badSectors.contains (a / 64 * 64) && !s.masked a && !s.homeHolds (a / 64) && !s.mscHolds (a / 64)

/-- A byte as a read at the home gives it. -/
def State.gives (s : State) (a : Nat) : Byte :=
  match regionOf (localOf a) with
  | .spad _ off => if off < 0x80000 then mget s.mem a else 0
  | .devid => BitVec.ofNat 8 (devOf a / 256 ^ (a % 8))
  | .dieBlock _ _ => 0
  | _ => s.homeByte a

theorem homeRead_eq (s : State) (pa n : Nat) : s.homeRead pa n = if (List.range n).any (fun i => s.lostHome (pa + i)) then none
    else if (List.range n).any (fun i => s.unheld (pa + i)) then none else some ((List.range n).map fun i => s.gives (pa + i)) := by
  unfold State.homeRead State.homeGet
  dsimp only
  rw [List.any_map, List.map_map]
  rfl

theorem homeRead_iff {s : State} {pa n : Nat} {bs : List Byte} : s.homeRead pa n = some bs ↔
    (∀ i, i < n → s.lostHome (pa + i) = false ∧ s.unheld (pa + i) = false) ∧ bs = (List.range n).map fun i => s.gives (pa + i) := by
  have hany (f : Nat → Bool) : (List.range n).any (fun i => f (pa + i)) = false ↔ ∀ i, i < n → f (pa + i) = false := by
    simp [List.any_eq_false]
  rw [homeRead_eq]
  constructor
  · intro h
    split at h
    · cases h
    · next hlost =>
      split at h
      · cases h
      · next hheld =>
        rw [Bool.not_eq_true, hany] at hlost hheld
        exact ⟨fun i hi => ⟨hlost i hi, hheld i hi⟩, (Option.some.inj h).symm⟩
  · rintro ⟨h, rfl⟩
    rw [(hany s.lostHome).mpr fun i hi => (h i hi).1, (hany s.unheld).mpr fun i hi => (h i hi).2]
    rfl

theorem homeRead_length {s : State} {pa n : Nat} {bs : List Byte} (h : s.homeRead pa n = some bs) : bs.length = n := by
  rw [(homeRead_iff.mp h).2]
  simp

/-- A part of what is read at the home is read there. -/
theorem homeRead_part {s : State} {pa m : Nat} {bs : List Byte} (h : s.homeRead pa m = some bs) {i n : Nat} (hn : i + n ≤ m) :
    s.homeRead (pa + i) n = some ((bs.drop i).take n) := by
  obtain ⟨hgood, rfl⟩ := homeRead_iff.mp h
  refine homeRead_iff.mpr ⟨fun j hj => ?_, ?_⟩
  · rw [Nat.add_assoc]
    exact hgood (i + j) (by omega)
  · refine List.ext_getElem (by simp; omega) fun j h1 h2 => ?_
    simp [Nat.add_assoc]

/-! Reads in an engine's unit (R329) -/

theorem E_bind_ok {α β : Type} {x : E α} {f : α → E β} {s t : State} {a : α} (h : x.run s = .ok (a, t)) : (x >>= f).run s = (f a).run t := by
  rw [StateT.run_bind, h]
  rfl

/-- A list of reads that each keep `P` gives what each gives, and keeps `P`. -/
theorem mapM_gives {α β : Type} {P : State → Prop} {f : α → E β} {g : α → β} : ∀ (l : List α),
    (∀ x ∈ l, ∀ s, P s → ∃ t, (f x).run s = .ok (g x, t) ∧ P t) → ∀ {s : State}, P s → ∃ t, (l.mapM f).run s = .ok (l.map g, t) ∧ P t := by
  intro l
  induction l with
  | nil => exact fun _ s hs => ⟨s, rfl, hs⟩
  | cons x l ih =>
    intro h s hs
    obtain ⟨t, ht, hpt⟩ := h x (by simp) s hs
    obtain ⟨u, hu, hpu⟩ := ih (fun y hy => h y (List.mem_cons_of_mem _ hy)) hpt
    refine ⟨u, ?_, hpu⟩
    rw [List.mapM_cons, E_bind_ok ht, E_bind_ok hu]
    rfl

theorem tileRead_gives {s : State} {c t off n : Nat} {bs : List Byte} (hu : s.upToDate c = true)
    (h : s.homeRead (s.tileAddr c t off) n = some bs) : (tileRead c t off n).run s = .ok (bs, s) := by
  have hdue : (modify fun s => s.applyDue c : E PUnit).run s = .ok (⟨⟩, s) := congrArg (fun t => Except.ok (PUnit.unit, t)) (applyDue_upToDate hu)
  have hget : (get : E State).run s = .ok (s, s) := rfl
  rw [tileRead, E_bind_ok hdue, E_bind_ok hget, h]
  rfl

theorem tileAddr_add (s : State) (c t off : Nat) : s.tileAddr c t off = s.tileAddr c t 0 + off := by
  simp only [State.tileAddr, Nat.add_zero]

/-- Rows of a tile, the bytes past the first `n` of each as zeros (R299). -/
def rowsOf (stride n : Nat) (bs : List Byte) : List Byte :=
  ((List.range 16).map fun m => (bs.drop (stride * m)).take n).flatMap fun r => r ++ List.replicate (stride - n) 0

theorem rowsRead_gives {s : State} {c t stride n : Nat} {bs : List Byte} (hu : s.upToDate c = true)
    (h : s.homeRead (s.tileAddr c t 0) (16 * stride) = some bs) (hn : n ≤ stride) :
    (rowsRead c t stride n).run s = .ok (rowsOf stride n bs, s) := by
  have hrow : ∀ m ∈ List.range 16, ∀ u, u = s → ∃ v, (tileRead c t (stride * m) n).run u = .ok ((bs.drop (stride * m)).take n, v) ∧ v = s := by
    rintro m hm u rfl
    have hm : m < 16 := List.mem_range.mp hm
    have hle : stride * m + n ≤ 16 * stride := by nlinarith
    have hread := homeRead_part h hle
    rw [← tileAddr_add] at hread
    exact ⟨u, tileRead_gives hu hread, rfl⟩
  obtain ⟨u, hrows, rfl⟩ := mapM_gives _ hrow rfl
  rw [rowsRead, E_bind_ok hrows]
  rfl

/-! Elements of a row (R333) -/

/-- One of several rows of `w` bytes, laid out one after another. -/
theorem flatten_row {w : Nat} : ∀ (l : List (List Byte)), (∀ r ∈ l, r.length = w) → ∀ {m : Nat} {r : List Byte}, l[m]? = some r →
    (l.flatten.drop (w * m)).take w = r := by
  intro l
  induction l with
  | nil => intro _ m r h; simp at h
  | cons x l ih =>
    intro hlen m r h
    have hx : x.length = w := hlen x (by simp)
    rw [List.flatten_cons]
    cases m with
    | zero =>
      rw [List.getElem?_cons_zero] at h
      cases h
      rw [Nat.mul_zero, List.drop_zero, List.take_left' hx]
    | succ m =>
      rw [List.getElem?_cons_succ] at h
      have hdrop : w * (m + 1) = x.length + w * m := by rw [hx]; ring
      rw [hdrop, List.drop_append, List.drop_eq_nil_of_le (Nat.le_add_right ..), List.nil_append, Nat.add_sub_cancel_left]
      exact ih (fun y hy => hlen y (List.mem_cons_of_mem _ hy)) h

/-- A row read for its first bytes has the bytes of the whole row. -/
theorem rowsOf_row {stride n m : Nat} {bs : List Byte} (hlen : bs.length = 16 * stride) (hn : n ≤ stride) (hm : m < 16) :
    ((rowsOf stride n bs).drop (stride * m)).take n = (bs.drop (stride * m)).take n := by
  obtain ⟨f, hf⟩ := exists_name fun m => (bs.drop (stride * m)).take n ++ List.replicate (stride - n) (0 : Byte)
  have hpart (m : Nat) (hm : m < 16) : ((bs.drop (stride * m)).take n).length = n := by
    have : stride * m + n ≤ 16 * stride := by nlinarith
    rw [List.length_take, List.length_drop]
    omega
  have hrows : rowsOf stride n bs = ((List.range 16).map f).flatten := by
    rw [rowsOf, List.flatMap_map, List.flatMap_def, hf]
  have hrow := flatten_row ((List.range 16).map f) (w := stride) (fun r hr => by
    obtain ⟨m, hm, rfl⟩ := List.mem_map.mp hr
    rw [← hf, List.length_append, hpart m (List.mem_range.mp hm), List.length_replicate]
    omega) (m := m) (r := f m) (by simp [hm])
  rw [hrows]
  calc (((List.range 16).map f).flatten.drop (stride * m)).take n
      = ((((List.range 16).map f).flatten.drop (stride * m)).take stride).take n := by rw [List.take_take, Nat.min_eq_left hn]
    _ = (bs.drop (stride * m)).take n := by rw [hrow, ← hf, List.take_left' (hpart m hm)]

theorem elemAt_congr {cd n i : Nat} {a b : List Byte} (h : a.take n = b.take n) (hi : elemOff cd i + elemBytes cd ≤ n) :
    elemAt cd a i = elemAt cd b i := by
  have hpart (l : List Byte) : (l.drop (elemOff cd i)).take (elemBytes cd) = ((l.take n).drop (elemOff cd i)).take (elemBytes cd) := by
    rw [List.drop_take, List.take_take, Nat.min_eq_left (by omega)]
  rw [elemAt, elemAt, hpart a, hpart b, h]

theorem elem_in_run {cd n i : Nat} (h : i < n) : elemOff cd i + elemBytes cd ≤ runBytes cd n := by
  unfold elemOff runBytes
  split
  · next h4 =>
    have : elemBytes cd = 1 := by rw [elemBytes, h4]; rfl
    omega
  · calc i * elemBytes cd + elemBytes cd = (i + 1) * elemBytes cd := by ring
      _ ≤ n * elemBytes cd := Nat.mul_le_mul_right _ h

theorem codeWidth_le (cd : Nat) : codeWidth cd ≤ 64 := by
  have hint : ∀ p, intFmt cd = some p → p.1 ≤ 64 := by
    intro p
    unfold intFmt
    split <;> rintro ⟨⟩ <;> decide
  unfold codeWidth
  split
  case h_9 =>
    split
    · next h => exact hint _ h
    · decide
  all_goals decide

theorem elemBytes_le (cd : Nat) : elemBytes cd ≤ 8 := by
  have := codeWidth_le cd
  unfold elemBytes
  split <;> omega

/-- A K-chunk's elements fill at most 64 bytes of a row. -/
theorem run_in_row {cd n : Nat} (h : n ≤ elemKc cd) : runBytes cd n ≤ 64 := by
  unfold elemKc at h
  split at h
  case h_9 =>
    have := elemBytes_le cd
    unfold runBytes
    split
    · omega
    · nlinarith
  all_goals
    simp [runBytes, elemBytes, codeWidth, intFmt]
    omega

/-- The elements of a row come out as they are in the whole tile. -/
theorem rowsOf_elem {cd n m i : Nat} {bs : List Byte} (hlen : bs.length = 1024) (hn : n ≤ elemKc cd) (hm : m < 16) (hi : i < n) :
    elemAt cd (((rowsOf 64 (runBytes cd n) bs).drop (64 * m)).take 64) i = elemAt cd ((bs.drop (64 * m)).take 64) i := by
  have h64 := run_in_row hn
  refine elemAt_congr (n := runBytes cd n) ?_ (elem_in_run hi)
  rw [List.take_take, List.take_take, Nat.min_eq_left h64, rowsOf_row (stride := 64) hlen h64 hm]

/-- So do the scales of its blocks. -/
theorem rowsOf_scale {n m i : Nat} {bs : List Byte} (hlen : bs.length = 64) (hn : n ≤ 128) (hm : m < 16) (hi : i < n) :
    (rowsOf 4 ((n + 31) / 32) bs).getD (4 * m + i / 32) 0 = bs.getD (4 * m + i / 32) 0 := by
  have hrow := congrArg (fun l : List Byte => l[i / 32]?) (rowsOf_row (stride := 4) (n := (n + 31) / 32) hlen (by omega) hm)
  have hblock : i / 32 < (n + 31) / 32 := by omega
  simp only [List.getElem?_take_of_lt hblock, List.getElem?_drop] at hrow
  rw [List.getD_eq_getElem?_getD, hrow, List.getD_eq_getElem?_getD]

end Sys2Proof.Machine
end

section
/-! SUPPORT. A strict tile step ends (R335): one event gives the accumulators the product of its tiles and pops them. -/

namespace Sys2Proof.Machine

open Sys2Proof.Claims

/-! The accumulators depend on the elements and scales of the K-chunk alone -/

theorem dotStep_congr {p : Nat} {efmt : Word} {acc : Nat} {xs ys : List Nat} {sa sa' sb sb' : Nat → Nat}
    (ha : ∀ i, i < xs.length → sa i = sa' i) (hb : ∀ i, i < ys.length → sb i = sb' i) :
    dotStep p efmt acc xs ys sa sb = dotStep p efmt acc xs ys sa' sb' := by
  have hex (cd : Nat) (d : Desc) (l : List Nat) (sc sc' : Nat → Nat) (h : ∀ i, i < l.length → sc i = sc' i) :
      (l.zipIdx.map fun q => scaledElem cd d q.1 (sc q.2)) = l.zipIdx.map fun q => scaledElem cd d q.1 (sc' q.2) :=
    List.map_congr_left fun q hq => by rw [h q.2 (List.snd_lt_of_mem_zipIdx hq)]
  unfold dotStep
  dsimp only
  rw [hex _ _ xs sa sa' ha, hex _ _ ys sb sb' hb]

theorem accMap_congr {dd : Bool} {acc : Memory} {a : Nat} {f g : Nat → Nat → Nat → Nat}
    (h : ∀ m q old, m < 16 → q < 16 → f m q old = g m q old) : accMap dd acc a f = accMap dd acc a g := by
  unfold accMap
  refine List.foldl_ext _ _ _ fun acc i hi => ?_
  have hi : i < 256 := List.mem_range.mp hi
  dsimp only
  rw [h _ _ _ (by omega) (by omega)]

/-- How many elements of each row the step's K-chunk has (R335). -/
def EngOp.mmaChunk (o : EngOp) : Nat := min (pairKc o.cmd) (o.ga.toNat - o.step * pairKc o.cmd)

/-- Two tiles with the same elements of element type `cd` in the chunk. -/
def sameElems (o : EngOp) (cd : Nat) (t t' : List Byte) : Prop := ∀ m i, m < 16 → i < o.mmaChunk →
  elemAt cd ((t.drop (64 * m)).take 64) i = elemAt cd ((t'.drop (64 * m)).take 64) i

/-- Two tiles of scales with the same scales in the chunk. -/
def sameScales (o : EngOp) (t t' : List Byte) : Prop := ∀ m i, m < 16 → i < o.mmaChunk → t.getD (4 * m + i / 32) 0 = t'.getD (4 * m + i / 32) 0

theorem mmaAcc_congr {o : EngOp} {acc : Memory} {ta ta' tb tb' sa sa' sb sb' : List Byte} (ha : sameElems o (pairCodes o.cmd).1 ta ta')
    (hb : sameElems o (pairCodes o.cmd).2 tb tb') (hsa : sameScales o sa sa') (hsb : sameScales o sb sb') :
    mmaAcc o acc ta tb sa sb = mmaAcc o acc ta' tb' sa' sb' := by
  have helems (cd : Nat) (t t' : List Byte) (h : sameElems o cd t t') (m : Nat) (hm : m < 16) :
      ((List.range o.mmaChunk).map (elemAt cd ((t.drop (64 * m)).take 64))) =
        (List.range o.mmaChunk).map (elemAt cd ((t'.drop (64 * m)).take 64)) :=
    List.map_congr_left fun i hi => h m i hm (List.mem_range.mp hi)
  obtain ⟨⟨ca, cb⟩, hcodes⟩ := exists_name (pairCodes o.cmd)
  rw [hcodes] at ha hb
  simp only [mmaAcc, hcodes]
  refine accMap_congr fun m q old hm hq => ?_
  rw [← EngOp.mmaChunk, helems _ _ _ ha m hm, helems _ _ _ hb q hq]
  refine dotStep_congr (fun i hi => ?_) fun i hi => ?_
  · rw [List.length_map, List.length_range] at hi
    rw [hsa m i hm hi]
  · rw [List.length_map, List.length_range] at hi
    rw [hsb q i hq hi]

theorem mmaChunk_le (o : EngOp) : o.mmaChunk ≤ elemKc (pairCodes o.cmd).1 ∧ o.mmaChunk ≤ elemKc (pairCodes o.cmd).2 := by
  have h : o.mmaChunk ≤ pairKc o.cmd := Nat.min_le_left ..
  have hkc : pairKc o.cmd = min (elemKc (pairCodes o.cmd).1) (elemKc (pairCodes o.cmd).2) := rfl
  rw [hkc] at h
  omega

theorem elemKc_le (cd : Nat) : elemKc cd ≤ 128 := by
  unfold elemKc
  split <;> omega

theorem sameElems_rowsOf {o : EngOp} {cd : Nat} {t : List Byte} (hlen : t.length = 1024) (hn : o.mmaChunk ≤ elemKc cd) :
    sameElems o cd (rowsOf 64 (runBytes cd o.mmaChunk) t) t := fun _ _ hm hi => rowsOf_elem hlen hn hm hi

theorem sameScales_rowsOf {o : EngOp} {t : List Byte} (hlen : t.length = 64) : sameScales o (rowsOf 4 ((o.mmaChunk + 31) / 32) t) t :=
  fun _ _ hm hi => rowsOf_scale hlen ((mmaChunk_le o).1.trans (elemKc_le _)) hm hi

/-! A strict step ends -/

/-- The head tile of a ring, read whole. -/
def State.headBytes (s : State) (c r n : Nat) (bs : List Byte) : Prop := s.homeRead (s.tileAddr c ((s.core c).headTile r) 0) n = some bs

theorem elemRead_gives {s : State} {c r cd n : Nat} {bs : List Byte} (hu : s.upToDate c = true) (h : s.headBytes c r 1024 bs)
    (hn : n ≤ elemKc cd) : (rowsRead c ((s.core c).headTile r) 64 (runBytes cd n)).run s = .ok (rowsOf 64 (runBytes cd n) bs, s) :=
  rowsRead_gives hu h (run_in_row hn)

/-- What a step reads of scales: those of a scaled operand, and nothing for another. -/
theorem scaleRead_bind {β : Type} {s : State} {c r n : Nat} {bs : List Byte} {scaled : Bool} (hu : s.upToDate c = true)
    (h : if scaled then s.headBytes c r 64 bs else bs = []) (hn : n ≤ 128) (f : List Byte → E β) :
    (if scaled then rowsRead c ((s.core c).headTile r) 4 ((n + 31) / 32) >>= f else pure [] >>= f : E β).run s =
      (f (if scaled then rowsOf 4 ((n + 31) / 32) bs else [])).run s := by
  cases scaled
  · rfl
  · exact E_bind_ok (rowsRead_gives (stride := 4) hu h (by omega))

theorem sameScales_read {s : State} {c r : Nat} {o : EngOp} {bs : List Byte} {scaled : Bool}
    (h : if scaled then s.headBytes c r 64 bs else bs = []) :
    sameScales o (if scaled then rowsOf 4 ((o.mmaChunk + 31) / 32) bs else []) bs := by
  cases scaled
  · rw [if_neg Bool.false_ne_true] at h
    rw [h]
    exact fun _ _ _ _ => rfl
  · exact sameScales_rowsOf (homeRead_length h)

/-- The core after a strict step: its accumulators updated, the head tiles popped, and the operation at its next step. -/
def Core.stepped (k : Core) (o : EngOp) (acc : Memory) : Core :=
  { o.mmaRings.foldl Core.popRing { k with acc := acc } with ops := [{ o with takes := [], step := o.step + 1 }] }

theorem pops_step {s : State} {c : Nat} {o : EngOp} (acc : Memory) (hops : (s.core c).ops = [o]) (howes : o.owes = [])
    (hwd : (s.core c).ringWd = []) : (((s.setCore c (o.mmaRings.foldl Core.popRing { s.core c with acc := acc })).modOp c o.tag fun o =>
      { o with takes := [] }).modOp c o.tag fun o => { o with step := o.step + 1 }).settleCore c =
        s.setCore c ((s.core c).stepped o acc) := by
  have hpops := onlyTiles_pops o.mmaRings { s.core c with acc := acc }
  unfold Core.stepped
  obtain ⟨k, hk⟩ := exists_name (o.mmaRings.foldl Core.popRing { s.core c with acc := acc })
  rw [hk] at hpops ⊢
  have hnext := modOp_setCore s c (k := { k with ops := [{ o with takes := [] }] }) (o := { o with takes := [] }) rfl
    fun o => { o with step := o.step + 1 }
  rw [modOp_setCore s c (hpops.ops.trans hops), hnext]
  refine settleCore_idle ?_
  rw [State.core_setCore]
  exact ⟨hpops.ringWd.trans hwd, by simp [howes]⟩

theorem mmaStrict_steps {s : State} {c : Nat} {o : EngOp} {ta tb sa sb : List Byte} (h : mmaAt s c o) (hu : s.upToDate c = true)
    (hta : s.headBytes c o.ra 1024 ta) (htb : s.headBytes c o.rb 1024 tb)
    (hsa : if (pairScaled o.cmd).1 then s.headBytes c o.sra 64 sa else sa = [])
    (hsb : if (pairScaled o.cmd).2 then s.headBytes c o.srb 64 sb else sb = []) :
    s.mmaStrict c o = s.setCore c ((s.core c).stepped o (mmaAcc o (s.core c).acc ta tb sa sb)) := by
  obtain ⟨hops, he, -, -, -, howes, hwd, -⟩ := h
  obtain ⟨hna, hnb⟩ := mmaChunk_le o
  have hn := hna.trans (elemKc_le _)
  have hra := elemRead_gives hu hta hna
  have hrb := elemRead_gives hu htb hnb
  have hacc : mmaAcc o (s.core c).acc (rowsOf 64 (runBytes (pairCodes o.cmd).1 o.mmaChunk) ta)
      (rowsOf 64 (runBytes (pairCodes o.cmd).2 o.mmaChunk) tb) (if (pairScaled o.cmd).1 then rowsOf 4 ((o.mmaChunk + 31) / 32) sa else [])
      (if (pairScaled o.cmd).2 then rowsOf 4 ((o.mmaChunk + 31) / 32) sb else []) = mmaAcc o (s.core c).acc ta tb sa sb :=
    mmaAcc_congr (sameElems_rowsOf (homeRead_length hta) hna) (sameElems_rowsOf (homeRead_length htb) hnb) (sameScales_read hsa)
      (sameScales_read hsb)
  unfold State.mmaStrict
  dsimp only
  split
  · next e heq =>
    rw [← EngOp.mmaChunk, E_bind_ok hra, E_bind_ok hrb, scaleRead_bind hu hsa hn, scaleRead_bind hu hsb hn] at heq
    cases heq
  · next ts t heq =>
    rw [← EngOp.mmaChunk, E_bind_ok hra, E_bind_ok hrb, scaleRead_bind hu hsa hn, scaleRead_bind hu hsb hn] at heq
    cases heq
    rw [State.modCore_modCore, ← pops_step _ hops howes hwd, ← hacc]
    rfl

end Sys2Proof.Machine
end

section
/-! SUPPORT. What an engine reads of this device's memory (R84, R131, R329): its bytes, piece by piece, with nothing changed but the reads of DRAM
on their way. -/

namespace Sys2Proof.Machine

open Sys2Proof.Claims

/-! Pieces of a run of bytes -/

/-- The pieces of a run, with fuel for all of them, are the run. -/
theorem chunks_flatten (bs : List Byte) (va : Nat) : ∀ (f a n : Nat), n = 0 ∨ n + a % 8 ≤ 8 * f → va ≤ a → bs.length = a - va + n →
    ((chunks f a n).map fun p => (bs.drop (p.1 - va)).take p.2).flatten = bs.drop (a - va) := by
  intro f
  induction f with
  | zero =>
    intro a n hf _ hlen
    rw [List.drop_eq_nil_of_le (by omega)]
    rfl
  | succ f ih =>
    intro a n hf hva hlen
    rw [chunks]
    split
    · rw [List.drop_eq_nil_of_le (by omega)]
      rfl
    · obtain ⟨k, hk⟩ := exists_name (min n (8 - a % 8))
      dsimp only
      rw [hk, List.map_cons, List.flatten_cons, ih (a + k) (n - k) (by omega) (by omega) (by omega),
        show a + k - va = a - va + k by omega, ← List.drop_drop, List.take_append_drop]

theorem chunks_whole (bs : List Byte) (va : Nat) :
    ((chunks (bs.length / 8 + 2) va bs.length).map fun p => (bs.drop (p.1 - va)).take p.2).flatten = bs := by
  rw [chunks_flatten bs va _ va bs.length (by omega) le_rfl (by omega), Nat.sub_self, List.drop_zero]

/-! An engine's access to this device's memory (R131) -/

theorem inControl_of_isControl {pa : Nat} (h : (regionOf (localOf pa)).isControl = true) : inControl pa = true := by
  unfold regionOf at h
  unfold inControl
  split_ifs at h <;> simp [Region.isControl] at h ⊢ <;> omega

/-- An address of this device that is neither refused nor in control space is homed at a core. -/
theorem placeOf_core {s : State} {pa : Nat} (hd : devOf pa = s.devid.toNat) (hr : s.refused pa = false) (hc : inControl pa = false)
    (named : Bool) : ∃ y, s.placeOf pa named = .core y := by
  have hcontrol : (regionOf (localOf pa)).isControl = false := by
    by_contra h
    rw [inControl_of_isControl (by simpa using h)] at hc
    cases hc
  unfold State.placeOf
  unfold State.refused at hr
  rw [if_neg (not_not.mpr hd)]
  cases hreg : regionOf (localOf pa) <;> simp_all [Region.isControl]
  cases named <;> simp

theorem accessOf_place {s : State} {e : TlbEnt} {va : Nat} {a : Access} (h : s.accessOf e va = some a) :
    ∃ named, a.place = s.placeOf a.pa named := by
  unfold State.accessOf at h
  dsimp only at h
  split at h
  · split at h
    · cases h
    · split at h
      · cases h; exact ⟨_, rfl⟩
      · cases h; exact ⟨_, rfl⟩
      · cases h
  · cases h
    exact ⟨_, rfl⟩

/-- A landing access is one to a core with nothing due. -/
theorem engAccess_lands {s : State} {c va pa : Nat} {o : EngOp} {kind : Kind} (h : engLands s c o none va kind pa) :
    ∃ a y, (engAccess c o va kind).run s = .ok (a, s) ∧ a.pa = pa ∧ a.place = .core y ∧ s.settle (.core y) = s := by
  obtain ⟨hva, e, a, hfind, hallows, hstale, hacc, rfl, hdev, hr, hg, hcontrol, hcur⟩ := h
  obtain ⟨named, hplace⟩ := accessOf_place hacc
  obtain ⟨y, hy⟩ := placeOf_core hdev hr hcontrol named
  rw [hy] at hplace
  rw [hplace] at hcur
  refine ⟨a, y, ?_, rfl, hplace, settle_current hcur⟩
  have hget : (get : E State).run s = .ok (s, s) := rfl
  have hroute : (s.reroute && devOf a.pa != s.devid.toNat) = false := by rw [hdev]; simp
  rw [engAccess, E_bind_ok hget, if_neg (Nat.not_le.mpr hva), hfind]
  dsimp only
  rw [hallows, hstale, hacc, Bool.not_true, if_neg Bool.false_ne_true, if_neg Bool.false_ne_true]
  dsimp only
  rw [hr, hg, hcontrol, hroute]
  rfl

/-! Reads that leave everything but the controllers' queues (R51, R84) -/

theorem passBy_dram (s : State) (p : Place) (pa n : Nat) (lc : BitVec 2) : ∃ d, s.passBy p pa n lc = { s with dram := d } := by
  unfold State.passBy State.needMsc State.toDram
  dsimp only
  split
  · exact ⟨s.dram, rfl⟩
  · split
    · exact ⟨s.dram, rfl⟩
    · split
      · exact ⟨_, rfl⟩
      · exact ⟨s.dram, rfl⟩

/-- Two states that differ in the controllers' queues and in engine operations alone: an engine reads the same of both. -/
def EngView (s t : State) : Prop :=
  (∃ cs d, t = { s with cores := cs, dram := d }) ∧ ∀ y, t.core y = { s.core y with ops := (t.core y).ops }

theorem EngView.refl (s : State) : EngView s s := ⟨⟨s.cores, s.dram, rfl⟩, fun _ => rfl⟩

theorem EngView.trans {s t u : State} (h : EngView s t) (h' : EngView t u) : EngView s u := by
  obtain ⟨⟨cs, d, rfl⟩, hc⟩ := h
  obtain ⟨⟨cs', d', rfl⟩, hc'⟩ := h'
  refine ⟨⟨cs', d', rfl⟩, fun y => ?_⟩
  rw [hc' y, hc y]

theorem engView_dram (s : State) (d : List DramReq) : EngView s { s with dram := d } := ⟨⟨s.cores, d, rfl⟩, fun _ => rfl⟩

theorem engView_modCore (s : State) (c : Nat) (f : Core → List EngOp) : EngView s (s.modCore c fun k => { k with ops := f k }) := by
  refine ⟨⟨_, s.dram, rfl⟩, fun y => ?_⟩
  by_cases h : y = c
  · rw [h, State.core_modCore]
  · rw [State.core_modCore_ne _ _ h]

theorem EngView.lands {s t : State} (h : EngView s t) {c va pa : Nat} {o : EngOp} {kind : Kind} (hl : engLands s c o none va kind pa) :
    engLands t c o none va kind pa := by
  obtain ⟨⟨cs, d, hcs⟩, hc⟩ := h
  obtain ⟨hva, e, a, hfind, hallows, hstale, hacc, hpa, hdev, hr, hg, hcontrol, hcur⟩ := hl
  have htlb : (t.core c).tlb = (s.core c).tlb := by rw [hc c]
  have htfind : t.tlbFind c o.ctx va = s.tlbFind c o.ctx va := by
    rw [State.tlbFind, htlb, hcs]
    rfl
  have hcal : t.calOf a.place = s.calOf a.place := by
    cases hp : a.place with
    | core y =>
      have hcal : (t.core y).cal = (s.core y).cal := by rw [hc y]
      have hwait : (t.core y).calWait = (s.core y).calWait := by rw [hc y]
      have hloads : (t.core y).loads = (s.core y).loads := by rw [hc y]
      simp only [State.calOf, hcal, hwait, hloads]
    | control => rfl
    | device y z => rw [hcs]; rfl
  have hcurrent : t.current a.place = s.current a.place := by
    have hclock : t.clock a.place = s.clock a.place := by rw [hcs]; rfl
    rw [State.current, hcal, hclock, State.current]
  refine ⟨hva, e, a, htfind.trans hfind, hallows, hstale, ?_, hpa, ?_, ?_, ?_, hcontrol, hcurrent.trans hcur⟩
  · rw [hcs]; exact hacc
  · rw [hcs]; exact hdev
  · rw [hcs]; exact hr
  · rw [hcs]; exact hg

theorem EngView.sees {s t : State} (h : EngView s t) {c va : Nat} {o : EngOp} {R : Nat → Bool} {bs : List Byte}
    (hs : engSees s c o R none va bs) : engSees t c o R none va bs := by
  intro p hp
  obtain ⟨pa, hl, hread, hR⟩ := hs p hp
  refine ⟨pa, h.lands hl, ?_, hR⟩
  obtain ⟨⟨cs, d, hcs⟩, -⟩ := h
  rw [hcs]
  exact hread

theorem readAt_core (s : State) (y pa n : Nat) :
    s.readAt (.core y) pa n = ((s.settle (.core y)).homeRead pa n, s.settle (.core y)) := rfl

/-- One piece of an engine's read. -/
def enginePiece (c : Nat) (o : EngOp) (p : Nat × Nat) : E (List Byte) := do
  let a ← engAccess c o p.1 .engineRead
  match (← get).readAt a.place a.pa p.2 with
  | (some bs, s) => do
    set (s.passBy a.place a.pa p.2 a.lc)
    pure bs
  | (none, _) => throw (.error (some (a.pa / 64 * 64)))

theorem engRead_eq (c : Nat) (o : EngOp) (va n : Nat) :
    engRead c o va n = (chunks (n / 8 + 2) va n).mapM (enginePiece c o) >>= fun ps => pure ps.flatten := rfl

theorem enginePiece_lands {s : State} {c pa : Nat} {o : EngOp} {p : Nat × Nat} {bs : List Byte} (hl : engLands s c o none p.1 .engineRead pa)
    (hread : s.homeRead pa p.2 = some bs) : ∃ d, (enginePiece c o p).run s = .ok (bs, { s with dram := d }) := by
  obtain ⟨a, y, hacc, hpa, hplace, hset⟩ := engAccess_lands hl
  obtain ⟨d, hd⟩ := passBy_dram s a.place a.pa p.2 a.lc
  refine ⟨d, ?_⟩
  have hget : (get : E State).run s = .ok (s, s) := rfl
  have hat : s.readAt a.place a.pa p.2 = (some bs, s) := by rw [hplace, readAt_core, hset, hpa, hread]
  rw [enginePiece, E_bind_ok hacc, E_bind_ok hget, hat, ← hd]
  rfl

/-- An engine reads what it sees of memory; reads of DRAM may then be on their way. -/
theorem engRead_sees {s : State} {c va : Nat} {o : EngOp} {R : Nat → Bool} {bs : List Byte} (h : engSees s c o R none va bs) :
    ∃ d, (engRead c o va bs.length).run s = .ok (bs, { s with dram := d }) := by
  have hpiece : ∀ p ∈ chunks (bs.length / 8 + 2) va bs.length, ∀ u, (∃ d, u = { s with dram := d }) →
      ∃ t, (enginePiece c o p).run u = .ok ((bs.drop (p.1 - va)).take p.2, t) ∧ ∃ d, t = { s with dram := d } := by
    rintro p hp u ⟨d, rfl⟩
    obtain ⟨pa, hl, hread, -⟩ := h p hp
    obtain ⟨d', hd'⟩ := enginePiece_lands ((engView_dram s d).lands hl) hread
    exact ⟨_, hd', d', rfl⟩
  obtain ⟨t, ht, d, rfl⟩ := mapM_gives _ hpiece ⟨s.dram, rfl⟩
  refine ⟨d, ?_⟩
  rw [engRead_eq, E_bind_ok ht, chunks_whole]
  rfl

end Sys2Proof.Machine
end

section
/-! THEOREM. EngineOperationsRun (O49): its operations begin, take their steps, complete and combine. -/

namespace Sys2Proof.Machine

open Sys2Proof.Claims

/-! A device with one core listed, and one operation there -/

/-- Core `c` is the one listed, with one operation. -/
def State.lone (s : State) (c : Nat) (o : EngOp) : Prop := ∃ k, s.cores = [(c, k)] ∧ k.ops = [o]

theorem State.lone.ops {s : State} {c : Nat} {o : EngOp} (h : s.lone c o) : (s.core c).ops = [o] := by
  obtain ⟨k, hk, hops⟩ := h
  rw [State.core, hk]
  simp only [tget, if_true, Option.getD_some]
  exact hops

/-- The operation changed. -/
theorem State.lone.modOp {s : State} {c : Nat} {o : EngOp} (h : s.lone c o) (f : EngOp → EngOp) : (s.modOp c o.tag f).lone c (f o) := by
  rw [modOp_sole h.ops]
  obtain ⟨k, hk, -⟩ := h
  refine ⟨{ s.core c with ops := [f o] }, ?_, rfl⟩
  simp [State.modCore, State.setCore, hk, tset]

theorem State.lone.dram {s : State} {c : Nat} {o : EngOp} (h : s.lone c o) (d : List DramReq) : ({ s with dram := d } : State).lone c o := h

/-- The operation is its group's one participant on the device, or is not of the group. -/
theorem State.lone.group {s : State} {c : Nat} {o : EngOp} (h : s.lone c o) (he : o.eng = 3) (hres : o.res = none) (hcancel : o.cancel = none)
    (begun : Bool) : s.group o.colTag begun = if o.comb.isSome == begun then [(c, o)] else [] := by
  obtain ⟨k, hk, hops⟩ := h
  rw [State.group, hk]
  simp only [List.flatMap_cons, List.flatMap_nil, List.append_nil, hops, List.filter_cons, List.filter_nil, he, hres, hcancel, beq_self_eq_true,
    Option.isNone_none, Bool.true_and]
  split <;> rfl

/-! A collective of one participant (R351 to R353) -/

/-- The participant of a group that combines with what it has read so far. -/
def EngOp.combining (o : EngOp) (got : Option (List Nat × List Nat)) : EngOp := { o with st := .begun, comb := some ⟨[], got⟩ }

/-- The elements of a participant's source. -/
def EngOp.elemsOf (o : EngOp) (bs : List Byte) : List Nat :=
  (List.range o.colCount).map fun i => leNat ((bs.drop (elemBytes o.colFmt * i)).take (elemBytes o.colFmt))

theorem colSource_sees {s : State} {c : Nat} {o : EngOp} {R : Nat → Bool} {bs : List Byte} (hlen : bs.length = elemBytes o.colFmt * o.colCount)
    (h : engSees s c o R none o.ga.toNat bs) : ∃ d, (colSource c o).run s = .ok (o.elemsOf bs, { s with dram := d }) := by
  obtain ⟨d, hd⟩ := engRead_sees h
  rw [hlen] at hd
  refine ⟨d, ?_⟩
  rw [colSource, E_bind_ok hd]
  rfl

theorem listed_devid (s : State) : leNat (((natLe s.devid.toNat 2).drop (2 * 0)).take 2) = s.devid.toNat := by
  rw [Nat.mul_zero, List.drop_zero, List.take_of_length_le (by rw [natLe_length]), leNat_natLe]
  exact Nat.mod_eq_of_lt (by have := s.devid.isLt; omega)

/-- What the one participant reads: its device alone in the list, and its source unless a BCAST reads it later. -/
theorem colRead_sees {s : State} {c : Nat} {o : EngOp} {R : Nat → Bool} {bs : List Byte} (hn : o.colNdev = 1)
    (hlist : engSees s c o R none o.colList (natLe s.devid.toNat 2)) (hlen : bs.length = elemBytes o.colFmt * o.colCount)
    (h : engSees s c o R none o.ga.toNat bs) :
    ∃ d, (colRead c o).run s = .ok (([s.devid.toNat], if o.cmd = 1 then [] else o.elemsOf bs), { s with dram := d }) := by
  obtain ⟨d, hd⟩ := engRead_sees hlist
  obtain ⟨d', hd'⟩ := colSource_sees hlen ((engView_dram s d).sees h)
  rw [natLe_length] at hd
  have hlist : ((List.range 1).map fun i => leNat (((natLe s.devid.toNat 2).drop (2 * i)).take 2)) = [s.devid.toNat] := by
    rw [List.range_one, List.map_singleton, listed_devid]
  by_cases hcmd : o.cmd = 1
  · refine ⟨d, ?_⟩
    rw [colRead, hn, Nat.mul_one, E_bind_ok hd, if_pos hcmd, if_pos hcmd, ← hlist]
    rfl
  · refine ⟨d', ?_⟩
    rw [colRead, hn, Nat.mul_one, E_bind_ok hd, if_neg hcmd, if_neg hcmd, E_bind_ok hd', ← hlist]
    rfl

/-- The result of one participant is its source, element by element. -/
theorem colResult_one (o : EngOp) (ordered : Bool) (tick pos lane : Nat) (bs : List Byte) :
    colResult o ordered tick [⟨pos, lane, o.elemsOf bs⟩] =
      (List.range o.colCount).map fun i => colElem o (leNat ((bs.drop (elemBytes o.colFmt * i)).take (elemBytes o.colFmt))) := by
  refine List.map_congr_left fun i hi => ?_
  have hget : (o.elemsOf bs).getD i 0 = leNat ((bs.drop (elemBytes o.colFmt * i)).take (elemBytes o.colFmt)) := by
    have hi : i < o.colCount := List.mem_range.mp hi
    simp [EngOp.elemsOf, hi]
  simp only [List.map_cons, List.map_nil, hget]
  obtain ⟨x, hx⟩ := exists_name (leNat ((bs.drop (elemBytes o.colFmt * i)).take (elemBytes o.colFmt)))
  rw [hx]
  have hone (b : Bool) : (if b then [x].tail.foldl (colCombine o.colOp o.colFmt) ([x].headD 0)
      else pairUp (colCombine o.colOp o.colFmt) ([x].length - 1) (tick + 2 * [x].length * i) [x]) = x := by cases b <;> rfl
  unfold colElem
  by_cases hcmd : o.cmd = 1
  · rw [if_pos hcmd, if_pos hcmd]
    rfl
  · rw [if_neg hcmd, if_neg hcmd, hone]
    rfl

/-- The result that a collective of one participant is given. -/
def EngOp.loneResult (o : EngOp) (dev : Nat) (bs : List Byte) : OpResult :=
  ⟨0, o.colCount, ((List.range o.colCount).map fun i =>
    colElem o (leNat ((bs.drop (elemBytes o.colFmt * i)).take (elemBytes o.colFmt)))).zipIdx.map
      fun x => (o.gb.toNat + elemBytes o.colFmt * x.2, natLe x.1 (elemBytes o.colFmt)), 1, [dev], []⟩

/-- The chain of one participant, with its source: a BCAST reads it now. -/
theorem chain_lone {s : State} {c : Nat} {o : EngOp} {R : Nat → Bool} {bs : List Byte}
    (hlen : bs.length = elemBytes o.colFmt * o.colCount) (hsees : engSees s c o R none o.ga.toNat bs) :
    ∃ d, (if o.cmd = 1 then s.bcastRead [(c, o)] 0 [⟨0, o.lane.toNat, if o.cmd = 1 then [] else o.elemsOf bs⟩]
      else .ok (s, [⟨0, o.lane.toNat, if o.cmd = 1 then [] else o.elemsOf bs⟩])) =
        .ok ({ s with dram := d }, [⟨0, o.lane.toNat, o.elemsOf bs⟩]) := by
  by_cases hcmd : o.cmd = 1
  · obtain ⟨d, hd⟩ := colSource_sees hlen hsees
    refine ⟨d, ?_⟩
    rw [if_pos hcmd, if_pos hcmd, State.bcastRead, List.find?_cons_of_pos (by simp)]
    dsimp only
    rw [hd]
  · refine ⟨s.dram, ?_⟩
    rw [if_neg hcmd, if_neg hcmd]

theorem combineRead_lone {s : State} {c : Nat} {o : EngOp} {R : Nat → Bool} {bs : List Byte} (h : s.lone c o)
    (hcomb : o.comb = some ⟨[], some ([s.devid.toNat], if o.cmd = 1 then [] else o.elemsOf bs)⟩) (he : o.eng = 3) (hres : o.res = none)
    (hcancel : o.cancel = none) (hppd : o.colPpd = 1) (hlen : bs.length = elemBytes o.colFmt * o.colCount)
    (hsees : engSees s c o R none o.ga.toNat bs) :
    ∃ q, ((s.combineRead o.colTag).core c).ops = [q] ∧ q.st = .begun ∧ q.res = some (o.loneResult s.devid.toNat bs) := by
  have hgroup : s.group o.colTag true = [(c, o)] := by rw [h.group he hres hcancel, hcomb]; rfl
  obtain ⟨d, hchain⟩ := chain_lone hlen hsees
  obtain ⟨e, hhe⟩ := exists_name (if o.cmd = 1 then [] else o.elemsOf bs)
  rw [hhe] at hcomb hchain
  unfold State.combineRead
  rw [hgroup]
  dsimp only
  simp only [List.map_cons, List.map_nil, hcomb, Option.bind_some, Option.getD_some, List.headD_cons]
  rw [if_neg (by simp [hppd]), if_neg (by simp)]
  have hpos : [s.devid.toNat].findIdx (fun x => x == s.devid.toNat) = 0 := by simp [List.findIdx_cons]
  simp only [hpos, List.zip_cons_cons, List.zip_nil_left, List.map_cons, List.map_nil, List.append_nil, List.foldl_cons, List.foldl_nil, chainInsert]
  rw [hchain]
  dsimp only
  rw [colResult_one]
  have hlone (t : State) (ht : t.cores = s.cores) : t.lone c o := by
    obtain ⟨k, hk, hops⟩ := h
    exact ⟨k, ht.trans hk, hops⟩
  exact ⟨_, ((hlone _ rfl).modOp _).ops, rfl, rfl⟩

/-- The participant reads its list and its source, and is combined. -/
theorem combine_lone {s : State} {c : Nat} {o : EngOp} {R : Nat → Bool} {bs : List Byte} (h : s.lone c (o.combining none)) (he : o.eng = 3)
    (hres : o.res = none) (hcancel : o.cancel = none) (hndev : o.colNdev = 1) (hppd : o.colPpd = 1)
    (hlist : engSees s c o R none o.colList (natLe s.devid.toNat 2)) (hlen : bs.length = elemBytes o.colFmt * o.colCount)
    (hsees : engSees s c o R none o.ga.toNat bs) :
    ∃ q, ((s.combine o.colTag).core c).ops = [q] ∧ q.st = .begun ∧ q.res = some (o.loneResult s.devid.toNat bs) := by
  obtain ⟨p, hp⟩ := exists_name (o.combining none)
  have hgroup : s.group o.colTag true = [(c, p)] := by rw [← hp]; exact h.group he hres hcancel true
  obtain ⟨d, hread⟩ : ∃ d, (colRead c p).run s =
      .ok (([s.devid.toNat], if p.cmd = 1 then [] else p.elemsOf bs), { s with dram := d }) := by
    subst hp
    exact colRead_sees (o := o.combining none) hndev hlist hlen hsees
  have hst : p.st = .begun := hp ▸ rfl
  have hgot : (p.comb.bind Comb.got).isSome = false := hp ▸ rfl
  obtain ⟨x, hx⟩ := exists_name ([s.devid.toNat], if p.cmd = 1 then [] else p.elemsOf bs)
  rw [hx] at hread
  rw [hp] at h
  have hnext := State.lone.modOp (h.dram d) fun o => { o with comb := o.comb.map fun b => { b with got := some x } }
  have hview : EngView s (({ s with dram := d } : State).modOp c p.tag fun o => { o with comb := o.comb.map fun b => { b with got := some x } }) :=
    (engView_dram s d).trans (engView_modCore _ c _)
  have hall : colReadAll s [(c, p)] = ((({ s with dram := d } : State).modOp c p.tag fun o =>
      { o with comb := o.comb.map fun b => { b with got := some x } }), none) := by
    rw [colReadAll, hgot, if_neg Bool.false_ne_true, hread]
    rfl
  unfold State.combine
  rw [hgroup]
  dsimp only
  rw [hall]
  rw [if_neg (by simp [hst]), if_neg (by simp [hst])]
  obtain ⟨u, hu⟩ := exists_name (({ s with dram := d } : State).modOp c p.tag fun o => { o with comb := o.comb.map fun b => { b with got := some x } })
  rw [hu] at hnext hview ⊢
  have hdev : u.devid = s.devid := by
    obtain ⟨⟨cs, d, rfl⟩, -⟩ := hview
    rfl
  dsimp only
  subst hp
  have hdone := combineRead_lone hnext (bs := bs) (R := R) (by rw [hdev, ← hx]; rfl) he hres hcancel hppd hlen (hview.sees hsees)
  rw [hdev] at hdone
  exact hdone

/-- A group of one participant is complete when that has issued. -/
theorem collectiveCombine_lone {s : State} {c : Nat} {o : EngOp} (h : s.lone c o) (he : o.eng = 3) (hres : o.res = none) (hcancel : o.cancel = none)
    (hcomb : o.comb = none) (hndev : o.colNdev = 1) (hppd : o.colPpd = 1) :
    exec (.collectiveCombine o.colTag []) s = .next ((s.modOp c o.tag fun o => o.combining none).combine o.colTag) := by
  have hexec : exec (.collectiveCombine o.colTag []) s = execCollectiveCombine o.colTag [] s := rfl
  have hbegun : s.group o.colTag true = [] := by rw [h.group he hres hcancel, hcomb]; rfl
  have hgroup : s.group o.colTag = [(c, o)] := by rw [h.group he hres hcancel, hcomb]; rfl
  have horder : (s.core c).inOrder o o.colTag = true := by
    rw [Core.inOrder, h.ops]
    simp
  rw [hexec, execCollectiveCombine, hbegun]
  dsimp only
  rw [hgroup]
  dsimp only
  rw [if_neg (by simp), if_neg (by simp), if_neg (by simp [hndev, hppd, horder])]
  rfl

theorem collective_combines {s : State} {c : Nat} {o : EngOp} {bs : List Byte} (hcores : s.cores = [(c, s.core c)])
    (hops : (s.core c).ops = [o]) (he : o.eng = 3) (hres : o.res = none) (hcancel : o.cancel = none) (hcomb : o.comb = none)
    (hndev : o.colNdev = 1) (hppd : o.colPpd = 1) (hlist : engSees s c o (fun _ => true) none o.colList (natLe s.devid.toNat 2))
    (hlen : bs.length = elemBytes o.colFmt * o.colCount) (hsees : engSees s c o (fun _ => true) none o.ga.toNat bs) :
    ∃ t q, exec (.collectiveCombine o.colTag []) s = .next t ∧ (t.core c).ops = [q] ∧ q.st = .begun ∧
      q.res = some (o.loneResult s.devid.toNat bs) := by
  have hlone : s.lone c o := ⟨s.core c, hcores, hops⟩
  have hnext := hlone.modOp fun o => o.combining none
  have hview : EngView s (s.modOp c o.tag fun o => o.combining none) := engView_modCore s c _
  have hexec := collectiveCombine_lone hlone he hres hcancel hcomb hndev hppd
  obtain ⟨u, hu⟩ := exists_name (s.modOp c o.tag fun o => o.combining none)
  rw [hu] at hnext hview hexec
  have hdev : u.devid = s.devid := by
    obtain ⟨⟨cs, d, rfl⟩, -⟩ := hview
    rfl
  obtain ⟨q, hq⟩ := combine_lone hnext he hres hcancel hndev hppd (by rw [hdev]; exact hview.sees hlist) hlen (hview.sees hsees)
  rw [hdev] at hq
  exact ⟨_, q, hexec, hq⟩

/-! The obligation -/

theorem stepped_pops (k : Core) (o : EngOp) (acc : Memory) : (k.stepped o acc).acc = acc ∧
    (k.stepped o acc).ops = [{ o with takes := [], step := o.step + 1 }] ∧ ∀ r ∈ o.mmaRings, (k.stepped o acc).emptied (k.headTile r) := by
  have hpops := onlyTiles_pops o.mmaRings { k with acc := acc }
  have hemp := emptied_pops o.mmaRings { k with acc := acc }
  unfold Core.stepped
  obtain ⟨k', hk⟩ := exists_name (o.mmaRings.foldl Core.popRing { k with acc := acc })
  rw [hk] at hpops hemp ⊢
  exact ⟨hpops.acc, rfl, hemp⟩

/-- Settles O49, by the step that each clause names. -/
theorem engineOperationsRun : Obligations.EngineOperationsRun := by
  unfold Obligations.EngineOperationsRun
  refine ⟨fun s c o hops he hcmd hst hcancel hres hcomb hsize hready hown => mld_begins hops he hcmd hst hcancel hres hcomb hsize hready hown,
    fun s c o h => ⟨fun ht hcancel hstep _ hready hsize => ?_, fun ta tb sa sb hmem hu hta htb hsa hsb => ?_, fun ht _ hfree => ?_⟩,
    fun s c o hops he hst hres hcancel hstep hfill hclaim hsrc hpart hjoins hfwd hdest hwd hscope =>
      copy_completes hops he hst hres hcancel hstep hfill hclaim hsrc hpart hjoins hfwd hdest hwd hscope,
    fun s c o bs hcores hops he _ hres hcancel hcomb hndev hppd hlist hlen hsees =>
      collective_combines hcores hops he hres hcancel hcomb hndev hppd hlist hlen hsees⟩
  · obtain ⟨hsame, hops, hdrain⟩ := mmaTake_drains (c := c) h.1 (mmaTakes (s.core c) o)
    exact ⟨_, mmaStep_begins h ht hcancel hstep hready hsize, hsame, hops, hdrain⟩
  · have hsteps := mmaStrict_steps h hu hta htb hsa hsb
    obtain ⟨hacc, hops, hpops⟩ := stepped_pops (s.core c) o (mmaAcc o (s.core c).acc ta tb sa sb)
    have hexec := mmaStep_ends h (List.ne_nil_of_mem hmem)
    rw [if_pos (List.contains_iff_mem.mpr hmem), hsteps] at hexec
    refine ⟨_, hexec, fun _ => rfl, ?_⟩
    dsimp only
    rw [State.core_setCore]
    exact ⟨hacc, hops, hpops⟩
  · have hexec := mmaStep_ends h ht
    rw [if_neg fun hmem => hfree (List.contains_iff_mem.mp hmem)] at hexec
    obtain ⟨⟨cs, hcs⟩, hacc, -, ⟨q, hops, -, hstep, htakes⟩, hemp⟩ := mmaFree_frees h
    refine ⟨_, q, hexec, fun a => by rw [hcs]; rfl, hacc, hops, hstep, htakes, fun r hr => hemp _ (List.mem_map_of_mem hr)⟩

end Sys2Proof.Machine
end
